-- ==== Sys2Proof/Word.lean ====
section
/-! DEFINITION. The words the serial line carries and the counters that wrap, and the fixed topology
of the vehicle (00_scope.md Table 0-1): axles, bogies, ends, channels, and one value for each of them. -/

namespace Sys2Proof

/-- One byte of the serial line (R189). -/
abbrev Byte := BitVec 8

/-- A value of a 32-bit counter: the millisecond time counter (R2) or the microsecond counter (R3).
Intervals are differences modulo 2^32. -/
abbrev Time := BitVec 32

/-- A direction of travel, or of one sensor edge (Table 0-1: FORWARD means End 1 leads). -/
inductive Direction where
  | forward
  | reverse
deriving DecidableEq, Repr

/-- `dir` of R30 and R47: +1 in FORWARD, −1 in REVERSE. -/
def Direction.sign : Direction → Int
  | .forward => 1
  | .reverse => -1

/-- The bogies (Table 0-1): A and B are motor bogies, T is the trailer. -/
inductive Bogie where
  | a
  | t
  | b
deriving DecidableEq, Repr

/-- The two motor bogies, each fed by one inverter. -/
inductive Motor where
  | a
  | b
deriving DecidableEq, Repr

/-- The two driving ends. -/
inductive Side where
  | one
  | two
deriving DecidableEq, Repr

/-- The six axle channels, numbers 0 to 5 in this order. -/
inductive Axle where
  | a1
  | a2
  | t1
  | t2
  | b1
  | b2
deriving DecidableEq, Repr

/-- The seven speed channels: the axles, and the ground channel, number 6. -/
inductive Chan where
  | axle (x : Axle)
  | ground
deriving DecidableEq, Repr

/-- The five analog channels 0 to 4: pressures PA, PT, PB and inverter forces EA, EB (Table 8-2). -/
inductive Analog where
  | pressure (x : Bogie)
  | force (m : Motor)
deriving DecidableEq, Repr

def Motor.bogie : Motor → Bogie
  | .a => .a
  | .b => .b

/-- The motor of a bogie, none for the trailer. -/
def Bogie.motor? : Bogie → Option Motor
  | .a => some .a
  | .t => none
  | .b => some .b

def Axle.bogie : Axle → Bogie
  | .a1 => .a
  | .a2 => .a
  | .t1 => .t
  | .t2 => .t
  | .b1 => .b
  | .b2 => .b

/-- The other axle of the same bogie. -/
def Axle.partner : Axle → Axle
  | .a1 => .a2
  | .a2 => .a1
  | .t1 => .t2
  | .t2 => .t1
  | .b1 => .b2
  | .b2 => .b1

def Axle.isMotor : Axle → Bool
  | .t1 => false
  | .t2 => false
  | .a1 => true
  | .a2 => true
  | .b1 => true
  | .b2 => true

def Axle.number : Axle → Nat
  | .a1 => 0
  | .a2 => 1
  | .t1 => 2
  | .t2 => 3
  | .b1 => 4
  | .b2 => 5

def Axle.ofNumber? : Nat → Option Axle
  | 0 => some .a1
  | 1 => some .a2
  | 2 => some .t1
  | 3 => some .t2
  | 4 => some .b1
  | 5 => some .b2
  | _ => none

def Axle.all : List Axle := [.a1, .a2, .t1, .t2, .b1, .b2]

def Chan.number : Chan → Nat
  | .axle x => x.number
  | .ground => 6

def Chan.all : List Chan := [.axle .a1, .axle .a2, .axle .t1, .axle .t2, .axle .b1, .axle .b2, .ground]

/-- The two axles of a bogie. -/
def Bogie.axles : Bogie → Axle × Axle
  | .a => (.a1, .a2)
  | .t => (.t1, .t2)
  | .b => (.b1, .b2)

/-- R194: bogies are coded 0 for A, 1 for T and 2 for B. -/
def Bogie.number : Bogie → Nat
  | .a => 0
  | .t => 1
  | .b => 2

def Bogie.all : List Bogie := [.a, .t, .b]

def Side.all : List Side := [.one, .two]

/-- R194: ends are coded 1 and 2. -/
def Side.number : Side → Nat
  | .one => 1
  | .two => 2

def Analog.number : Analog → Nat
  | .pressure x => x.number
  | .force .a => 3
  | .force .b => 4

def Analog.all : List Analog := [.pressure .a, .pressure .t, .pressure .b, .force .a, .force .b]

/-- The end that leads in a travel direction: End 1 in FORWARD, End 2 in REVERSE (Table 0-1). -/
def Direction.leading : Direction → Side
  | .forward => .one
  | .reverse => .two

/-- The end behind in a travel direction. -/
def Direction.trailing : Direction → Side
  | .forward => .two
  | .reverse => .one

/-- One value for each bogie. -/
structure PerBogie (α : Type) where
  a : α
  t : α
  b : α
deriving DecidableEq, Repr

def PerBogie.get {α : Type} (p : PerBogie α) : Bogie → α
  | .a => p.a
  | .t => p.t
  | .b => p.b

def PerBogie.set {α : Type} (p : PerBogie α) (x : Bogie) (v : α) : PerBogie α :=
  match x with
  | .a => { p with a := v }
  | .t => { p with t := v }
  | .b => { p with b := v }

/-- The table whose value at each bogie is `f`'s. -/
def PerBogie.of {α : Type} (f : Bogie → α) : PerBogie α := ⟨f .a, f .t, f .b⟩

def PerBogie.toList {α : Type} (p : PerBogie α) : List α := [p.a, p.t, p.b]

/-- The sum over the three bogies. -/
def PerBogie.sum (p : PerBogie Nat) : Nat := p.a + p.t + p.b

/-- One value for each motor bogie. -/
structure PerMotor (α : Type) where
  a : α
  b : α
deriving DecidableEq, Repr

def PerMotor.get {α : Type} (p : PerMotor α) : Motor → α
  | .a => p.a
  | .b => p.b

def PerMotor.set {α : Type} (p : PerMotor α) (x : Motor) (v : α) : PerMotor α :=
  match x with
  | .a => { p with a := v }
  | .b => { p with b := v }

def PerMotor.of {α : Type} (f : Motor → α) : PerMotor α := ⟨f .a, f .b⟩

/-- One value for each end. -/
structure PerSide (α : Type) where
  one : α
  two : α
deriving DecidableEq, Repr

def PerSide.get {α : Type} (p : PerSide α) : Side → α
  | .one => p.one
  | .two => p.two

def PerSide.set {α : Type} (p : PerSide α) (x : Side) (v : α) : PerSide α :=
  match x with
  | .one => { p with one := v }
  | .two => { p with two := v }

/-- One value for each axle channel. -/
structure PerAxle (α : Type) where
  a1 : α
  a2 : α
  t1 : α
  t2 : α
  b1 : α
  b2 : α
deriving DecidableEq, Repr

def PerAxle.get {α : Type} (p : PerAxle α) : Axle → α
  | .a1 => p.a1
  | .a2 => p.a2
  | .t1 => p.t1
  | .t2 => p.t2
  | .b1 => p.b1
  | .b2 => p.b2

def PerAxle.set {α : Type} (p : PerAxle α) (x : Axle) (v : α) : PerAxle α :=
  match x with
  | .a1 => { p with a1 := v }
  | .a2 => { p with a2 := v }
  | .t1 => { p with t1 := v }
  | .t2 => { p with t2 := v }
  | .b1 => { p with b1 := v }
  | .b2 => { p with b2 := v }

def PerAxle.of {α : Type} (f : Axle → α) : PerAxle α :=
  ⟨f .a1, f .a2, f .t1, f .t2, f .b1, f .b2⟩

/-- One value for each speed channel. -/
structure PerChan (α : Type) where
  axle : PerAxle α
  ground : α
deriving DecidableEq, Repr

def PerChan.get {α : Type} (p : PerChan α) : Chan → α
  | .axle x => p.axle.get x
  | .ground => p.ground

def PerChan.set {α : Type} (p : PerChan α) (c : Chan) (v : α) : PerChan α :=
  match c with
  | .axle x => { p with axle := p.axle.set x v }
  | .ground => { p with ground := v }

def PerChan.of {α : Type} (f : Chan → α) : PerChan α :=
  ⟨PerAxle.of fun x => f (.axle x), f .ground⟩

/-- One value for each analog channel. -/
structure PerAnalog (α : Type) where
  pressure : PerBogie α
  force : PerMotor α
deriving DecidableEq, Repr

def PerAnalog.get {α : Type} (p : PerAnalog α) : Analog → α
  | .pressure x => p.pressure.get x
  | .force m => p.force.get m

def PerAnalog.set {α : Type} (p : PerAnalog α) (c : Analog) (v : α) : PerAnalog α :=
  match c with
  | .pressure x => { p with pressure := p.pressure.set x v }
  | .force m => { p with force := p.force.set m v }

def PerAnalog.of {α : Type} (f : Analog → α) : PerAnalog α :=
  ⟨PerBogie.of fun x => f (.pressure x), PerMotor.of fun m => f (.force m)⟩

end Sys2Proof
end

