-- ==== Sys2Proof/Config.lean ====
section
/-! DEFINITION. What is fixed from outside: the free values the manual leaves open (opaque, so that no
proof can see one), and the twenty configuration sections as records (09 Table 9-5) with the defaults
the manual gives. -/

namespace Sys2Proof

/-- Free value (log 3): the order in which deliveries of one event are taken, where the manual gives no
order (R15, R94, R175 and others). The n-th draw gives a number that names an order. -/
opaque Config.freeOrder : Nat → Nat

/-- Free value (log 12): what an edge count of a window reads after an edge past 65,535, where R3 and
Table 1-1 state no result. -/
opaque Config.freeEdgeCount : Nat → Nat

/-- Rail condition (Table 4-1, codes of Table 10-7). -/
inductive Condition where
  | dry
  | wet
  | contaminated
  | unknown
deriving DecidableEq, Repr

/-- One value for each rail condition. -/
structure PerCondition (α : Type) where
  dry : α
  wet : α
  contaminated : α
  unknown : α
deriving DecidableEq, Repr

def PerCondition.get {α : Type} (p : PerCondition α) : Condition → α
  | .dry => p.dry
  | .wet => p.wet
  | .contaminated => p.contaminated
  | .unknown => p.unknown

/-- Section 0, VEHICLE. -/
structure Vehicle where
  mass : Nat
  load : PerBogie Nat
  mu : PerCondition Nat
  sandBonus : Nat
  sLen : Nat
  gDef : Nat
deriving DecidableEq, Repr

/-- Sections 1 to 6, AXLE 0 to AXLE 5. -/
structure AxleCfg where
  teeth : Nat
  window : Nat
  diameter : Nat
deriving DecidableEq, Repr

/-- Section 7, AXLE 6 (ground). -/
structure GroundCfg where
  umPerEdge : Nat
  window : Nat
deriving DecidableEq, Repr

/-- Gain mode of an analog channel (R157). -/
inductive GainMode where
  | fixed
  | auto
deriving DecidableEq, Repr

/-- Sections 8 to 12, ANALOG 0 to ANALOG 4. -/
structure AnalogCfg where
  mode : GainMode
  gain : Nat
  scale : Nat
deriving DecidableEq, Repr

/-- Section 13, BLEND. -/
structure Blend where
  driveMax : PerMotor Nat
  edMax : PerMotor Nat
  vFade : Nat
  vZero : Nat
  k : PerBogie Nat
  pMax : PerBogie Nat
  jerk : Nat
  demandTimeout : Nat
  fStale : Nat
  fTb : PerMotor Nat
  uTb : Nat
  pPark : PerBogie Nat
  pFs : PerBogie Nat
deriving DecidableEq, Repr

/-- Section 14, ADHESION. -/
structure Adhesion where
  creep : Nat
  slip : Nat
  accelExcess : Nat
  cut : Nat
  stepCut : Nat
  floor : Nat
  unsup : Nat
  rate : Nat
  implausible : Nat
  up : Nat
  down : Nat
  hold : Nat
  heldTimeout : Nat
deriving DecidableEq, Repr

/-- Section 15, HOLD. -/
structure Hold where
  margin : Nat
  pMin : Nat
  relMargin : Nat
  confirm : Nat
  takeUp : Nat
  rate : Nat
  rollback : Nat
  catchShare : Nat
  sandGrade : Nat
deriving DecidableEq, Repr

/-- Section 16, SAND. -/
structure SandCfg where
  flow : PerSide Nat
  shot : Nat
  vMin : Nat
deriving DecidableEq, Repr

/-- What makes a sample a trip candidate (Table 8-6). -/
inductive TripSource where
  | decel
  | slip
  | both
deriving DecidableEq, Repr

/-- What a trip does (R168). -/
inductive TripMode where
  | autoDump
  | reportOnly
deriving DecidableEq, Repr

/-- Sections 17 to 19, TRIP A, T, B. -/
structure Trip where
  source : TripSource
  filter : Nat
  mode : TripMode
  decel : Nat
  slip : Nat
  limit : Nat
deriving DecidableEq, Repr

/-- The twenty sections (Table 9-4). A section with no values since power-on reset is none. -/
structure Sections where
  vehicle : Option Vehicle
  axle : PerAxle (Option AxleCfg)
  ground : Option GroundCfg
  analog : PerAnalog (Option AnalogCfg)
  blend : Option Blend
  adhesion : Adhesion
  hold : Hold
  sand : SandCfg
  trip : PerBogie Trip
deriving DecidableEq, Repr

/-- Defaults of Table 9-5. -/
def Adhesion.default : Adhesion where
  creep := 40
  slip := 100
  accelExcess := 3000
  cut := 600
  stepCut := 50
  floor := 150
  unsup := 400
  rate := 250
  implausible := 15000
  up := 1500
  down := 1500
  hold := 1000
  heldTimeout := 2000

/-- Defaults of Table 9-5. -/
def Hold.default : Hold where
  margin := 300
  pMin := 1500
  relMargin := 20
  confirm := 300
  takeUp := 8000
  rate := 6000
  rollback := 50
  catchShare := 800
  sandGrade := 40

/-- Defaults of Table 9-5. -/
def SandCfg.default : SandCfg where
  flow := ⟨12, 12⟩
  shot := 2000
  vMin := 500

/-- Defaults of Table 9-5. -/
def Trip.default : Trip where
  source := .both
  filter := 2
  mode := .autoDump
  decel := 3500
  slip := 150
  limit := 1200

/-- R177: the sections right after power-on reset. -/
def Sections.powerOn : Sections where
  vehicle := none
  axle := PerAxle.of fun _ => none
  ground := none
  analog := PerAnalog.of fun _ => none
  blend := none
  adhesion := Adhesion.default
  hold := Hold.default
  sand := SandCfg.default
  trip := PerBogie.of fun _ => Trip.default

/-- What a reader finds in a VEHICLE section that has no values: R100 makes every quantity derived from
it 0. -/
def Vehicle.absent : Vehicle where
  mass := 0
  load := ⟨0, 0, 0⟩
  mu := ⟨0, 0, 0, 0⟩
  sandBonus := 0
  sLen := 0
  gDef := 0

/-- What a reader finds in a BLEND section that has no values (log 28; the section is present in every
state in which an output depends on it, R178). -/
def Blend.absent : Blend where
  driveMax := ⟨0, 0⟩
  edMax := ⟨0, 0⟩
  vFade := 0
  vZero := 0
  k := ⟨0, 0, 0⟩
  pMax := ⟨0, 0, 0⟩
  jerk := 0
  demandTimeout := 0
  fStale := 0
  fTb := ⟨0, 0⟩
  uTb := 0
  pPark := ⟨0, 0, 0⟩
  pFs := ⟨0, 0, 0⟩

end Sys2Proof
end

