-- ==== Sys2Proof/Syntax.lean ====
section
/-! DEFINITION. The commands the part takes: one constructor per row of spec/opcode_table.json, with the
operands its rule gives it. The fields of a request are those its body carries (10 Table 10-5, R194), as
the line carries them, so that a value out of range can be sent and is refused by the owning rule. -/

namespace Sys2Proof

/-- Source of a sand request (Table 7-2, in its order). -/
inductive SandSource where
  | adhesion
  | hillStart
  | rollback
  | emergency
  | manual
deriving DecidableEq, Repr

/-- A request frame as the receive framer completes it (Table 10-2): its length byte is the body's
length; `framingError` says that a byte after the start byte lacked its stop bit (R189). -/
structure RxFrame where
  kind : Byte
  tag : Byte
  body : List Byte
  crc : BitVec 16
  framingError : Bool
deriving DecidableEq, Repr

/-- A segment record as SEGMENT APPEND carries it (Table 10-7). -/
structure SegmentWord where
  id : BitVec 16
  length : BitVec 16
  grade : BitVec 16
  condition : Byte
  sanding : Byte
  override : BitVec 16
deriving DecidableEq, Repr

/-- The lines whose edges a speed channel counts (R3, R12). The two lines of an axle's quadrature sensor are named
by the phase order the sensor produces while the axle turns FORWARD: the edges of `lead` come first, those of
`lag` a quarter of a period after (log 11). -/
inductive SensorLine where
  | lead (x : Axle)
  | lag (x : Axle)
  /-- R12: the pulse line of the ground sensor. -/
  | pulse
deriving DecidableEq, Repr

/-- An edge as its line shows it, with the level the channel reads beside it at that instant: `beside` says that
the other line of an axle's sensor is high (R3), or that the ground sensor's direction line reads forward
(R12). -/
structure LineEdge where
  rises : Bool
  beside : Bool
deriving DecidableEq, Repr

/-- The commands (opcode_table.json), in the table's order. -/
inductive Instr where
  /-- R177, R189: the levels of the two strap pins, tied or open. -/
  | powerOnReset (lowTied highTied : Bool)
  /-- R193 -/
  | frameReceived (f : RxFrame)
  /-- R191 -/
  | gapTimerExpiry
  /-- R197 -/
  | frameTransmitted
  /-- R182 -/
  | restartTakesEffect
  /-- R199 -/
  | identify (tag : Byte)
  /-- R183: the section number, and the section's fields in index order. -/
  | configure (tag sec : Byte) (fields : List Nat)
  /-- R179 -/
  | start (tag : Byte)
  /-- R180 -/
  | stop (tag : Byte)
  /-- R182 -/
  | restart (tag : Byte)
  /-- R92, Table 10-4 -/
  | demand (tag mode dir : Byte) (effort : BitVec 16) (permitted : Byte)
  /-- R31 -/
  | referenceSelect (tag mode : Byte)
  /-- R20 -/
  | axleIsolate (tag axle : Byte)
  /-- R21 -/
  | axleRestore (tag axle : Byte)
  /-- R7 -/
  | wheelTrim (tag axle : Byte) (diameter : BitVec 16)
  /-- R77: the count byte and the records that follow it. -/
  | segmentAppend (tag count : Byte) (records : List SegmentWord)
  /-- R86 -/
  | routeFlush (tag : Byte)
  /-- R84 -/
  | positionFix (tag : Byte) (id : BitVec 16) (offset : BitVec 32)
  /-- R141 -/
  | sandRequest (tag side shots : Byte)
  /-- R151 -/
  | sandFill (tag side : Byte) (level : BitVec 16)
  /-- R198 -/
  | statusQuery (tag group : Byte)
  /-- R188 -/
  | faultQuery (tag : Byte)
  /-- R187 -/
  | faultClear (tag kind number : Byte)
  /-- R3, R12 -/
  | speedSensorEdge (line : SensorLine) (edge : LineEdge)
  /-- R12: the valid line goes low; `staysLow` says whether it is low after the event (log 10). -/
  | groundValidLineDrop (staysLow : Bool)
  /-- R5 -/
  | windowPeriodExpiry (c : Chan)
  /-- R35 -/
  | heldTimerExpiry
  /-- R38 -/
  | standstillConfirmExpiry
  /-- R64 -/
  | lowAdhesionTimerExpiry (x : Bogie)
  /-- R95 -/
  | demandTimerExpiry
  /-- R97 -/
  | eblOpen
  /-- R97 -/
  | eblClose
  /-- R109 -/
  | trackBrakeOnTimerExpiry
  /-- R110 -/
  | trackBrakeOffTimerExpiry
  /-- R113 -/
  | pressureRampCompletion (x : Bogie)
  /-- R126 -/
  | releaseConfirmExpiry
  /-- R127 -/
  | takeUpTimerExpiry
  /-- R128 -/
  | releaseRampCompletion (x : Bogie)
  /-- R148 -/
  | shotTimerExpiry (e : Side)
  /-- R148 -/
  | recoveryTimerExpiry (e : Side)
  /-- R143: the entry whose age timer expires, by its source and end, of which no two entries have the
  same (R137). -/
  | ageTimerExpiry (source : SandSource) (e : Side)
  /-- R142 -/
  | emergencyRepeatTimerExpiry
  /-- R156, R157: a completed conversion and its code. -/
  | analogConversion (c : Analog) (code : BitVec 12)
  /-- R161 -/
  | steadyTimerExpiry (x : Bogie)
  /-- R162 -/
  | disagreementTimerExpiry (x : Bogie)
  /-- R163 -/
  | agreementTimerExpiry (x : Bogie)
  /-- R171 -/
  | dumpLimitTimerExpiry (x : Bogie)
  /-- R181 -/
  | referenceLostTimerExpiry
  /-- R189, R191: a received byte; `framingError` says that its stop bit is missing. -/
  | receivedByte (byte : Byte) (framingError : Bool)
deriving DecidableEq, Repr

end Sys2Proof
end

