-- ==== Sys2Proof/WellFormed.lean ====
section
/-! DEFINITION. Which terms of `Instr` are commands: what the line can carry at all (R190, R194, Table
10-5). A value out of the range a rule names is well formed: it can be sent, and the rule refuses it. -/

namespace Sys2Proof

/-- R194: the bytes each field of a section takes on the line, in index order (Table 9-5). None for a
number above 19, of which no fields are known. -/
def sectionWidths (sec : Nat) : Option (List Nat) :=
  if sec = 0 then some [2, 2, 2, 2, 2, 2, 2, 2, 1, 1, 1]
  else if sec ≤ 6 then some [1, 1, 2]
  else if sec = 7 then some [2, 1]
  else if sec ≤ 12 then some [1, 1, 2]
  else if sec = 13 then
    some [2, 2, 2, 2, 2, 2, 1, 1, 1, 2, 2, 2, 2, 2, 2, 2, 2, 2, 2, 2, 2, 2, 2, 2]
  else if sec = 14 then some [1, 2, 2, 2, 1, 2, 2, 2, 2, 2, 2, 2, 2]
  else if sec = 15 then some [2, 2, 1, 2, 2, 2, 1, 2, 1]
  else if sec = 16 then some [1, 1, 2, 2]
  else if sec ≤ 19 then some [1, 1, 1, 2, 2, 2]
  else none

/-- Each value fits the width beside it; a value past the section's fields is one byte of the body. -/
def fitWidths : List Nat → List Nat → Bool
  | w :: ws, v :: vs => decide (v < 256 ^ w) && fitWidths ws vs
  | [], v :: vs => decide (v < 256) && fitWidths [] vs
  | _, [] => true

/-- A frame the framer can complete: its body fits the length byte (Table 10-2). -/
def RxFrame.wf (f : RxFrame) : Bool := decide (f.body.length < 256)

/-- A command the world outside can send. -/
def Instr.wf : Instr → Bool
  | .frameReceived f => f.wf
  | .configure _ sec fields =>
      decide (fields.length ≤ 96) && fitWidths ((sectionWidths sec.toNat).getD []) fields
  | .segmentAppend _ _ records => decide (records.length ≤ 9)
  | _ => true

end Sys2Proof
end

