-- ==== Sys2Proof/Decode.lean ====
section
/-! DEFINITION. The command a word of the command table spells. No row of spec/opcode_table.json gives
bits, so no word spells one. -/

namespace Sys2Proof

/-- The command whose row matches the `nbits` bits of `w`: none, since no row gives bits. -/
def decodeTableWord (_nbits _w : Nat) : Option Instr := none

end Sys2Proof
end

