-- ==== Sys2Proof/Machine/State.lean ====
section
/-! DEFINITION. The state of the block as plain data: every item the chapters' state tables name, the queue
of commands, and the model's own store of free choices. -/

namespace Sys2Proof.Machine

/-- No command stops: the spec gives each one an effect in every state. -/
inductive Fault where
deriving DecidableEq, Repr

/-- Why a command would have no meaning in this model. -/
inductive Refusal where
  /-- Raised by an arm of `exec` whose meaning is not written (safe: nothing changes). No arm raises it. -/
  | notModelled (mnemonic : String)
deriving DecidableEq, Repr

/-- A timer: stopped, or running with the instant (µs since power-on) at which it expires (R2). -/
abbrev Timer := Option Nat

/-- A confirm or steady timer that can stand complete (Tables 2-1, 6-1, 8-3). -/
inductive Confirm where
  | stopped
  | running (due : Nat)
  | complete
deriving DecidableEq, Repr

/-- Baud rates the straps select (R189). -/
inductive Baud where
  | b115200
  | b230400
  | b460800
  | b921600
deriving DecidableEq, Repr

/-- Flags of a sample record (Table 1-4). -/
structure SampleFlags where
  standstill : Bool
  reversal : Bool
  stretched : Bool
  overrange : Bool
  implausible : Bool
  isolated : Bool
  invalid : Bool
deriving DecidableEq, Repr

/-- The scale a window captures at its opening (R4, R12): circumference in µm and tooth count, or µm per
edge. -/
inductive Scale where
  | wheel (circ teeth : Nat)
  | ground (umPerEdge : Nat)
deriving DecidableEq, Repr

/-- A sample record (Table 1-3), with the end time R26 and R27 read and the scale R15 passes on. -/
structure Sample where
  seq : BitVec 16
  net : Int
  duration : Nat
  windows : Nat
  v : Int
  a : Int
  flags : SampleFlags
  endTime : Time
  scale : Scale
deriving DecidableEq, Repr

/-- A window in flight (Table 1-1), with its window-period timer. -/
structure Window where
  forward : Nat
  reverse : Nat
  first : Option Time
  last : Option Time
  periods : Nat
  drop : Bool
  scale : Scale
  due : Nat
deriving DecidableEq, Repr

/-- UNSET, or MEASURING with the window in flight (Table 1-2). -/
inductive ChanState where
  | unset
  | measuring (w : Window)
deriving DecidableEq, Repr

/-- Previous-sample memory (Table 1-1). -/
structure Prev where
  v : Int
  endTime : Time
deriving DecidableEq, Repr

/-- One speed channel (Table 1-1); its configuration is SFC's AXLE section. -/
structure Channel where
  state : ChanState
  diameter : Option Nat
  circ : Option Nat
  pendingCirc : Option Nat
  latest : Option Sample
  prev : Option Prev
  seq : BitVec 16
  implausible : Nat
  dead : Nat
  healthy : Nat
  isolated : Bool
deriving DecidableEq, Repr

/-- Requested and prior reference modes (Table 2-1). -/
inductive RefChoice where
  | axleFused
  | groundSensor
deriving DecidableEq, Repr

/-- Active reference modes (Table 2-1, in its order). -/
inductive RefMode where
  | axleFused
  | groundSensor
  | held
  | lost
  | standstill
deriving DecidableEq, Repr

/-- The reference unit (Table 2-1). -/
structure Ref where
  requested : RefChoice
  active : RefMode
  prior : RefChoice
  speed : Int
  accel : Int
  heldAccel : Int
  updateTime : Option Time
  heldTimer : Timer
  resync : PerAxle Nat
  engage : Nat
  confirm : Confirm
  residual : Int
deriving DecidableEq, Repr

/-- Adhesion states (Table 3-1, in its order). -/
inductive AdhState where
  | isolated
  | fault
  | grip
  | creep
  | slip
  | recover
deriving DecidableEq, Repr

/-- ADH's record of an axle (Table 3-1). -/
structure AxleAdh where
  state : AdhState
  recover : Nat
deriving DecidableEq, Repr

/-- ADH's record of a bogie (Table 3-1). -/
structure BogieAdh where
  limit : Nat
  residual : Nat
  mark : Option Time
  slips : List Time
  low : Bool
  lowTimer : Timer
deriving DecidableEq, Repr

/-- The adhesion unit (Table 3-1). -/
structure Adh where
  axle : PerAxle AxleAdh
  bogie : PerBogie BogieAdh
deriving DecidableEq, Repr

/-- A segment record (Table 4-1); lengths in m. -/
structure Segment where
  id : Nat
  length : Nat
  grade : Int
  condition : Condition
  inhibited : Bool
  override : Option Nat
deriving DecidableEq, Repr

/-- The route look-ahead queue (Table 4-2). ON-ROUTE is a non-empty queue. -/
structure Rlq where
  queue : List Segment
  pos : Option Nat
  dir : Option Direction
  uncertain : Bool
deriving DecidableEq, Repr

/-- Demand modes (Table 5-1, codes of Table 10-4). -/
inductive Mode where
  | coast
  | drive
  | brake
  | emergency
deriving DecidableEq, Repr

/-- Origin of a set emergency latch (Table 5-1). -/
inductive LatchOrigin where
  | demand
  | loop
deriving DecidableEq, Repr

/-- The demand record (Table 5-1). -/
structure Demand where
  mode : Mode
  dir : Direction
  effort : Nat
  permitted : Bool
  stale : Bool
  latch : Option LatchOrigin
  timer : Timer
deriving DecidableEq, Repr

/-- A pressure output (R113): absent in UNCONFIGURED, steady at a value, or ramping from `start` since the
time counter's `since` toward `aim`. -/
inductive Output where
  | absent
  | steady (value : Nat)
  | ramp (start : Nat) (since : Time) (aim : Nat)
deriving DecidableEq, Repr

/-- The blend unit (Table 5-1, Table 5-5, R118). -/
structure Bld where
  demand : Demand
  mu : Nat
  fmax : PerBogie Nat
  cap : PerBogie Nat
  drive : PerMotor Nat
  deficit : Nat
  ed : PerMotor Nat
  achieved : PerMotor Nat
  toPlace : Nat
  friction : PerBogie Nat
  unfulfilled : Nat
  duty : PerMotor Nat
  modeDrive : Bool
  modeBrake : Bool
  track : Bool
  onTimer : Timer
  offTimer : Timer
  out : PerBogie Output
deriving DecidableEq, Repr

/-- Hold states (Table 6-1, in its order). -/
inductive Hold where
  | off
  | holding
  | takeUp
  | releasing
  | rollbackCatch
deriving DecidableEq, Repr

/-- A release ramp in flight (R128). -/
structure FloorRamp where
  start : Nat
  since : Time
deriving DecidableEq, Repr

/-- The hill hold unit (Table 6-1). `floor` is the floor while no ramp is present. -/
structure Hhu where
  state : Hold
  floor : PerBogie Nat
  level : PerBogie Nat
  ramp : PerBogie (Option FloorRamp)
  acc : PerAxle Nat
  confirm : Confirm
  blocked : Bool
  takeUp : Timer
  rearm : Bool
  holdForce : Nat
  relThreshold : Nat
  dAch : Nat
  caughtAtRest : Bool
deriving DecidableEq, Repr

/-- An entry of the sand request queue (Table 7-2). -/
structure SandEntry where
  source : SandSource
  side : Side
  leading : Bool
  shots : Nat
  age : Timer
  arrival : BitVec 16
deriving DecidableEq, Repr

/-- An open shot with its shot timer (Table 7-1). -/
structure Shot where
  source : SandSource
  arrival : BitVec 16
  length : Nat
  flow : Nat
  since : Time
  allowed : Nat
  due : Nat
deriving DecidableEq, Repr

/-- Valve states (Table 7-4). -/
inductive Valve where
  | closed
  | pouring (shot : Shot)
  | recovery (due : Nat)
deriving DecidableEq, Repr

/-- The sanding unit (Table 7-1); levels in g, sanded distance in mm. -/
structure Snd where
  queue : List SandEntry
  arrivals : BitVec 16
  valve : PerSide Valve
  level : PerSide Nat
  repeatTimer : Timer
  sanded : Nat
deriving DecidableEq, Repr

/-- One analog channel (Table 8-1); its configuration is SFC's ANALOG section. No gain: UNSET. -/
structure AnalogChan where
  gain : Option Nat
  discard : Bool
  code : Option Nat
  reading : Option Int
  saturated : Nat
  clear : Nat
  cause : Bool
deriving DecidableEq, Repr

/-- Pressure supervision of a friction bogie (Table 8-3). -/
structure Supervision where
  moving : Bool
  steady : Confirm
  disagree : Timer
  agree : Timer
  cause : Bool
deriving DecidableEq, Repr

/-- The feedback front end. -/
structure Afe where
  chan : PerAnalog AnalogChan
  sup : PerBogie Supervision
deriving DecidableEq, Repr

/-- An open dump episode (Table 8-5) with the time counter value at its opening (R173). -/
structure Episode where
  axle : Axle
  since : Time
deriving DecidableEq, Repr

/-- STU's record of a bogie (Table 8-5). -/
structure BogieStu where
  episode : Option Episode
  limitTimer : Timer
  exhausted : Nat
  disabled : Bool
  suppressed : Bool
deriving DecidableEq, Repr

/-- The slide trip unit (Table 8-5). -/
structure Stu where
  counter : PerAxle Nat
  bogie : PerBogie BogieStu
deriving DecidableEq, Repr

/-- Operating states (Table 9-1, in its order). -/
inductive OpState where
  | unconfigured
  | ready
  | active
  | failsafe
deriving DecidableEq, Repr

/-- The names of the seventeen fault records (Table 9-7). -/
inductive FaultId where
  | sensor (x : Axle)
  | ground
  | pressure (x : Bogie)
  | edFeedback (x : Motor)
  | sandEmpty (x : Side)
  | referenceLost
  | demandStale
  | link
deriving DecidableEq, Repr

/-- A fault record (R185). -/
structure FaultRec where
  active : Bool
  latched : Bool
  count : Nat
  firstTime : Time
  lastTime : Time
deriving DecidableEq, Repr

/-- The fault table (Table 9-7). -/
structure FaultTable where
  sensor : PerAxle FaultRec
  ground : FaultRec
  pressure : PerBogie FaultRec
  edFeedback : PerMotor FaultRec
  sandEmpty : PerSide FaultRec
  referenceLost : FaultRec
  demandStale : FaultRec
  link : FaultRec
deriving DecidableEq, Repr

/-- The state and fault controller (Table 9-1). Bit s of `sent` is the mark of section s (R183). -/
structure Sfc where
  opState : OpState
  cfg : Sections
  sent : BitVec 24
  faults : FaultTable
  refLostTimer : Timer
  restartPending : Bool
deriving DecidableEq, Repr

/-- Causes of an AXLE STATE report (R56, in its order). -/
inductive AxleCause where
  | slipEntry
  | recovered
  | isolated
  | fault
  | restored
  | lowSet
  | lowCleared
deriving DecidableEq, Repr

/-- Reasons of a ROUTE EMPTY report (R88). -/
inductive RouteReason where
  | passed
  | flush
  | direction
deriving DecidableEq, Repr

/-- Reasons of a HOLD STATE report (Table 6-4, in its order). -/
inductive HoldReason where
  | start
  | standstill
  | driveEnded
  | takeUp
  | release
  | releaseBlocked
  | driveFell
  | released
  | holdTimeout
  | catchEnded
deriving DecidableEq, Repr

/-- Causes of a dump close (R172). -/
inductive CloseCause where
  | recovered
  | axleLost
  | limit
  | mode
  | floor
deriving DecidableEq, Repr

/-- Actions of a TRIP report (R173). -/
inductive TripAction where
  | dump
  | none
  | suppressed
  | closed (cause : CloseCause)
  | disabled
deriving DecidableEq, Repr

/-- Causes of a shot's close in a SAND report (R154). -/
inductive ShotCause where
  | ended
  | inhibit
  | fill
deriving DecidableEq, Repr

/-- Reasons of a SAND report with what each carries beside the common items (R154). -/
inductive SandReason where
  | shot (allowed flow : Nat)
  | closed (cause : ShotCause) (openTime charge : Nat)
  | evicted
  | dropped
deriving DecidableEq, Repr

/-- Causes of an OPERATING STATE report (Table 9-2, in its order). -/
inductive StateCause where
  | powerOn
  | configured
  | start
  | stop
  | failsafePressure
  | failsafeAxles
  | failsafeReference
  | restart
deriving DecidableEq, Repr

/-- What an AXLE STATE report names (R56). -/
inductive AxleSubject where
  | axle (x : Axle)
  | bogie (x : Bogie)
deriving DecidableEq, Repr

/-- The reports (Table 10-6), each with what its rule says it carries; `time` is the time counter. -/
inductive Report where
  /-- R56 -/
  | axleState (subject : AxleSubject) (cause : AxleCause) (new left : AdhState) (slip : Int)
      (limit : Nat) (low : Bool) (time : Time)
  /-- R41 -/
  | referenceMode (new left : RefMode) (requested : RefChoice) (speed : Int) (time : Time)
  /-- R83 -/
  | segmentPassed (id remaining : Nat) (uncertain : Bool) (time : Time)
  /-- R88 -/
  | routeEmpty (reason : RouteReason) (removed : Nat) (time : Time)
  /-- R135 -/
  | holdState (new left : Hold) (reason : HoldReason) (floors : PerBogie Nat)
      (holdForce relThreshold dAch : Nat) (time : Time)
  /-- R135 -/
  | rollback (left : Hold) (exceeding : List (Axle × Nat)) (floors : PerBogie Nat) (side : Side)
      (speed : Int) (time : Time)
  /-- R173 -/
  | trip (bogie : Bogie) (axle : Axle) (action : TripAction) (slip accel speed : Int)
      (exhausted : Nat) (openTime : Time) (time : Time)
  /-- R154 -/
  | sand (reason : SandReason) (side : Side) (source : SandSource) (arrival : BitVec 16)
      (shots level : Nat) (time : Time)
  /-- R185 -/
  | faultRaised (id : FaultId) (record : FaultRec)
  /-- R95 -/
  | staleDemand (mode : Mode) (effort applied : Nat) (time : Time)
  /-- R176 -/
  | operatingState (new left : OpState) (cause : StateCause) (sent : BitVec 24) (time : Time)
deriving DecidableEq, Repr

/-- Reasons of a refused START (R179, codes of Table 10-3). -/
inductive StartReason where
  | state
  | pressure
  | motion
deriving DecidableEq, Repr

/-- Result codes with what follows them in a reply's body (Table 10-3). An OK carries the bytes Table 10-5
names. -/
inductive Result where
  | ok (body : List Byte)
  | pending
  | held
  | refusedStart (reason : StartReason)
  | refusedState
  | refusedRange (index : Nat)
  | refusedBusy
  | refusedFull (free : Option Nat)
  | refusedDuplicate (id : Nat)
  | notFound
  | stillActive
  | unknownKind
  | badLength
deriving DecidableEq, Repr

/-- A reply: the kind and the tag of the request it answers, and its result (R193). -/
structure Reply where
  kind : Byte
  tag : Byte
  result : Result
deriving DecidableEq, Repr

/-- A frame on the transmit line. -/
inductive TxFrame where
  | reply (r : Reply)
  | report (r : Report)
deriving DecidableEq, Repr

/-- The receive framer (R191): HUNTING, or IN FRAME with the bytes received after the start byte. -/
inductive Framer where
  | hunting
  | inFrame (bytes : List Byte)
deriving DecidableEq, Repr

/-- The link controller (Table 10-1). -/
structure Lnk where
  framer : Framer
  gapTimer : Timer
  discards : Nat
  replies : List Reply
  reports : List Report
  inFlight : Option TxFrame
  reportsLost : Bool
  requestsDiscarded : Bool
deriving DecidableEq, Repr

/-- The model's own store of free choices (log 3): choices still to be used, and how many were drawn past
them from `Config.freeOrder` and `Config.freeEdgeCount`. -/
structure Free where
  oracle : List Nat
  draws : Nat
deriving DecidableEq, Repr

/-- The state of the block. `clock` counts µs since power-on (log 1); `pending` is the queue of commands. -/
structure State where
  clock : Nat
  baud : Baud
  eblOpen : Bool
  groundLow : Bool
  wsc : PerChan Channel
  ref : Ref
  adh : Adh
  rlq : Rlq
  bld : Bld
  hhu : Hhu
  snd : Snd
  afe : Afe
  stu : Stu
  sfc : Sfc
  lnk : Lnk
  free : Free
  pending : List Instr
deriving DecidableEq, Repr

/-- R23, Table 1-5. -/
def Channel.powerOn : Channel where
  state := .unset
  diameter := none
  circ := none
  pendingCirc := none
  latest := none
  prev := none
  seq := 0
  implausible := 0
  dead := 0
  healthy := 0
  isolated := false

/-- R25: REF held, with the modes at AXLE-FUSED. -/
def Ref.powerOn : Ref where
  requested := .axleFused
  active := .standstill
  prior := .axleFused
  speed := 0
  accel := 0
  heldAccel := 0
  updateTime := none
  heldTimer := none
  resync := PerAxle.of fun _ => 0
  engage := 0
  confirm := .stopped
  residual := 0

/-- R71, Table 3-7. -/
def BogieAdh.powerOn : BogieAdh where
  limit := 0
  residual := 0
  mark := none
  slips := []
  low := false
  lowTimer := none

/-- R71, Table 3-7. -/
def Adh.powerOn : Adh where
  axle := PerAxle.of fun _ => ⟨.grip, 0⟩
  bogie := PerBogie.of fun _ => BogieAdh.powerOn

/-- R90, Table 4-5. -/
def Rlq.powerOn : Rlq where
  queue := []
  pos := none
  dir := none
  uncertain := false

/-- R91: the record at power-on reset and RESTART. -/
def Demand.powerOn : Demand where
  mode := .coast
  dir := .forward
  effort := 0
  permitted := false
  stale := false
  latch := none
  timer := none

/-- R117, Table 5-5. -/
def Bld.powerOn : Bld where
  demand := Demand.powerOn
  mu := 0
  fmax := PerBogie.of fun _ => 0
  cap := PerBogie.of fun _ => 0
  drive := ⟨0, 0⟩
  deficit := 0
  ed := ⟨0, 0⟩
  achieved := ⟨0, 0⟩
  toPlace := 0
  friction := PerBogie.of fun _ => 0
  unfulfilled := 0
  duty := ⟨0, 0⟩
  modeDrive := false
  modeBrake := false
  track := false
  onTimer := none
  offTimer := none
  out := PerBogie.of fun _ => .absent

/-- R136, Table 6-5. -/
def Hhu.powerOn : Hhu where
  state := .off
  floor := PerBogie.of fun _ => 0
  level := PerBogie.of fun _ => 0
  ramp := PerBogie.of fun _ => none
  acc := PerAxle.of fun _ => 0
  confirm := .stopped
  blocked := false
  takeUp := none
  rearm := true
  holdForce := 0
  relThreshold := 0
  dAch := 0
  caughtAtRest := false

/-- R155, Table 7-5. -/
def Snd.powerOn : Snd where
  queue := []
  arrivals := 0
  valve := ⟨.closed, .closed⟩
  level := ⟨0, 0⟩
  repeatTimer := none
  sanded := 0

/-- R164, Table 8-4. -/
def AnalogChan.powerOn : AnalogChan where
  gain := none
  discard := false
  code := none
  reading := none
  saturated := 0
  clear := 0
  cause := false

/-- R164, Table 8-4. -/
def Supervision.powerOn : Supervision where
  moving := true
  steady := .stopped
  disagree := none
  agree := none
  cause := false

/-- R164, Table 8-4. -/
def Afe.powerOn : Afe where
  chan := PerAnalog.of fun _ => AnalogChan.powerOn
  sup := PerBogie.of fun _ => Supervision.powerOn

/-- R174, Table 8-7. -/
def BogieStu.powerOn : BogieStu where
  episode := none
  limitTimer := none
  exhausted := 0
  disabled := false
  suppressed := false

/-- R174, Table 8-7. -/
def Stu.powerOn : Stu where
  counter := PerAxle.of fun _ => 0
  bogie := PerBogie.of fun _ => BogieStu.powerOn

/-- R177: a record that is clear. -/
def FaultRec.clear : FaultRec where
  active := false
  latched := false
  count := 0
  firstTime := 0
  lastTime := 0

/-- R177: every record clear. -/
def FaultTable.clear : FaultTable where
  sensor := PerAxle.of fun _ => FaultRec.clear
  ground := FaultRec.clear
  pressure := PerBogie.of fun _ => FaultRec.clear
  edFeedback := ⟨FaultRec.clear, FaultRec.clear⟩
  sandEmpty := ⟨FaultRec.clear, FaultRec.clear⟩
  referenceLost := FaultRec.clear
  demandStale := FaultRec.clear
  link := FaultRec.clear

/-- R177. -/
def Sfc.powerOn : Sfc where
  opState := .unconfigured
  cfg := Sections.powerOn
  sent := 0
  faults := FaultTable.clear
  refLostTimer := none
  restartPending := false

/-- R176: the report sent after power-on reset. -/
def Report.powerOn : Report := .operatingState .unconfigured .unconfigured .powerOn 0 0

/-- R200, with the OPERATING STATE report of R176 already begun on the free line (R197). -/
def Lnk.powerOn : Lnk where
  framer := .hunting
  gapTimer := none
  discards := 0
  replies := []
  reports := []
  inFlight := some (.report Report.powerOn)
  reportsLost := false
  requestsDiscarded := false

/-- The block right after power-on reset (R177), with the straps open and the field inputs at rest
(log 13). -/
def State.reset : State where
  clock := 0
  baud := .b115200
  eblOpen := false
  groundLow := false
  wsc := PerChan.of fun _ => Channel.powerOn
  ref := Ref.powerOn
  adh := Adh.powerOn
  rlq := Rlq.powerOn
  bld := Bld.powerOn
  hhu := Hhu.powerOn
  snd := Snd.powerOn
  afe := Afe.powerOn
  stu := Stu.powerOn
  sfc := Sfc.powerOn
  lnk := Lnk.powerOn
  free := ⟨[], 0⟩
  pending := []

end Sys2Proof.Machine
end

