-- ==== Sys2Proof/Machine/Operands.lean ====
section
/-! DEFINITION. Operand forms: the five roundings (R1), bytes of the line (R194), the fields of a section
with their ranges (Table 9-5, R183), the fields of a segment record (Table 4-1), and the codes of the
choices a request carries. -/

namespace Sys2Proof.Machine

/-- R1: round down, of values that are never negative. -/
def roundDown (n d : Nat) : Nat := n / d

/-- R1: round up, of values that are never negative. -/
def roundUp (n d : Nat) : Nat := (n + d - 1) / d

/-- R1: round half up, of values that are never negative. -/
def roundHalfUp (n d : Nat) : Nat := (2 * n + d) / (2 * d)

/-- R1: round to nearest, halves away from zero. -/
def roundNearest (n : Int) (d : Nat) : Int :=
  n.sign * (((2 * n.natAbs + d) / (2 * d) : Nat) : Int)

/-- R1: truncate toward zero. -/
def truncate (n d : Int) : Int := n.tdiv d

/-- `x` held within `lo` and `hi`. -/
def clampInt (lo hi x : Int) : Int := max lo (min hi x)

/-! Bytes of the line -/

/-- R194: the low `w` bytes of `n`, the most significant first. -/
def bytesOf (w n : Nat) : List Byte :=
  (List.range w).map fun i => BitVec.ofNat 8 (n / 256 ^ (w - 1 - i))

/-- R194: a number in `w` bytes of two's complement. -/
def signedBytes (w : Nat) (x : Int) : List Byte := bytesOf w (x % (256 ^ w : Nat)).toNat

/-- The number a list of bytes spells, the most significant first. -/
def numberOf (bytes : List Byte) : Nat := bytes.foldl (fun n x => n * 256 + x.toNat) 0

/-- R194: the presence mark and the bytes of a field that may be absent, `w` bytes wide. -/
def optBytes (w : Nat) : Option (List Byte) → List Byte
  | none => 0 :: List.replicate w 0
  | some v => 1 :: v

def flagByte (x : Bool) : List Byte := [if x then 1 else 0]

/-- Splits the body into numbers of the widths given; none when the lengths do not agree. -/
def splitFields : List Nat → List Byte → Option (List Nat)
  | [], [] => some []
  | [], _ :: _ => none
  | w :: ws, body =>
      if body.length < w then none
      else (splitFields ws (body.drop w)).map fun rest => numberOf (body.take w) :: rest

/-! Fields of a section (Table 9-5) -/

/-- Field `i` of a section, counted from 1 (Table 9-5). -/
def field (f : List Nat) (i : Nat) : Nat := f.getD (i - 1) 0

/-- Field `i` lies within `lo` and `hi`. -/
def within (f : List Nat) (i lo hi : Nat) : Bool := decide (lo ≤ field f i) && decide (field f i ≤ hi)

/-- The index, counted from 1, of the first check that fails. -/
def firstFailing : List Bool → Option Nat
  | [] => none
  | true :: rest => (firstFailing rest).map (· + 1)
  | false :: _ => some 1

/-- Gains an ANALOG section may name (Table 9-5). -/
def isGain (g : Nat) : Bool := g = 1 || g = 2 || g = 4 || g = 8 || g = 16

/-- The range checks of a section's fields, in index order (Table 9-5). -/
def fieldChecks (sec : Nat) (f : List Nat) : List Bool :=
  if sec = 0 then
    [within f 1 150 1000, within f 2 30 400, within f 3 30 400,
     within f 4 30 400 && decide (field f 2 + field f 3 + field f 4 = field f 1),
     within f 5 20 400, within f 6 20 400, within f 7 20 400, within f 8 20 400,
     within f 9 0 150, within f 10 5 200, within f 11 0 150]
  else if sec ≤ 6 then [within f 1 60 200, within f 2 5 50, within f 3 6000 7400]
  else if sec = 7 then [within f 1 100 10000, within f 2 5 50]
  else if sec ≤ 12 then [within f 1 0 1, isGain (field f 2), within f 3 1 65535]
  else if sec = 13 then
    [within f 1 50 1000, within f 2 50 1000, within f 3 0 1000, within f 4 0 1000,
     within f 5 500 5000, decide (field f 6 + 200 ≤ field f 5),
     within f 7 1 100, within f 8 1 100, within f 9 1 100,
     within f 10 1000 16000, within f 11 1000 16000, within f 12 1000 16000,
     within f 13 500 20000, within f 14 100 1000, within f 15 0 1000,
     within f 16 0 800, within f 17 0 800, within f 18 10 500,
     within f 19 0 (field f 10), within f 20 0 (field f 11), within f 21 0 (field f 12),
     within f 22 0 (field f 10), within f 23 0 (field f 11), within f 24 0 (field f 12)]
  else if sec = 14 then
    [within f 1 10 100, within f 2 30 300 && decide (field f 1 + 10 ≤ field f 2),
     within f 3 1000 8000, within f 4 300 900, within f 5 10 200, within f 6 0 500,
     within f 7 (field f 6) 1000, within f 8 50 1000, within f 9 8000 20000,
     within f 10 500 3000, within f 11 500 3000, within f 12 200 3000, within f 13 500 5000]
  else if sec = 15 then
    [within f 1 0 1000, within f 2 0 16000, within f 3 0 200, within f 4 100 2000,
     within f 5 2000 20000, within f 6 500 20000, within f 7 20 200, within f 8 500 1000,
     within f 9 0 150]
  else if sec = 16 then
    [within f 1 2 100, within f 2 2 100, within f 3 500 10000, within f 4 0 3000]
  else
    [within f 1 0 2, field f 2 = 1 || field f 2 = 2 || field f 2 = 4, within f 3 0 1,
     within f 4 1500 8000, within f 5 50 400, within f 6 300 3000]

/-- R183, check 4: the index of the first field out of range. -/
def fieldOutOfRange (sec : Nat) (f : List Nat) : Option Nat := firstFailing (fieldChecks sec f)

def vehicleOf (f : List Nat) : Vehicle where
  mass := field f 1
  load := ⟨field f 2, field f 3, field f 4⟩
  mu := ⟨field f 5, field f 6, field f 7, field f 8⟩
  sandBonus := field f 9
  sLen := field f 10
  gDef := field f 11

def axleCfgOf (f : List Nat) : AxleCfg := ⟨field f 1, field f 2, field f 3⟩

def groundCfgOf (f : List Nat) : GroundCfg := ⟨field f 1, field f 2⟩

def analogCfgOf (f : List Nat) : AnalogCfg :=
  ⟨if field f 1 = 0 then .fixed else .auto, field f 2, field f 3⟩

def blendOf (f : List Nat) : Blend where
  driveMax := ⟨field f 1, field f 2⟩
  edMax := ⟨field f 3, field f 4⟩
  vFade := field f 5
  vZero := field f 6
  k := ⟨field f 7, field f 8, field f 9⟩
  pMax := ⟨field f 10, field f 11, field f 12⟩
  jerk := field f 13
  demandTimeout := field f 14
  fStale := field f 15
  fTb := ⟨field f 16, field f 17⟩
  uTb := field f 18
  pPark := ⟨field f 19, field f 20, field f 21⟩
  pFs := ⟨field f 22, field f 23, field f 24⟩

def adhesionOf (f : List Nat) : Adhesion where
  creep := field f 1
  slip := field f 2
  accelExcess := field f 3
  cut := field f 4
  stepCut := field f 5
  floor := field f 6
  unsup := field f 7
  rate := field f 8
  implausible := field f 9
  up := field f 10
  down := field f 11
  hold := field f 12
  heldTimeout := field f 13

def holdOf (f : List Nat) : Sys2Proof.Hold where
  margin := field f 1
  pMin := field f 2
  relMargin := field f 3
  confirm := field f 4
  takeUp := field f 5
  rate := field f 6
  rollback := field f 7
  catchShare := field f 8
  sandGrade := field f 9

def sandCfgOf (f : List Nat) : SandCfg := ⟨⟨field f 1, field f 2⟩, field f 3, field f 4⟩

def tripOf (f : List Nat) : Trip where
  source := if field f 1 = 0 then .decel else if field f 1 = 1 then .slip else .both
  filter := field f 2
  mode := if field f 3 = 0 then .autoDump else .reportOnly
  decel := field f 4
  slip := field f 5
  limit := field f 6

/-- The sections named by number (Table 9-4). -/
inductive SectionId where
  | vehicle
  | axle (x : Axle)
  | ground
  | analog (c : Analog)
  | blend
  | adhesion
  | hold
  | sand
  | trip (x : Bogie)
deriving DecidableEq, Repr

def SectionId.ofNumber? : Nat → Option SectionId
  | 0 => some .vehicle
  | 1 => some (.axle .a1)
  | 2 => some (.axle .a2)
  | 3 => some (.axle .t1)
  | 4 => some (.axle .t2)
  | 5 => some (.axle .b1)
  | 6 => some (.axle .b2)
  | 7 => some .ground
  | 8 => some (.analog (.pressure .a))
  | 9 => some (.analog (.pressure .t))
  | 10 => some (.analog (.pressure .b))
  | 11 => some (.analog (.force .a))
  | 12 => some (.analog (.force .b))
  | 13 => some .blend
  | 14 => some .adhesion
  | 15 => some .hold
  | 16 => some .sand
  | 17 => some (.trip .a)
  | 18 => some (.trip .t)
  | 19 => some (.trip .b)
  | _ => none

/-- R183: all fields of the section replace the previous values. -/
def storeSection (id : SectionId) (f : List Nat) (cfg : Sections) : Sections :=
  match id with
  | .vehicle => { cfg with vehicle := some (vehicleOf f) }
  | .axle x => { cfg with axle := cfg.axle.set x (some (axleCfgOf f)) }
  | .ground => { cfg with ground := some (groundCfgOf f) }
  | .analog c => { cfg with analog := cfg.analog.set c (some (analogCfgOf f)) }
  | .blend => { cfg with blend := some (blendOf f) }
  | .adhesion => { cfg with adhesion := adhesionOf f }
  | .hold => { cfg with hold := holdOf f }
  | .sand => { cfg with sand := sandCfgOf f }
  | .trip x => { cfg with trip := cfg.trip.set x (tripOf f) }

/-- R183: bit s of the 24 is the mark of section s. -/
def markSent (sec : Nat) (sent : BitVec 24) : BitVec 24 := sent ||| (1#24 <<< sec)

/-- R178: the marks of the thirteen required sections, 0 to 6 and 8 to 13. -/
def requiredMarks : BitVec 24 := 0x3F7F

def allRequiredSent (sent : BitVec 24) : Bool := sent &&& requiredMarks == requiredMarks

/-! Fields of a segment record (Tables 4-1 and 10-7) -/

/-- R77, check 2: the six fields, in the order of Table 4-1, each within its range. -/
def segmentChecks (r : SegmentWord) : List Bool :=
  [decide (1 ≤ r.id.toNat),
   decide (1 ≤ r.length.toNat) && decide (r.length.toNat ≤ 10000),
   decide (-150 ≤ r.grade.toInt) && decide (r.grade.toInt ≤ 150),
   decide (r.condition.toNat ≤ 3),
   decide (r.sanding.toNat ≤ 1),
   decide (r.override = 0) || (decide (20 ≤ r.override.toNat) && decide (r.override.toNat ≤ 400))]

def conditionOf (n : Nat) : Condition :=
  if n = 0 then .dry else if n = 1 then .wet else if n = 2 then .contaminated else .unknown

/-- The record RLQ keeps of a segment in range (R74). -/
def segmentOf (r : SegmentWord) : Segment where
  id := r.id.toNat
  length := r.length.toNat
  grade := r.grade.toInt
  condition := conditionOf r.condition.toNat
  inhibited := r.sanding.toNat = 1
  override := if r.override = 0 then none else some r.override.toNat

/-- The segment record at the head of ten bytes (Table 10-7). -/
def segmentWordOf (bytes : List Byte) : SegmentWord where
  id := BitVec.ofNat 16 (numberOf (bytes.take 2))
  length := BitVec.ofNat 16 (numberOf ((bytes.drop 2).take 2))
  grade := BitVec.ofNat 16 (numberOf ((bytes.drop 4).take 2))
  condition := bytes.getD 6 0
  sanding := bytes.getD 7 0
  override := BitVec.ofNat 16 (numberOf ((bytes.drop 8).take 2))

/-- `n` records of ten bytes each. -/
def segmentWordsOf : Nat → List Byte → List SegmentWord
  | 0, _ => []
  | n + 1, bytes => segmentWordOf bytes :: segmentWordsOf n (bytes.drop 10)

/-! Codes of choices in requests (R194) -/

/-- Table 10-4. -/
def Mode.ofCode? : Nat → Option Mode
  | 0 => some .coast
  | 1 => some .drive
  | 2 => some .brake
  | 3 => some .emergency
  | _ => none

/-- Table 10-4. -/
def dirOfCode? : Nat → Option Direction
  | 0 => some .forward
  | 1 => some .reverse
  | _ => none

/-- Table 10-4. -/
def boolOfCode? : Nat → Option Bool
  | 0 => some false
  | 1 => some true
  | _ => none

/-- R31. -/
def RefChoice.ofCode? : Nat → Option RefChoice
  | 0 => some .axleFused
  | 1 => some .groundSensor
  | _ => none

/-- R194: ends are coded 1 and 2. -/
def sideOfCode? : Nat → Option Side
  | 1 => some .one
  | 2 => some .two
  | _ => none

/-- Instances of a fault kind (R187, Table 9-7); none for a kind that is not one of the eight. -/
def faultInstances : Nat → Option (List FaultId)
  | 0 => some (Axle.all.map .sensor)
  | 1 => some [.ground]
  | 2 => some (Bogie.all.map .pressure)
  | 3 => some [.edFeedback .a, .edFeedback .b]
  | 4 => some (Side.all.map .sandEmpty)
  | 5 => some [.referenceLost]
  | 6 => some [.demandStale]
  | 7 => some [.link]
  | _ => none

/-- The kind code (R187) and the instance of a fault record (Table 9-7). -/
def FaultId.kind : FaultId → Nat
  | .sensor _ => 0
  | .ground => 1
  | .pressure _ => 2
  | .edFeedback _ => 3
  | .sandEmpty _ => 4
  | .referenceLost => 5
  | .demandStale => 6
  | .link => 7

def FaultId.slot : FaultId → Nat
  | .sensor x => x.number
  | .pressure x => x.number
  | .edFeedback .a => 0
  | .edFeedback .b => 1
  | .sandEmpty .one => 0
  | .sandEmpty .two => 1
  | .ground => 0
  | .referenceLost => 0
  | .demandStale => 0
  | .link => 0

/-- The records in record-number order (Table 9-7). -/
def FaultId.all : List FaultId :=
  Axle.all.map .sensor ++ [.ground] ++ Bogie.all.map .pressure ++ [.edFeedback .a, .edFeedback .b]
    ++ Side.all.map .sandEmpty ++ [.referenceLost, .demandStale, .link]

/-- Record number (Table 9-7). -/
def FaultId.number : FaultId → Nat
  | .sensor x => x.number
  | .ground => 6
  | .pressure x => 7 + x.number
  | .edFeedback .a => 10
  | .edFeedback .b => 11
  | .sandEmpty .one => 12
  | .sandEmpty .two => 13
  | .referenceLost => 14
  | .demandStale => 15
  | .link => 16

/-- The requests (Table 10-5). -/
inductive ReqKind where
  | identify
  | configure
  | start
  | stop
  | restart
  | demand
  | referenceSelect
  | axleIsolate
  | axleRestore
  | wheelTrim
  | segmentAppend
  | routeFlush
  | positionFix
  | sandRequest
  | sandFill
  | statusQuery
  | faultQuery
  | faultClear
deriving DecidableEq, Repr

/-- The kind byte of a request (Table 10-5). -/
def ReqKind.code : ReqKind → Byte
  | .identify => 0x01
  | .configure => 0x02
  | .start => 0x03
  | .stop => 0x04
  | .restart => 0x05
  | .demand => 0x10
  | .referenceSelect => 0x11
  | .axleIsolate => 0x12
  | .axleRestore => 0x13
  | .wheelTrim => 0x14
  | .segmentAppend => 0x20
  | .routeFlush => 0x21
  | .positionFix => 0x22
  | .sandRequest => 0x30
  | .sandFill => 0x31
  | .statusQuery => 0x38
  | .faultQuery => 0x39
  | .faultClear => 0x3A

/-- The requests in the table's order. -/
def ReqKind.all : List ReqKind :=
  [.identify, .configure, .start, .stop, .restart, .demand, .referenceSelect, .axleIsolate,
   .axleRestore, .wheelTrim, .segmentAppend, .routeFlush, .positionFix, .sandRequest, .sandFill,
   .statusQuery, .faultQuery, .faultClear]

/-! The two request kinds whose length depends on the body (R193, case 4) -/

/-- The length of a SEGMENT APPEND fits its count. -/
def countFits (count : Byte) (records : List SegmentWord) : Bool := records.length = count.toNat

/-- The length of a CONFIGURE fits its section; any length fits a number above 19. -/
def fieldsFit (sec : Byte) (fields : List Nat) : Bool :=
  match sectionWidths sec.toNat with
  | some ws => fields.length = ws.length
  | none => true

end Sys2Proof.Machine
end

