-- ==== Sys2Proof/Machine/Flags.lean ====
section
/-! DEFINITION. Flag computations: the flags of a sample record (Table 1-4) and the bits of the flag and
state bytes the line carries (Tables 10-8 and 10-9, R198). -/

namespace Sys2Proof.Machine

/-- How a window period's expiry finds the window (R5). -/
inductive WindowOutcome where
  | stretch
  | oneWay
  | bothWays
  | atRest
deriving DecidableEq, Repr

/-- R5: the decision from the counts of both directions and the periods used. -/
def windowOutcome (forward reverse periods : Nat) : WindowOutcome :=
  if 2 ≤ forward + reverse then
    if forward = 0 ∨ reverse = 0 then .oneWay else .bothWays
  else if periods < 4 then .stretch
  else .atRest

/-- R11: a speed whose magnitude exceeds 30,000 is replaced. -/
def overrange (v : Int) : Bool := 30000 < v.natAbs

def clampSpeed (v : Int) : Int := clampInt (-30000) 30000 v

/-- R16: |a| exceeds the implausible-acceleration threshold. -/
def implausibleAccel (threshold : Nat) (a : Int) : Bool := threshold < a.natAbs

/-- The flags of a closing window (Table 1-4). -/
def sampleFlags (outcome : WindowOutcome) (periods : Nat) (rawSpeed accel : Int)
    (threshold : Nat) (isolated invalid : Bool) : SampleFlags where
  standstill := outcome = .atRest
  reversal := outcome = .bothWays
  stretched := 2 ≤ periods
  overrange := overrange rawSpeed
  implausible := implausibleAccel threshold accel
  isolated := isolated
  invalid := invalid

/-- R159: a saturated code. -/
def saturatedCode (code : Nat) : Bool := code ≤ 16 || 4079 ≤ code

/-- A byte whose bits are the flags given, bit 0 first. -/
def bitsByte (flags : List Bool) : Byte :=
  BitVec.ofNat 8 ((flags.zipIdx.map fun p => if p.1 then 2 ^ p.2 else 0).sum)

/-- Table 10-8, offset 16, with bit 7 set. -/
def SampleFlags.byte (f : SampleFlags) : Byte :=
  bitsByte [f.standstill, f.reversal, f.stretched, f.overrange, f.implausible, f.isolated, f.invalid,
    true]

/-- Table 10-9, offset 3. -/
def FaultRec.stateByte (r : FaultRec) : Byte := bitsByte [r.active, r.latched]

/-- R198: bit 0 reports-lost, bit 1 requests-discarded. -/
def Lnk.flagsByte (l : Lnk) : Byte := bitsByte [l.reportsLost, l.requestsDiscarded]

end Sys2Proof.Machine
end

