-- ==== Sys2Proof/Machine/Ops.lean ====
section
/-! DEFINITION. The operations every block shares: free choices, time and timers, the fault table, the two
queues of the link with its arbiter, the published values one block reads from another, and the answers of
a request. -/

namespace Sys2Proof.Machine

/-! Free choices (log 3, log 12) -/

/-- The next choice: the head of the store, or the next value of `past` when the store is used up. -/
def drawFrom (past : Nat → Nat) (s : State) : Nat × State :=
  match s.free.oracle with
  | [] => (past s.free.draws, { s with free.draws := s.free.draws + 1 })
  | c :: rest => (c, { s with free.oracle := rest })

/-- The arrangement of a list that a number names: every arrangement is named by some number. -/
def arrange {α : Type} : Nat → Nat → List α → List α
  | 0, _, _ => []
  | n + 1, c, l =>
    match l[c % l.length]? with
    | none => []
    | some x => x :: arrange n (c / l.length) (l.eraseIdx (c % l.length))

/-- The deliveries one after another. -/
def inOrder (deliveries : List (State → State)) (s : State) : State :=
  deliveries.foldl (fun t f => f t) s

/-- The deliveries of one event in an order the manual leaves open (R15, R94, R175): a free choice where
there are two or more. -/
def inSomeOrder (deliveries : List (State → State)) (s : State) : State :=
  if deliveries.length ≤ 1 then inOrder deliveries s
  else
    let d := drawFrom Config.freeOrder s
    inOrder (arrange deliveries.length d.1 deliveries) d.2

/-! Time (R2) -/

/-- The millisecond time counter (R2, log 1). -/
def State.nowMs (s : State) : Time := BitVec.ofNat 32 (s.clock / 1000)

/-- The microsecond counter (R3, log 1). -/
def State.nowUs (s : State) : Time := BitVec.ofNat 32 s.clock

/-- R2: an interval is the difference of two counter values modulo 2^32. -/
def elapsed (now before : Time) : Nat := (now - before).toNat

/-- A timer of `ms` milliseconds started now. -/
def State.timer (s : State) (ms : Nat) : Timer := some (s.clock + ms * 1000)

/-- The timer is running and its instant has come (log 5). -/
def State.expired (s : State) (t : Timer) : Bool :=
  match t with
  | none => false
  | some due => due ≤ s.clock

/-- A confirm or steady timer is running and its instant has come (log 5). -/
def State.confirmExpired (s : State) (c : Confirm) : Bool :=
  match c with
  | .running due => due ≤ s.clock
  | .stopped => false
  | .complete => false

/-- R194: the time left on a timer in ms, rounded up; 0 when it is stopped. -/
def State.timeLeft (s : State) (t : Timer) : Nat :=
  match t with
  | none => 0
  | some due => (due - s.clock + 999) / 1000

def Confirm.timer : Confirm → Timer
  | .running due => some due
  | .stopped => none
  | .complete => none

/-! Operating state and sections -/

def State.isActive (s : State) : Bool := s.sfc.opState = .active

def State.isFailsafe (s : State) : Bool := s.sfc.opState = .failsafe

/-- The VEHICLE section, or what its readers find before it is taken (R100). -/
def State.vehicle (s : State) : Vehicle := s.sfc.cfg.vehicle.getD Vehicle.absent

/-- The BLEND section, or zeros before it is taken (log 28). -/
def State.blend (s : State) : Blend := s.sfc.cfg.blend.getD Blend.absent

def State.adhesion (s : State) : Adhesion := s.sfc.cfg.adhesion

/-- Window length W of a channel in ms; 0 before its AXLE section is taken. -/
def State.windowMs (s : State) : Chan → Nat
  | .axle x => ((s.sfc.cfg.axle.get x).map AxleCfg.window).getD 0
  | .ground => (s.sfc.cfg.ground.map GroundCfg.window).getD 0

/-! The link's queues and its arbiter (R195 to R197) -/

/-- R197: on a free line the oldest reply begins, or else the oldest report. -/
def arbitrate (s : State) : State :=
  match s.lnk.inFlight with
  | some _ => s
  | none =>
    match s.lnk.replies with
    | r :: rest => { s with lnk := { s.lnk with replies := rest, inFlight := some (.reply r) } }
    | [] =>
      match s.lnk.reports with
      | r :: rest => { s with lnk := { s.lnk with reports := rest, inFlight := some (.report r) } }
      | [] => s

/-- R196: a raised report joins the tail, or is lost when 16 wait. -/
def sendReport (r : Report) (s : State) : State :=
  if 16 ≤ s.lnk.reports.length then { s with lnk.reportsLost := true }
  else arbitrate { s with lnk.reports := s.lnk.reports ++ [r] }

/-- R193, R195: a reply joins the tail of the reply queue. -/
def sendReply (r : Reply) (s : State) : State :=
  arbitrate { s with lnk.replies := s.lnk.replies ++ [r] }

/-- The answer of an owning block to a request of this kind and tag (R193). -/
def answer (kind : ReqKind) (tag : Byte) (r : Result) (s : State) : State :=
  sendReply ⟨kind.code, tag, r⟩ s

/-- R193, cases 1 and 2, before a request reaches its owner: with a restart pending it is discarded; with
4 replies waiting it is discarded and the flag is set. -/
def asRequest (owner : State → State) (s : State) : State :=
  if s.sfc.restartPending then s
  else if 4 ≤ s.lnk.replies.length then { s with lnk.requestsDiscarded := true }
  else owner s

/-! The fault table (R185, R186) -/

def FaultTable.get (t : FaultTable) : FaultId → FaultRec
  | .sensor x => t.sensor.get x
  | .ground => t.ground
  | .pressure x => t.pressure.get x
  | .edFeedback x => t.edFeedback.get x
  | .sandEmpty x => t.sandEmpty.get x
  | .referenceLost => t.referenceLost
  | .demandStale => t.demandStale
  | .link => t.link

def FaultTable.set (t : FaultTable) (id : FaultId) (r : FaultRec) : FaultTable :=
  match id with
  | .sensor x => { t with sensor := t.sensor.set x r }
  | .ground => { t with ground := r }
  | .pressure x => { t with pressure := t.pressure.set x r }
  | .edFeedback x => { t with edFeedback := t.edFeedback.set x r }
  | .sandEmpty x => { t with sandEmpty := t.sandEmpty.set x r }
  | .referenceLost => { t with referenceLost := r }
  | .demandStale => { t with demandStale := r }
  | .link => { t with link := r }

def State.fault (s : State) (id : FaultId) : FaultRec := s.sfc.faults.get id

def State.setFault (s : State) (id : FaultId) (r : FaultRec) : State :=
  { s with sfc.faults := s.sfc.faults.set id r }

/-- R185, steps 1 to 4. -/
def FaultRec.raised (r : FaultRec) (now : Time) : FaultRec where
  active := true
  latched := true
  count := min (r.count + 1) 255
  firstTime := if r.count = 0 then now else r.firstTime
  lastTime := now

/-- R185: a raise of a record that is not active; a record that is active is left as it stands. -/
def raiseFault (id : FaultId) (s : State) : State :=
  if (s.fault id).active then s
  else
    let r := (s.fault id).raised s.nowMs
    sendReport (.faultRaised id r) (s.setFault id r)

/-- R186: only active is cleared. -/
def endFault (id : FaultId) (s : State) : State :=
  s.setFault id { s.fault id with active := false }

/-- R186: only the latched mark is cleared. -/
def unlatchFault (id : FaultId) (s : State) : State :=
  s.setFault id { s.fault id with latched := false }

/-- R187: the latched mark is cleared, the count and both times become 0. -/
def clearFault (id : FaultId) (s : State) : State :=
  s.setFault id FaultRec.clear

/-! Values that one block publishes to another -/

def State.mode (s : State) : Mode := s.bld.demand.mode

def State.travel (s : State) : Direction := s.bld.demand.dir

/-- ADH's adhesion state of an axle (R44). -/
def State.adhState (s : State) (x : Axle) : AdhState := (s.adh.axle.get x).state

/-- The axle is ISOLATED or FAULT. -/
def State.unwatched (s : State) (x : Axle) : Bool :=
  s.adhState x = .isolated || s.adhState x = .fault

/-- R89: the head of the route queue, none in BEYOND-ROUTE. -/
def State.headSegment (s : State) : Option Segment := s.rlq.queue.head?

/-- R89, Table 4-4: the current condition. -/
def State.condition (s : State) : Condition :=
  match s.headSegment with
  | some g => g.condition
  | none => .unknown

/-- R89, Table 4-4: the current adhesion override. -/
def State.override (s : State) : Option Nat := s.headSegment.bind Segment.override

/-- R89, Table 4-4: the current sanding permission is INHIBITED. -/
def State.sandInhibited (s : State) : Bool :=
  match s.headSegment with
  | some g => g.inhibited
  | none => false

/-- R113: the value of a pressure output at the time counter `now`. -/
def Output.value (jerk : Nat) (now : Time) : Output → Nat
  | .absent => 0
  | .steady v => v
  | .ramp start t0 aim =>
    let moved := roundDown (jerk * elapsed now t0) 1000
    if start ≤ aim then min aim (start + moved) else max aim (start - moved)

/-- The aim of a pressure output (R113); 0 where it is absent. -/
def Output.aim : Output → Nat
  | .absent => 0
  | .steady v => v
  | .ramp _ _ aim => aim

/-- The pressure output value of a bogie as it stands (R115). -/
def State.pressure (s : State) (x : Bogie) : Nat :=
  (s.bld.out.get x).value s.blend.jerk s.nowMs

/-- R128: a falling floor at the time counter `now`. -/
def FloorRamp.value (rate : Nat) (now : Time) (r : FloorRamp) : Nat :=
  r.start - roundDown (rate * elapsed now r.since) 1000

/-- HHU's published floor of a bogie as it stands: the falling value where a release ramp is in flight. -/
def State.floor (s : State) (x : Bogie) : Nat :=
  match s.hhu.ramp.get x with
  | some r => r.value s.sfc.cfg.hold.rate s.nowMs
  | none => s.hhu.floor.get x

def State.floors (s : State) : PerBogie Nat := PerBogie.of s.floor

/-- STU holds the bogie's dump valve open while a dump episode is open (R168, R172). -/
def State.dumpOpen (s : State) (x : Bogie) : Bool := (s.stu.bogie.get x).episode.isSome

/-- The latest reading of an analog channel, 0 where absent (R156). -/
def State.reading (s : State) (c : Analog) : Int := (s.afe.chan.get c).reading.getD 0

/-- R47, for BRAKE and EMERGENCY: the slip of a speed against the published reference. -/
def State.brakeSlip (s : State) (v : Int) : Int :=
  let rp := s.ref.speed * s.travel.sign
  truncate ((rp - v * s.travel.sign) * 1000) (max (rp.natAbs : Int) 1000)

/-- R47, for DRIVE. -/
def State.driveSlip (s : State) (v : Int) : Int :=
  let rp := s.ref.speed * s.travel.sign
  truncate ((v * s.travel.sign - rp) * 1000) (max (rp.natAbs : Int) 1000)

end Sys2Proof.Machine
end

