-- ==== Sys2Proof/Machine/Encode.lean ====
section
/-! DEFINITION. What the line carries (10: R190, R194, R198): the bodies of the reports and of the replies,
the status groups, and a frame's bytes with its CRC. Widths and codes the manual leaves to a reading of R194
are those of log 26. -/

namespace Sys2Proof.Machine

/-! Codes of choices, counted from 0 in the order the values are listed (R194) -/

def Direction.code : Direction → Nat
  | .forward => 0
  | .reverse => 1

def Mode.code : Mode → Nat
  | .coast => 0
  | .drive => 1
  | .brake => 2
  | .emergency => 3

def OpState.code : OpState → Nat
  | .unconfigured => 0
  | .ready => 1
  | .active => 2
  | .failsafe => 3

def RefChoice.code : RefChoice → Nat
  | .axleFused => 0
  | .groundSensor => 1

def RefMode.code : RefMode → Nat
  | .axleFused => 0
  | .groundSensor => 1
  | .held => 2
  | .lost => 3
  | .standstill => 4

def AdhState.code : AdhState → Nat
  | .isolated => 0
  | .fault => 1
  | .grip => 2
  | .creep => 3
  | .slip => 4
  | .recover => 5

def Hold.code : Hold → Nat
  | .off => 0
  | .holding => 1
  | .takeUp => 2
  | .releasing => 3
  | .rollbackCatch => 4

def AxleCause.code : AxleCause → Nat
  | .slipEntry => 0
  | .recovered => 1
  | .isolated => 2
  | .fault => 3
  | .restored => 4
  | .lowSet => 5
  | .lowCleared => 6

def RouteReason.code : RouteReason → Nat
  | .passed => 0
  | .flush => 1
  | .direction => 2

def HoldReason.code : HoldReason → Nat
  | .start => 0
  | .standstill => 1
  | .driveEnded => 2
  | .takeUp => 3
  | .release => 4
  | .releaseBlocked => 5
  | .driveFell => 6
  | .released => 7
  | .holdTimeout => 8
  | .catchEnded => 9

def CloseCause.code : CloseCause → Nat
  | .recovered => 0
  | .axleLost => 1
  | .limit => 2
  | .mode => 3
  | .floor => 4

def TripAction.code : TripAction → Nat
  | .dump => 0
  | .none => 1
  | .suppressed => 2
  | .closed _ => 3
  | .disabled => 4

def ShotCause.code : ShotCause → Nat
  | .ended => 0
  | .inhibit => 1
  | .fill => 2

def SandReason.code : SandReason → Nat
  | .shot _ _ => 0
  | .closed _ _ _ => 1
  | .evicted => 2
  | .dropped => 3

def StateCause.code : StateCause → Nat
  | .powerOn => 0
  | .configured => 1
  | .start => 2
  | .stop => 3
  | .failsafePressure => 4
  | .failsafeAxles => 5
  | .failsafeReference => 6
  | .restart => 7

/-- Table 7-2's order. -/
def sandSourceCode : SandSource → Nat
  | .adhesion => 0
  | .hillStart => 1
  | .rollback => 2
  | .emergency => 3
  | .manual => 4

def conditionCode : Condition → Nat
  | .dry => 0
  | .wet => 1
  | .contaminated => 2
  | .unknown => 3

def StartReason.code : StartReason → Nat
  | .state => 0
  | .pressure => 1
  | .motion => 2

/-- MOVING 0, STEADY 1 (Table 8-3). -/
def movingCode (moving : Bool) : Nat := if moving then 0 else 1

/-- Stopped 0, running 1, complete 2. -/
def Confirm.code : Confirm → Nat
  | .stopped => 0
  | .running _ => 1
  | .complete => 2

/-- Stopped 0, running 1. -/
def timerCode (t : Timer) : Nat := if t.isSome then 1 else 0

/-- CLOSED 0, OPEN 1, RECOVERY 2 (Table 7-1). -/
def Valve.code : Valve → Nat
  | .closed => 0
  | .pouring _ => 1
  | .recovery _ => 2

def one (n : Nat) : List Byte := bytesOf 1 n

def two (n : Nat) : List Byte := bytesOf 2 n

def four (n : Nat) : List Byte := bytesOf 4 n

def timeBytes (t : Time) : List Byte := bytesOf 4 t.toNat

/-- The 3-byte form of the sent marks (R183). -/
def sentBytes (sent : BitVec 24) : List Byte := bytesOf 3 sent.toNat

def threeTwo (p : PerBogie Nat) : List Byte := two p.a ++ two p.t ++ two p.b

/-! Reports (Table 10-6) -/

/-- Table 10-9. -/
def faultBytes (id : FaultId) (r : FaultRec) : List Byte :=
  one id.number ++ one id.kind ++ one id.slot ++ [r.stateByte] ++ one r.count
    ++ timeBytes r.firstTime ++ timeBytes r.lastTime

def AxleSubject.code : AxleSubject → Nat
  | .axle x => x.number
  | .bogie x => x.number

/-- The cause of a CLOSED report, absent for the other actions. -/
def TripAction.cause : TripAction → Option CloseCause
  | .closed c => some c
  | .dump => Option.none
  | .none => Option.none
  | .suppressed => Option.none
  | .disabled => Option.none

/-- R173: which of the exhaustion count and the open time a TRIP report carries. -/
def TripAction.carriesCount : TripAction → Bool
  | .dump => true
  | .closed _ => true
  | .disabled => true
  | .none => false
  | .suppressed => false

def TripAction.carriesTime : TripAction → Bool
  | .closed _ => true
  | .disabled => true
  | .dump => false
  | .none => false
  | .suppressed => false

/-- R154: the cause, what a SHOT carries and what a CLOSED carries, each absent elsewhere. -/
def SandReason.cause : SandReason → Option ShotCause
  | .closed c _ _ => some c
  | .shot _ _ => none
  | .evicted => none
  | .dropped => none

def SandReason.details : SandReason → List Byte
  | .shot allowed flow =>
    optBytes 2 (some (two allowed)) ++ optBytes 1 (some (one flow)) ++ optBytes 4 none ++ optBytes 4 none
  | .closed _ openTime charge =>
    optBytes 2 none ++ optBytes 1 none ++ optBytes 4 (some (four openTime))
      ++ optBytes 4 (some (four charge))
  | .evicted => optBytes 2 none ++ optBytes 1 none ++ optBytes 4 none ++ optBytes 4 none
  | .dropped => optBytes 2 none ++ optBytes 1 none ++ optBytes 4 none ++ optBytes 4 none

/-- The kind byte of a report (Table 10-6). -/
def Report.kind : Report → Byte
  | .axleState .. => 0x40
  | .referenceMode .. => 0x41
  | .segmentPassed .. => 0x42
  | .routeEmpty .. => 0x43
  | .holdState .. => 0x44
  | .rollback .. => 0x45
  | .trip .. => 0x46
  | .sand .. => 0x47
  | .faultRaised .. => 0x48
  | .staleDemand .. => 0x49
  | .operatingState .. => 0x4A

/-- The body of a report, in the order of its rule (Table 10-6, R194). -/
def Report.body : Report → List Byte
  | .axleState subject cause new left slip limit low time =>
    one subject.code ++ one cause.code ++ one new.code ++ one left.code ++ signedBytes 4 slip
      ++ two limit ++ flagByte low ++ timeBytes time
  | .referenceMode new left requested speed time =>
    one new.code ++ one left.code ++ one requested.code ++ signedBytes 2 speed ++ timeBytes time
  | .segmentPassed id remaining uncertain time =>
    two id ++ one remaining ++ flagByte uncertain ++ timeBytes time
  | .routeEmpty reason removed time => one reason.code ++ one removed ++ timeBytes time
  | .holdState new left reason floors holdForce relThreshold dAch time =>
    one new.code ++ one left.code ++ one reason.code ++ threeTwo floors ++ four holdForce
      ++ four relThreshold ++ four dAch ++ timeBytes time
  | .rollback left exceeding floors side speed time =>
    one left.code ++ one exceeding.length
      ++ exceeding.flatMap (fun a => one a.1.number ++ four a.2)
      ++ threeTwo floors ++ one side.number ++ signedBytes 2 speed ++ timeBytes time
  | .trip bogie axle action slip accel speed exhausted openTime time =>
    one bogie.number ++ one axle.number ++ one action.code
      ++ optBytes 1 (action.cause.map fun c => one c.code) ++ signedBytes 4 slip
      ++ signedBytes 2 accel ++ signedBytes 2 speed
      ++ optBytes 1 (if action.carriesCount then some (one exhausted) else none)
      ++ optBytes 4 (if action.carriesTime then some (timeBytes openTime) else none)
      ++ timeBytes time
  | .sand reason side source arrival shots level time =>
    one reason.code ++ optBytes 1 (reason.cause.map fun c => one c.code) ++ one side.number
      ++ one (sandSourceCode source) ++ two arrival.toNat ++ one shots ++ reason.details
      ++ two level ++ timeBytes time
  | .faultRaised id record => faultBytes id record
  | .staleDemand mode effort applied time =>
    one mode.code ++ two effort ++ two applied ++ timeBytes time
  | .operatingState new left cause sent time =>
    one new.code ++ one left.code ++ one cause.code ++ sentBytes sent ++ timeBytes time

/-! Replies (Tables 10-3 and 10-5) -/

/-- The result code (Table 10-3). -/
def Result.code : Result → Nat
  | .ok _ => 0
  | .pending => 1
  | .held => 2
  | .refusedStart _ => 16
  | .refusedState => 16
  | .refusedRange _ => 17
  | .refusedBusy => 18
  | .refusedFull _ => 19
  | .refusedDuplicate _ => 20
  | .notFound => 21
  | .stillActive => 22
  | .unknownKind => 32
  | .badLength => 33

/-- The body of a reply (Table 10-3). -/
def Result.body (r : Result) : List Byte :=
  one r.code ++ match r with
    | .ok bytes => bytes
    | .refusedStart reason => one reason.code
    | .refusedRange i => one i
    | .refusedFull (some n) => one n
    | .refusedDuplicate id => two id
    | .refusedFull none => []
    | .pending => []
    | .held => []
    | .refusedState => []
    | .refusedBusy => []
    | .notFound => []
    | .stillActive => []
    | .unknownKind => []
    | .badLength => []

/-! Frames (R190) -/

/-- One bit of the CRC: a shift, and the polynomial where the bit shifted out is 1. -/
def crcBit (c : BitVec 16) : BitVec 16 := if c.msb then (c <<< 1) ^^^ 0x1021 else c <<< 1

/-- One byte of the CRC, taken most significant bit first. -/
def crcByte (c : BitVec 16) (x : Byte) : BitVec 16 :=
  Nat.repeat crcBit 8 (c ^^^ ((x.setWidth 16) <<< 8))

/-- R190: CRC-16 with polynomial 0x1021 and initial value 0xFFFF, with no final inversion. -/
def crc16 (bytes : List Byte) : BitVec 16 := bytes.foldl crcByte 0xFFFF

/-- R190, Table 10-2: the bytes of a frame. -/
def frameBytes (kind tag : Byte) (body : List Byte) : List Byte :=
  let covered := one body.length ++ [kind, tag] ++ body
  0xD1 :: covered ++ two (crc16 covered).toNat

/-- R193: a reply frame carries the request's kind plus 0x80 and the request's tag. -/
def replyKind (kind : Byte) : Byte := kind + 0x80

/-- The bytes of a frame on the transmit line. -/
def TxFrame.bytes : TxFrame → List Byte
  | .reply r => frameBytes (replyKind r.kind) r.tag r.result.body
  | .report r => frameBytes r.kind 0 r.body

/-! Status groups (R198, Table 10-10) -/

/-- Table 10-8. -/
def sampleBytes (c : Chan) (latest : Option Sample) : List Byte :=
  match latest with
  | none => one c.number ++ List.replicate 16 0
  | some p =>
    one c.number ++ two p.seq.toNat ++ signedBytes 4 p.net ++ four p.duration ++ one p.windows
      ++ signedBytes 2 p.v ++ signedBytes 2 p.a ++ [p.flags.byte]

/-- Table 10-7; all 0 without a segment. -/
def segmentBytes (g : Option Segment) : List Byte :=
  match g with
  | none => List.replicate 10 0
  | some g =>
    two g.id ++ two g.length ++ signedBytes 2 g.grade ++ one (conditionCode g.condition)
      ++ flagByte g.inhibited ++ two (g.override.getD 0)

/-- Group 0. -/
def group0 (s : State) : List Byte :=
  one s.sfc.opState.code ++ sentBytes s.sfc.sent ++ flagByte s.eblOpen ++ one s.lnk.replies.length
    ++ one s.lnk.reports.length ++ one s.lnk.discards

/-- Group 1. -/
def group1 (s : State) : List Byte := Chan.all.flatMap fun c => sampleBytes c (s.wsc.get c).latest

/-- Group 2. -/
def group2 (s : State) : List Byte :=
  one s.ref.requested.code ++ one s.ref.active.code ++ one s.ref.prior.code
    ++ signedBytes 2 s.ref.speed ++ signedBytes 2 s.ref.accel ++ one s.ref.engage

/-- Group 3 (R44). -/
def group3 (s : State) : List Byte :=
  (Axle.all.flatMap fun x => one (s.adh.axle.get x).state.code ++ one (s.adh.axle.get x).recover)
    ++ Bogie.all.flatMap fun x =>
      let r := s.adh.bogie.get x
      two r.limit ++ flagByte r.low ++ one r.slips.length
        ++ optBytes 4 (r.slips.getLast?.map timeBytes)

/-- R89: the current grade, the magnitude G_def in BEYOND-ROUTE. -/
def State.grade (s : State) : Int :=
  match s.headSegment with
  | some g => g.grade
  | none => s.vehicle.gDef

/-- Group 4 (R89). -/
def group4 (s : State) : List Byte :=
  one (if s.rlq.queue = [] then 1 else 0) ++ one s.rlq.queue.length ++ segmentBytes s.headSegment
    ++ optBytes 4 (s.rlq.pos.map four) ++ optBytes 1 (s.rlq.dir.map fun d => one (Direction.code d))
    ++ flagByte s.rlq.uncertain ++ signedBytes 2 s.grade ++ one (conditionCode s.condition)
    ++ two (s.override.getD 0) ++ flagByte s.sandInhibited

/-- R116: the duty of a pressure line in ‰. -/
def pressureDuty (s : State) (x : Bogie) : Nat :=
  match s.bld.out.get x with
  | .absent => 1000
  | .steady _ => roundHalfUp (s.pressure x * 1000) (s.blend.pMax.get x)
  | .ramp _ _ _ => roundHalfUp (s.pressure x * 1000) (s.blend.pMax.get x)

/-- The output value of a bogie, absent in UNCONFIGURED (R116). -/
def State.pressure? (s : State) (x : Bogie) : Option Nat :=
  match s.bld.out.get x with
  | .absent => none
  | .steady _ => some (s.pressure x)
  | .ramp _ _ _ => some (s.pressure x)

/-- R91, R194: the latch with its origin in one byte (log 26). -/
def latchCode : Option LatchOrigin → Nat
  | none => 0
  | some .demand => 1
  | some .loop => 2

/-- Table 5-1 lists yes before no. -/
def yesNoCode (x : Bool) : Nat := if x then 0 else 1

/-- Group 5 (R118). The items named for each bogie come bogie by bogie, its design force and its cap first,
its target, output value and duty last (log 26). -/
def group5 (s : State) : List Byte :=
  let d := s.bld.demand
  one d.mode.code ++ one (Direction.code d.dir) ++ two d.effort ++ one (yesNoCode d.permitted)
    ++ flagByte d.stale ++ one (latchCode d.latch) ++ two (s.timeLeft d.timer) ++ flagByte s.eblOpen
    ++ two s.bld.mu
    ++ (Bogie.all.flatMap fun x => two (s.bld.fmax.get x) ++ two (s.bld.cap.get x))
    ++ four s.bld.drive.a ++ four s.bld.drive.b ++ four s.bld.deficit
    ++ four s.bld.ed.a ++ four s.bld.ed.b ++ four s.bld.achieved.a ++ four s.bld.achieved.b
    ++ four s.bld.toPlace ++ four s.bld.friction.t ++ four s.bld.friction.a
    ++ four s.bld.friction.b ++ four s.bld.unfulfilled
    ++ flagByte s.bld.track ++ one (timerCode s.bld.onTimer) ++ one (timerCode s.bld.offTimer)
    ++ Bogie.all.flatMap fun x =>
      two (s.bld.out.get x).aim ++ optBytes 2 ((s.pressure? x).map two) ++ two (pressureDuty s x)

/-- Group 6 (R119). -/
def group6 (s : State) : List Byte :=
  one s.hhu.state.code ++ threeTwo s.floors ++ threeTwo s.hhu.level
    ++ (Axle.all.flatMap fun x => four (s.hhu.acc.get x))
    ++ one s.hhu.confirm.code ++ one (timerCode s.hhu.takeUp) ++ flagByte s.hhu.rearm
    ++ four s.hhu.holdForce ++ four s.hhu.relThreshold

/-- An entry of the sand queue (Table 7-2). The age timer, which entries of three sources do not have, is a
field that may be absent: a presence mark, then the time left (log 26). -/
def entryBytes (s : State) (x : SandEntry) : List Byte :=
  one (sandSourceCode x.source) ++ one x.side.number ++ flagByte x.leading ++ one x.shots
    ++ optBytes 2 (x.age.map fun due => two (s.timeLeft (some due))) ++ two x.arrival.toNat

/-- The open shot of a valve. -/
def Valve.shot? : Valve → Option Shot
  | .pouring shot => some shot
  | .closed => none
  | .recovery _ => none

/-- The recovery timer of a valve. -/
def Valve.recoveryTimer : Valve → Timer
  | .recovery due => some due
  | .closed => none
  | .pouring _ => none

def shotBytes (s : State) (x : Shot) : List Byte :=
  one (sandSourceCode x.source) ++ two x.arrival.toNat ++ two x.length ++ one x.flow
    ++ timeBytes x.since ++ two x.allowed ++ two (s.timeLeft (some x.due))

/-- Group 7 (R137). -/
def group7 (s : State) : List Byte :=
  one s.snd.queue.length ++ s.snd.queue.flatMap (entryBytes s)
    ++ (Side.all.flatMap fun e =>
      let v := s.snd.valve.get e
      one v.code ++ optBytes 14 (v.shot?.map (shotBytes s)) ++ two (s.timeLeft v.recoveryTimer)
        ++ two (s.snd.level.get e))
    ++ four s.snd.sanded ++ one (timerCode s.snd.repeatTimer)

def gainModeCode (m : GainMode) : Nat := if m = .fixed then 0 else 1

/-- Group 8 (R164). The current gain is sent as its numeric value, as R194 codes the gain of an ANALOG
section (log 26). -/
def group8 (s : State) : List Byte :=
  (Analog.all.flatMap fun c =>
    let ch := s.afe.chan.get c
    optBytes 1 ((s.sfc.cfg.analog.get c).map fun cfg => one (gainModeCode cfg.mode))
      ++ optBytes 1 (ch.gain.map one) ++ flagByte ch.discard ++ optBytes 2 (ch.code.map two)
      ++ optBytes 4 (ch.reading.map (signedBytes 4)) ++ one ch.saturated ++ one ch.clear)
    ++ Bogie.all.flatMap fun x =>
      let v := s.afe.sup.get x
      one (movingCode v.moving) ++ one v.steady.code ++ two (s.timeLeft v.steady.timer)
        ++ one (timerCode v.disagree) ++ two (s.timeLeft v.disagree)
        ++ one (timerCode v.agree) ++ two (s.timeLeft v.agree) ++ flagByte v.cause

def tripSourceCode : TripSource → Nat
  | .decel => 0
  | .slip => 1
  | .both => 2

def tripModeCode : TripMode → Nat
  | .autoDump => 0
  | .reportOnly => 1

/-- Group 9 (R173). -/
def group9 (s : State) : List Byte :=
  Bogie.all.flatMap fun x =>
    let cfg := s.sfc.cfg.trip.get x
    let r := s.stu.bogie.get x
    one (tripSourceCode cfg.source) ++ one cfg.filter ++ one (tripModeCode cfg.mode)
      ++ two cfg.decel ++ two cfg.slip ++ two cfg.limit
      ++ one (s.stu.counter.get x.axles.1) ++ one (s.stu.counter.get x.axles.2)
      ++ optBytes 1 (r.episode.map fun ep => one ep.axle.number) ++ two (s.timeLeft r.limitTimer)
      ++ one r.exhausted ++ flagByte r.disabled ++ flagByte r.suppressed

/-- Table 10-10: the contents of a group; none above 9. -/
def statusGroup (s : State) : Nat → Option (List Byte)
  | 0 => some (group0 s)
  | 1 => some (group1 s)
  | 2 => some (group2 s)
  | 3 => some (group3 s)
  | 4 => some (group4 s)
  | 5 => some (group5 s)
  | 6 => some (group6 s)
  | 7 => some (group7 s)
  | 8 => some (group8 s)
  | 9 => some (group9 s)
  | _ => none

/-- R198: the body of a STATUS QUERY's OK reply after the result code. -/
def statusBody (s : State) (group : Nat) (contents : List Byte) : List Byte :=
  [s.lnk.flagsByte] ++ one group ++ timeBytes s.nowMs ++ contents

/-- R188: the body of a FAULT QUERY's OK reply after the result code. -/
def faultTableBody (s : State) : List Byte :=
  timeBytes s.nowMs ++ FaultId.all.flatMap fun id => faultBytes id (s.fault id)

/-- R199: the body of an IDENTIFY's OK reply after the result code; the revision number, of which no range
is stated, in four bytes (R194, log 26). -/
def identityBody (s : State) : List Byte :=
  [0x48, 0x47, 0x36] ++ four 1 ++ one s.sfc.opState.code ++ sentBytes s.sfc.sent

end Sys2Proof.Machine
end

