-- ==== Sys2Proof/Machine/Blend.lean ====
section
/-! DEFINITION. The blend unit's allocation (05: R99 to R117): the four stages, the split rule, the track
brakes, the pressure outputs with what they deliver to AFE (R115, R161), and BLD's taking of each operating
state. -/

namespace Sys2Proof.Machine

/-! Output condition at AFE (R161) -/

def State.setSup (s : State) (x : Bogie) (v : Supervision) : State :=
  { s with afe.sup := s.afe.sup.set x v }

/-- R161: the output has become moving; the three timers stop, the cause is kept. -/
def outputMoving (x : Bogie) (s : State) : State :=
  s.setSup x
    { s.afe.sup.get x with moving := true, steady := .stopped, disagree := none, agree := none }

/-- R161: the output has become steady; the steady timer starts for 300 ms. -/
def outputSteady (x : Bogie) (s : State) : State :=
  s.setSup x { s.afe.sup.get x with moving := false, steady := .running (s.clock + 300000) }

def State.setOutput (s : State) (x : Bogie) (o : Output) : State :=
  { s with bld.out := s.bld.out.set x o }

/-- R114: the output stands steady at `v` at once; R115: delivered as a movement followed at once by
steadiness. -/
def jumpOutput (x : Bogie) (v : Nat) (s : State) : State :=
  outputSteady x (outputMoving x (s.setOutput x (.steady v)))

/-! Stage 1 -/

/-- R100. -/
def adhesionCoefficient (s : State) : Nat :=
  match s.sfc.cfg.vehicle with
  | none => 0
  | some v =>
    min 400 (s.override.getD (v.mu.get s.condition) + if 0 < s.snd.sanded then v.sandBonus else 0)

/-- R101: the adhesion design force at the coefficient `mu`. -/
def designForce (s : State) (mu : Nat) (x : Bogie) : Nat :=
  roundDown (s.vehicle.load.get x * 981 * mu) 100000

/-- R101: the cap. -/
def capOf (limit fmax : Nat) : Nat := roundDown (limit * fmax) 1000

/-- R100, R101. -/
def stageCaps (s : State) : State :=
  let mu := adhesionCoefficient s
  let fmax := PerBogie.of (designForce s mu)
  let cap := PerBogie.of fun x => capOf (s.adh.bogie.get x).limit (fmax.get x)
  { s with bld := { s.bld with mu := mu, fmax := fmax, cap := cap } }

/-- R97: while the loop stays open the effort follows the sum of the caps where a cap has changed. -/
def followCaps (before : PerBogie Nat) (s : State) : State :=
  if s.eblOpen ∧ s.bld.demand.latch = some .loop ∧ s.bld.cap ≠ before then
    { s with bld.demand.effort := s.bld.cap.sum }
  else s

/-! Stage 2 -/

/-- R102: the split rule, of a total between two bogies with these caps. -/
def split (total capA capB : Nat) : PerMotor Nat :=
  let a := min capA (total - min capB (roundDown total 2))
  ⟨a, total - a⟩

/-- R102: the drive requests. -/
def driveSplit (s : State) : PerMotor Nat :=
  if s.hhu.state = .rollbackCatch then ⟨0, 0⟩
  else
    let dA := min (s.bld.cap.get .a) s.blend.driveMax.a
    let dB := min (s.bld.cap.get .b) s.blend.driveMax.b
    split (min s.bld.demand.effort (dA + dB)) dA dB

/-- R104: the ED fade cap at the speed `v`. -/
def fadeCap (edMax vFade vZero v : Nat) : Nat :=
  if vFade ≤ v then edMax
  else if v ≤ vZero then 0
  else roundDown (edMax * (v - vZero)) (vFade - vZero)

/-- R104: the ED cap of a motor bogie; 0 while its ED_FEEDBACK record is active. -/
def edCap (s : State) (x : Motor) : Nat :=
  if (s.fault (.edFeedback x)).active then 0
  else
    min (s.bld.cap.get x.bogie)
      (fadeCap (s.blend.edMax.get x) s.blend.vFade s.blend.vZero s.ref.speed.natAbs)

/-- R105: the ED requests. -/
def edSplit (s : State) : PerMotor Nat :=
  split (min s.bld.demand.effort (edCap s .a + edCap s .b)) (edCap s .a) (edCap s .b)

/-- R103, R105: the duty of an inverter line in ‰; 0 where the maximum is 0. -/
def dutyOf (request limit : Nat) : Nat := if limit = 0 then 0 else roundHalfUp (request * 1000) limit

/-- R102 to R105. -/
def stageInverters (s : State) : State :=
  match s.mode with
  | .drive =>
    let d := driveSplit s
    { s with bld := { s.bld with
        drive := d
        deficit := s.bld.demand.effort - (d.a + d.b)
        ed := ⟨0, 0⟩
        duty := ⟨dutyOf d.a s.blend.driveMax.a, dutyOf d.b s.blend.driveMax.b⟩
        modeDrive := decide (0 < d.a + d.b)
        modeBrake := false } }
  | .coast =>
    { s with bld := { s.bld with
        drive := ⟨0, 0⟩, deficit := 0, ed := ⟨0, 0⟩, duty := ⟨0, 0⟩
        modeDrive := false, modeBrake := false } }
  | .brake | .emergency =>
    let r := edSplit s
    { s with bld := { s.bld with
        drive := ⟨0, 0⟩
        deficit := 0
        ed := r
        duty := ⟨dutyOf r.a s.blend.edMax.a, dutyOf r.b s.blend.edMax.b⟩
        modeDrive := false
        modeBrake := decide (0 < r.a + r.b) } }

/-! Stage 3 -/

/-- R106: the achieved ED force of a motor bogie. -/
def achievedForce (s : State) (x : Motor) : Nat :=
  if (s.fault (.edFeedback x)).active then 0 else (-(s.reading (.force x))).toNat

/-- R107: the friction headroom of a bogie whose achieved ED force is `e`. -/
def headroom (s : State) (e : Nat) (x : Bogie) : Nat :=
  if s.dumpOpen x ∨ (s.fault (.pressure x)).latched then 0 else s.bld.cap.get x - e

/-- R106: the force of the track brakes as they stand. -/
def trackForce (s : State) : Nat := if s.bld.track then s.blend.fTb.a + s.blend.fTb.b else 0

/-- R108: what the trailer takes, then what the motor bogies split. -/
def placeFriction (toPlace hT hA hB : Nat) : PerBogie Nat :=
  let fT := min toPlace hT
  let m := split (min (toPlace - fT) (hA + hB)) hA hB
  ⟨m.a, fT, m.b⟩

/-- R106 to R108. -/
def stageFriction (s : State) : State :=
  match s.mode with
  | .coast | .drive =>
    { s with bld := { s.bld with
        achieved := ⟨0, 0⟩, toPlace := 0, friction := ⟨0, 0, 0⟩, unfulfilled := 0 } }
  | .brake | .emergency =>
    let eA := achievedForce s .a
    let eB := achievedForce s .b
    let toPlace := s.bld.demand.effort - eA - eB - trackForce s
    let f := placeFriction toPlace (headroom s 0 .t) (headroom s eA .a) (headroom s eB .b)
    { s with bld := { s.bld with
        achieved := ⟨eA, eB⟩, toPlace := toPlace, friction := f, unfulfilled := toPlace - f.sum } }

/-! Track brakes -/

/-- R109 to R111, before stage 3: on in EMERGENCY; off in COAST and DRIVE, and in BRAKE without the
permission; in BRAKE with it as they stand. -/
def trackMode (s : State) : State :=
  match s.mode, s.bld.demand.permitted with
  | .emergency, _ => { s with bld := { s.bld with track := true, onTimer := none, offTimer := none } }
  | .brake, true => s
  | _, _ => { s with bld := { s.bld with track := false, onTimer := none, offTimer := none } }

/-- R109, R110: `t` starts for `ms` when `run` holds and it is stopped, runs on, or stops. -/
def runWhile (s : State) (run : Bool) (ms : Nat) (t : Timer) : Timer :=
  if run then (match t with
    | some due => some due
    | none => s.timer ms)
  else none

/-- R109, R110: the on-timer and the off-timer at a re-run, from the unfulfilled force. -/
def trackTimers (s : State) : State :=
  match s.mode, s.bld.demand.permitted with
  | .brake, true =>
    if s.bld.track then
      { s with bld := { s.bld with
          onTimer := none, offTimer := runWhile s (s.bld.unfulfilled = 0) 1000 s.bld.offTimer } }
    else
      { s with bld := { s.bld with
          onTimer := runWhile s (s.blend.uTb ≤ s.bld.unfulfilled) 500 s.bld.onTimer
          offTimer := none } }
  | _, _ => s

/-! Stage 4 -/

/-- R112: the pressure of a friction allocation. -/
def frictionPressure (s : State) (x : Bogie) : Nat :=
  min (s.blend.pMax.get x) (roundHalfUp (s.bld.friction.get x * 100) (s.blend.k.get x))

/-- R112: the target of a bogie's pressure output. -/
def target (s : State) (x : Bogie) : Nat :=
  if s.dumpOpen x then 0 else max (frictionPressure s x) (s.floor x)

/-- What has happened to a bogie whose output is re-aimed (R114). -/
inductive AimCause where
  /-- Neither of the two below. -/
  | plain
  /-- A catch floor of the bogie has risen. -/
  | caught
  /-- The bogie's dump valve has closed, not by a catch floor (R172). -/
  | valveClosed
deriving DecidableEq, Repr

/-- R113, R114: the output is aimed at `goal`. A goal above the value is set at once where a catch floor
has risen, and in EMERGENCY but at the closing of a dump valve (R172, log 40). -/
def aimOutput (cause : AimCause) (x : Bogie) (goal : Nat) (s : State) : State :=
  match s.bld.out.get x with
  | .absent => s
  | o =>
    let value := s.pressure x
    if cause = .caught ∧ value < goal then jumpOutput x goal s
    else if o.aim = goal then s
    else if (s.mode = .emergency ∧ cause ≠ .valveClosed ∧ value < goal) ∨ value = goal then
      jumpOutput x goal s
    else outputMoving x (s.setOutput x (.ramp value s.nowMs goal))

/-- R112 to R114, for the three bogies. -/
def stagePressures (cause : PerBogie AimCause) (s : State) : State :=
  Bogie.all.foldl (fun t x => aimOutput (cause.get x) x (target s x) t) s

/-! The re-run -/

/-- R99: the whole allocation in ACTIVE, stage 1 alone outside it. `cause` says of each bogie what R114
asks of its output. -/
def rerunWith (cause : PerBogie AimCause) (s : State) : State :=
  let s1 := stageCaps s
  if s.isActive then
    stagePressures cause (trackTimers (stageFriction (stageInverters (trackMode
      (followCaps s.bld.cap s1)))))
  else s1

def allPlain : PerBogie AimCause := ⟨.plain, .plain, .plain⟩

/-- R99: a re-run that brings no catch floor and no closing of a dump valve. -/
def rerun (s : State) : State := rerunWith allPlain s

/-! Operating states (R116, R117, Table 5-5) -/

/-- Table 5-4, Table 5-5: what BLD computes, at 0; lines off; timers stopped. The achieved ED forces, which
Table 5-5 does not list, are 0 too (log 48). -/
def Bld.idle (d : Bld) (track : Bool) : Bld :=
  { d with
    cap := ⟨0, 0, 0⟩, drive := ⟨0, 0⟩, deficit := 0, ed := ⟨0, 0⟩, achieved := ⟨0, 0⟩
    toPlace := 0, friction := ⟨0, 0, 0⟩, unfulfilled := 0, duty := ⟨0, 0⟩
    modeDrive := false, modeBrake := false, track := track, onTimer := none, offTimer := none }

/-- Each output set to its value without a ramp. -/
def jumpAll (v : PerBogie Nat) (s : State) : State :=
  Bogie.all.foldl (fun t x => jumpOutput x (v.get x) t) s

/-- R116: the outputs of READY. -/
def parkOutputs (s : State) : State := jumpAll s.blend.pPark s

/-- R116: no output in UNCONFIGURED; R161: the condition is then MOVING. -/
def dropOutputs (s : State) : State :=
  Bogie.all.foldl (fun t x => outputMoving x (t.setOutput x .absent)) s

/-- R91: the record at STOP. -/
def Demand.stopped (d : Demand) : Demand :=
  { d with mode := .coast, effort := 0, permitted := false, stale := false, latch := none, timer := none }

/-- STOP at BLD (R91, R116, R117). -/
def stopBlend (s : State) : State :=
  parkOutputs { s with bld := { s.bld.idle false with demand := s.bld.demand.stopped } }

/-- FAILSAFE entry at BLD (R91, R114, R116, R117). -/
def failsafeBlend (s : State) : State :=
  jumpAll s.blend.pFs
    { s with bld := { s.bld.idle true with demand := { s.bld.demand with timer := none } } }

/-- RESTART at BLD (R91, Table 5-5), with the outputs of the state entered. -/
def restartBlend (s : State) : State :=
  let t := { s with bld := { s.bld.idle false with demand := Demand.powerOn } }
  match t.sfc.opState with
  | .unconfigured => dropOutputs t
  | _ => parkOutputs t

end Sys2Proof.Machine
end

