-- ==== Sys2Proof/Machine/Sand.lean ====
section
/-! DEFINITION. The sanding unit (07: R137 to R155): joining and leaving the queue, the valve arbiters, the
shots and the reservoir account, and the sanded distance. -/

namespace Sys2Proof.Machine

/-- Priority of a source (Table 7-3). -/
def sandPriority : SandSource → Nat
  | .rollback => 4
  | .emergency => 3
  | .hillStart => 2
  | .manual => 2
  | .adhesion => 1

/-- Sources that override a segment's inhibit (Table 7-3). -/
def overridesInhibit : SandSource → Bool
  | .rollback => true
  | .emergency => true
  | .hillStart => false
  | .manual => false
  | .adhesion => false

/-- Sources that override the minimum speed (Table 7-3). -/
def overridesSpeed : SandSource → Bool
  | .rollback => true
  | .emergency => true
  | .hillStart => true
  | .manual => false
  | .adhesion => false

/-- Sources whose entries have an age timer (Table 7-2). -/
def hasAge : SandSource → Bool
  | .adhesion => true
  | .manual => true
  | .rollback => false
  | .emergency => false
  | .hillStart => false

def State.setSandQueue (s : State) (q : List SandEntry) : State := { s with snd.queue := q }

def State.setValve (s : State) (e : Side) (v : Valve) : State :=
  { s with snd.valve := s.snd.valve.set e v }

def State.setLevel (s : State) (e : Side) (g : Nat) : State :=
  { s with snd.level := s.snd.level.set e g }

def SandEntry.isFor (source : SandSource) (e : Side) (x : SandEntry) : Bool :=
  x.source = source && x.side = e

/-! The arbiters -/

/-- R145: the entry is permitted at its end. -/
def permitted (s : State) (x : SandEntry) : Bool :=
  decide (0 < s.snd.level.get x.side)
    && (!s.sandInhibited || overridesInhibit x.source)
    && (decide (s.sfc.cfg.sand.vMin ≤ s.ref.speed.natAbs) || overridesSpeed x.source)

/-- The entry of highest priority, the oldest among equals. -/
def mostUrgent : List SandEntry → Option SandEntry
  | [] => none
  | x :: rest =>
    match mostUrgent rest with
    | none => some x
    | some y => if sandPriority x.source < sandPriority y.source then some y else some x

/-- R146: the entry the arbiter of an end grants, if it grants. -/
def grantee (s : State) (e : Side) : Option SandEntry :=
  if s.isActive ∧ s.snd.valve.get e = .closed then
    mostUrgent (s.snd.queue.filter fun x => x.side = e && permitted s x)
  else none

/-- R147: one shot is taken from the entry; an entry left with none is removed. -/
def takeShot (x : SandEntry) (q : List SandEntry) : List SandEntry :=
  q.filterMap fun y =>
    if y.isFor x.source x.side then
      (if y.shots ≤ 1 then none else some { y with shots := y.shots - 1 })
    else some y

/-- R147: the open shot of a grant. -/
def shotOf (s : State) (x : SandEntry) : Shot :=
  let flow := s.sfc.cfg.sand.flow.get x.side
  let allowed := min s.sfc.cfg.sand.shot (roundDown (s.snd.level.get x.side * 1000) flow)
  { source := x.source, arrival := x.arrival, length := s.sfc.cfg.sand.shot, flow := flow
    since := s.nowMs, allowed := allowed, due := s.clock + allowed * 1000 }

/-- R153: a grant sets the sanded-distance counter; a rise from 0 is delivered to BLD. -/
def setSanded (s : State) : State :=
  let t := { s with snd.sanded := s.vehicle.sLen * 1000 }
  if s.snd.sanded = 0 ∧ 0 < t.snd.sanded then rerun t else t

/-- R147. -/
def grant (x : SandEntry) (s : State) : State :=
  let shot := shotOf s x
  let t := (s.setSandQueue (takeShot x s.snd.queue)).setValve x.side (.pouring shot)
  setSanded (sendReport (.sand (.shot shot.allowed shot.flow) x.side x.source x.arrival (x.shots - 1)
    (s.snd.level.get x.side) s.nowMs) t)

/-- R146: the arbiter of an end judges. -/
def judgeEnd (e : Side) (s : State) : State :=
  match grantee s e with
  | none => s
  | some x => grant x s

/-- R146: both arbiters judge, in either order. -/
def judgeEnds (s : State) : State :=
  inSomeOrder ((Side.all.filter fun e => (grantee s e).isSome).map judgeEnd) s

/-! Joining the queue (R138 to R140) -/

/-- The lowest priority among the entries. -/
def lowestPriority : List SandEntry → Nat
  | [] => 5
  | x :: rest => min (sandPriority x.source) (lowestPriority rest)

/-- R140: the newest entry of the lowest priority, with the rest of the queue. -/
def evictee (p : Nat) : List SandEntry → Option (SandEntry × List SandEntry)
  | [] => none
  | x :: rest =>
    match evictee p rest with
    | some (y, q) => some (y, x :: q)
    | none => if sandPriority x.source = p then some (x, rest) else none

/-- R141: the arrival number and the shots of the entry that holds the request after the join; none where
R140 drops the request. -/
def placement (source : SandSource) (e : Side) (shots : Nat) (s : State) : Option (BitVec 16 × Nat) :=
  match s.snd.queue.find? (SandEntry.isFor source e) with
  | some x => some (x.arrival, min 10 (x.shots + shots))
  | none =>
    if s.snd.queue.length < 8 ∨ lowestPriority s.snd.queue < sandPriority source then
      some (s.snd.arrivals, shots)
    else none

def ageOf (s : State) (source : SandSource) : Timer :=
  if hasAge source then s.timer 5000 else none

/-- R139: the merge into a matching entry. -/
def mergeEntry (s : State) (leading : Bool) (shots : Nat) (x : SandEntry) : SandEntry :=
  { x with
    shots := min 10 (x.shots + shots)
    leading := x.leading && leading
    age := ageOf s x.source }

/-- R139: a new entry at the tail. -/
def joinTail (source : SandSource) (e : Side) (leading : Bool) (shots : Nat) (s : State) : State :=
  { s with snd := { s.snd with
      queue := s.snd.queue ++ [⟨source, e, leading, shots, ageOf s source, s.snd.arrivals⟩]
      arrivals := s.snd.arrivals + 1 } }

/-- R140: the entry to go is evicted, with its report. -/
def evict (s : State) : State :=
  match evictee (lowestPriority s.snd.queue) s.snd.queue with
  | none => s
  | some (y, q) =>
    sendReport (.sand .evicted y.side y.source y.arrival y.shots (s.snd.level.get y.side) s.nowMs)
      (s.setSandQueue q)

/-- R139, R140: a request taken in ACTIVE, its end resolved, joins the queue or is dropped. -/
def enqueueSand (source : SandSource) (e : Side) (leading : Bool) (shots : Nat) (s : State) : State :=
  if s.snd.queue.any (SandEntry.isFor source e) then
    s.setSandQueue (s.snd.queue.map fun x => if x.isFor source e then mergeEntry s leading shots x else x)
  else if s.snd.queue.length < 8 then joinTail source e leading shots s
  else if lowestPriority s.snd.queue < sandPriority source then joinTail source e leading shots (evict s)
  else if source = .manual then s
  else sendReport (.sand .dropped e source 0 shots (s.snd.level.get e) s.nowMs) s

/-- R139, R146: one request of an event. Where it joins or merges the arbiter of the end judges, but for a
new entry into which more requests of the same event merge yet: `more` (R70, log 41). -/
def joinNext (source : SandSource) (e : Side) (leading : Bool) (shots : Nat) (more : Bool) (s : State) :
    State :=
  let t := enqueueSand source e leading shots s
  let merges := s.snd.queue.any (SandEntry.isFor source e)
  if (placement source e shots s).isSome ∧ (merges ∨ !more) then judgeEnd e t else t

/-- R138: the requests of one source for one end that one event passes, in the order in which they are
passed. -/
def joinAll (source : SandSource) (e : Side) (leading : Bool) : List Nat → State → State
  | [], s => s
  | n :: rest, s => joinAll source e leading rest (joinNext source e leading n (!rest.isEmpty) s)

/-- R139, R140: one request. -/
def joinSand (source : SandSource) (e : Side) (leading : Bool) (shots : Nat) (s : State) : State :=
  joinAll source e leading [shots] s

/-- R138: requests of one event for the leading end of travel; set aside outside ACTIVE. -/
def requestLeadingAll (source : SandSource) (shots : List Nat) (s : State) : State :=
  if s.isActive then joinAll source s.travel.leading true shots s else s

/-- R138: a request for the leading end of travel. -/
def requestLeading (source : SandSource) (shots : Nat) (s : State) : State :=
  requestLeadingAll source [shots] s

/-- R133, R138: HHU's request, whose end HHU has resolved. -/
def requestRollback (e : Side) (s : State) : State :=
  if s.isActive then joinSand .rollback e false 3 s else s

/-! Leaving the queue (R142 to R144) -/

def dropEntries (gone : SandEntry → Bool) (s : State) : State :=
  s.setSandQueue (s.snd.queue.filter fun x => !gone x)

/-- R142: an EMERGENCY request, and the repeat timer. -/
def emergencySand (s : State) : State :=
  requestLeading .emergency 10 { s with snd.repeatTimer := s.timer 10000 }

/-- R142: a change of demand mode at SND. -/
def sandModeChange (old new : Mode) (s : State) : State :=
  if new = .emergency then (if s.isActive then emergencySand s else s)
  else if old = .emergency then
    dropEntries (fun x => x.source = .emergency) { s with snd.repeatTimer := none }
  else s

/-- R143: a change of HHU's hold state at SND. -/
def sandHoldChange (old new : Hold) (s : State) : State :=
  if (old = .takeUp ∨ old = .releasing) ∧ new ≠ .takeUp ∧ new ≠ .releasing then
    dropEntries (fun x => x.source = .hillStart) s
  else if old = .rollbackCatch ∧ new ≠ .rollbackCatch then
    dropEntries (fun x => x.source = .rollback) s
  else s

/-- R144: a change of travel direction at SND. -/
def sandDirection (s : State) : State := dropEntries SandEntry.leading s

/-! Closing a shot (R148 to R151) -/

/-- R149: the consumption of a shot closed now. -/
def chargeOf (s : State) (shot : Shot) : Nat := roundUp (shot.flow * elapsed s.nowMs shot.since) 1000

/-- R149: SAND_EMPTY is raised at a close that leaves the level at 0. -/
def raiseIfEmpty (e : Side) (s : State) : State :=
  if s.snd.level.get e = 0 then raiseFault (.sandEmpty e) s else s

/-- The number of shots the queue holds for the entry a shot was served from, 0 where it has left. -/
def shotsLeft (s : State) (e : Side) (shot : Shot) : Nat :=
  ((s.snd.queue.find? fun x => x.isFor shot.source e && x.arrival = shot.arrival).map
    SandEntry.shots).getD 0

/-- R148 to R150: the open shot closes and is charged; the valve moves to RECOVERY. -/
def closeShot (cause : ShotCause) (e : Side) (s : State) : State :=
  match s.snd.valve.get e with
  | .pouring shot =>
    let charge := chargeOf s shot
    let level := s.snd.level.get e - charge
    let t := (s.setLevel e level).setValve e (.recovery (s.clock + 300000))
    raiseIfEmpty e (sendReport (.sand (.closed cause (elapsed s.nowMs shot.since) charge) e shot.source
      shot.arrival (shotsLeft s e shot) level s.nowMs) t)
  | .closed => s
  | .recovery _ => s

/-- R151: a fill closes the open shot without a charge. The report carries the level as the close leaves it,
before the fill's own level is set (R154, log 49). -/
def closeForFill (e : Side) (s : State) : State :=
  match s.snd.valve.get e with
  | .pouring shot =>
    sendReport (.sand (.closed .fill (elapsed s.nowMs shot.since) 0) e shot.source shot.arrival
      (shotsLeft s e shot) (s.snd.level.get e) s.nowMs) (s.setValve e (.recovery (s.clock + 300000)))
  | .closed => s
  | .recovery _ => s

/-- R151: a fill that is in range. -/
def fillSand (e : Side) (level : Nat) (s : State) : State :=
  let t := (closeForFill e s).setLevel e level
  judgeEnd e (if 0 < level ∧ (t.fault (.sandEmpty e)).active then endFault (.sandEmpty e) t else t)

/-- R150: an open shot whose source does not override an inhibit. -/
def inhibitedShot (s : State) (e : Side) : Bool :=
  match s.snd.valve.get e with
  | .pouring shot => s.sandInhibited && !overridesInhibit shot.source
  | .closed => false
  | .recovery _ => false

/-- R150, R146: a change of the current segment at SND. -/
def sandSegmentChange (s : State) : State :=
  judgeEnds (inSomeOrder ((Side.all.filter (inhibitedShot s)).map (closeShot .inhibit)) s)

/-- R153: an increment lowers the counter; a fall to 0 is delivered to BLD. -/
def lowerSanded (mm : Nat) (s : State) : State :=
  let t := { s with snd.sanded := s.snd.sanded - mm }
  if 0 < s.snd.sanded ∧ t.snd.sanded = 0 then rerun t else t

/-- R43, R146, R153: a distance increment at SND. -/
def sandDistance (mm : Nat) (s : State) : State :=
  inSomeOrder (if Side.all.any (fun e => (grantee s e).isSome) then [lowerSanded mm, judgeEnds]
    else [lowerSanded mm]) s

/-! Leaving ACTIVE and RESTART (R155) -/

/-- R155: the open shot closes at once and is charged, without a report of its own. -/
def abandonShot (e : Side) (s : State) : State :=
  match s.snd.valve.get e with
  | .pouring shot =>
    raiseIfEmpty e ((s.setLevel e (s.snd.level.get e - chargeOf s shot)).setValve e .closed)
  | .closed => s
  | .recovery _ => s

def isPouring (s : State) (e : Side) : Bool :=
  match s.snd.valve.get e with
  | .pouring _ => true
  | .closed => false
  | .recovery _ => false

/-- R155. -/
def leaveSand (s : State) : State :=
  let t := inSomeOrder ((Side.all.filter (isPouring s)).map abandonShot) s
  { t with snd := { t.snd with queue := [], valve := ⟨.closed, .closed⟩, repeatTimer := none } }

/-- R155: RESTART at SND. -/
def restartSand (s : State) : State := { leaveSand s with snd.arrivals := 0 }

end Sys2Proof.Machine
end

