-- ==== Sys2Proof/Machine/Trip.lean ====
section
/-! DEFINITION. The slide trip unit (08: R165 to R174): the filter, the firing, the dump episodes and their
ends. -/

namespace Sys2Proof.Machine

def Mode.braking : Mode → Bool
  | .coast => false
  | .drive => false
  | .brake => true
  | .emergency => true

def State.setStu (s : State) (x : Bogie) (v : BogieStu) : State :=
  { s with stu.bogie := s.stu.bogie.set x v }

def State.setCounter (s : State) (x : Axle) (n : Nat) : State :=
  { s with stu.counter := s.stu.counter.set x n }

/-- Both filter counters of a bogie return to 0. -/
def zeroCounters (x : Bogie) (s : State) : State :=
  (s.setCounter x.axles.1 0).setCounter x.axles.2 0

/-- R173: a TRIP report about a sample of this slip and acceleration (0 and 0 without one). -/
def tripReport (x : Bogie) (axle : Axle) (action : TripAction) (slip accel : Int) (openTime : Time)
    (s : State) : State :=
  sendReport (.trip x axle action slip accel s.ref.speed
    (match action with
      | .dump => (s.stu.bogie.get x).exhausted
      | .closed _ => (s.stu.bogie.get x).exhausted
      | .disabled => (s.stu.bogie.get x).exhausted
      | .none => 0
      | .suppressed => 0) openTime s.nowMs) s

/-- R171, R172: the bogie's record after its episode ends. -/
def BogieStu.closed (r : BogieStu) (cause : CloseCause) : BogieStu :=
  let n := if cause = .limit then min 3 (r.exhausted + 1) else r.exhausted
  { r with
    episode := none, limitTimer := none, exhausted := n
    disabled := r.disabled || (cause = .limit && decide (3 ≤ n)) }

/-- R114, R172: what the closing of a bogie's valve is to BLD, where `floors` names the bogies whose catch
floor has risen. -/
def closingCause (floors : PerBogie AimCause) (x : Bogie) : PerBogie AimCause :=
  if floors.get x = .caught then floors else floors.set x .valveClosed

/-- R172: an open episode ends with this cause; `slip` and `accel` are those of the sample that ended it.
`floors` names the bogies whose catch floor has risen (R114). -/
def closeDump (cause : CloseCause) (slip accel : Int) (floors : PerBogie AimCause) (x : Bogie)
    (s : State) : State :=
  let r := s.stu.bogie.get x
  match r.episode with
  | none => s
  | some ep =>
    let t := rerunWith (closingCause floors x) (zeroCounters x (s.setStu x (r.closed cause)))
    let action := if cause = .limit ∧ 3 ≤ (r.closed cause).exhausted then .disabled
      else TripAction.closed cause
    tripReport x ep.axle action slip accel (s.nowMs - ep.since) t

/-- R166: the arrival is taken for the filter. -/
def takenForFilter (x : Axle) (p : Sample) (s : State) : Bool :=
  s.isActive && s.mode.braking && decide (1000 ≤ s.ref.speed.natAbs)
    && !(s.stu.bogie.get x.bogie).disabled && !s.unwatched x
    && !p.flags.isolated && !p.flags.implausible

/-- R167: the sample is a trip candidate. -/
def isCandidate (x : Axle) (p : Sample) (s : State) : Bool :=
  let cfg := s.sfc.cfg.trip.get x.bogie
  let byDecel := decide (p.a * s.travel.sign ≤ -(cfg.decel : Int))
  let bySlip := decide ((cfg.slip : Int) ≤ s.brakeSlip p.v)
  match cfg.source with
  | .decel => byDecel
  | .slip => bySlip
  | .both => byDecel || bySlip

/-- R168, AUTO_DUMP: the dump valve opens for the axle. -/
def openDump (x : Axle) (p : Sample) (s : State) : State :=
  let r := s.stu.bogie.get x.bogie
  let t := s.setStu x.bogie
    { r with episode := some ⟨x, s.nowMs⟩, limitTimer := s.timer (s.sfc.cfg.trip.get x.bogie).limit }
  let t := zeroCounters x.bogie (rerun (jumpOutput x.bogie 0 t))
  tripReport x.bogie x .dump (s.brakeSlip p.v) p.a 0 t

/-- R169: the firing is suppressed, and reported once per application. -/
def suppressTrip (x : Axle) (p : Sample) (s : State) : State :=
  let r := s.stu.bogie.get x.bogie
  if r.suppressed then s
  else tripReport x.bogie x .suppressed (s.brakeSlip p.v) p.a 0
    (s.setStu x.bogie { r with suppressed := true })

/-- R168, R169: the filter counter of an axle has reached N. -/
def fireTrip (x : Axle) (p : Sample) (s : State) : State :=
  if 0 < s.floor x.bogie then suppressTrip x p s
  else match (s.sfc.cfg.trip.get x.bogie).mode with
    | .autoDump => openDump x p s
    | .reportOnly => tripReport x.bogie x .none (s.brakeSlip p.v) p.a 0 s

/-- R166 to R168: an arrival on a bogie without an open episode. -/
def filterArrival (x : Axle) (p : Sample) (s : State) : State :=
  if takenForFilter x p s && isCandidate x p s then
    let n := s.stu.counter.get x
    let limit := (s.sfc.cfg.trip.get x.bogie).filter
    if limit ≤ n then s
    else if n + 1 = limit then fireTrip x p (s.setCounter x (n + 1))
    else s.setCounter x (n + 1)
  else s.setCounter x 0

/-- R170: an arrival of the triggering axle while its episode is open. -/
def episodeArrival (x : Axle) (p : Sample) (s : State) : State :=
  let slip := s.brakeSlip p.v
  if s.unwatched x ∨ p.flags.isolated then closeDump .axleLost slip p.a allPlain x.bogie s
  else if p.flags.implausible then s
  else if slip < s.adhesion.creep then closeDump .recovered slip p.a allPlain x.bogie s
  else s

/-- R166: an axle sample arrives at STU. -/
def tripArrival (x : Axle) (p : Sample) (s : State) : State :=
  match (s.stu.bogie.get x.bogie).episode with
  | none => filterArrival x p s
  | some ep => if ep.axle = x then episodeArrival x p s else s

/-- R165: the values at the beginning and at the end of an application. -/
def freshApplication (s : State) : State :=
  { s with stu := {
      counter := PerAxle.of fun _ => 0
      bogie := PerBogie.of fun x =>
        { s.stu.bogie.get x with exhausted := 0, disabled := false, suppressed := false } } }

/-- R165, R172: every open episode of the bogies given ends, in any order. -/
def closeDumps (cause : CloseCause) (floors : PerBogie AimCause) (which : List Bogie) (s : State) : State :=
  inSomeOrder ((which.filter s.dumpOpen).map (closeDump cause 0 0 floors)) s

/-- R165: a change of demand mode at STU. The change that ends an application returns the exhaustion counts
to 0, so the reports of the episodes it closes carry 0, the count after the event (R172, R173). -/
def tripModeChange (old new : Mode) (s : State) : State :=
  if s.isActive then
    if old.braking && !new.braking then closeDumps .mode allPlain Bogie.all (freshApplication s)
    else if !old.braking && new.braking then freshApplication s
    else s
  else s

/-- R169: floors that have risen from 0 to above 0 close the episodes open on their bogies; `floors`
names those that a catch floor has raised. -/
def tripFloorRise (rose : PerBogie Bool) (floors : PerBogie AimCause) (s : State) : State :=
  closeDumps .floor floors (Bogie.all.filter rose.get) s

/-- R172, R174: on leaving ACTIVE and at RESTART every valve closes without a report; the closing is
delivered to BLD. -/
def leaveTrip (s : State) : State :=
  let t := { s with stu := Stu.powerOn }
  if Bogie.all.any s.dumpOpen then rerun t else t

end Sys2Proof.Machine
end

