-- ==== Sys2Proof/Machine/Hill.lean ====
section
/-! DEFINITION. The hill hold unit (06: R119 to R136): the hold, take-up, release, and the rollback watch
with its catch. -/

namespace Sys2Proof.Machine

/-! Grade force and hold levels -/

/-- R120: the grade force of a grade in ‰. -/
def gradeForce (mass : Nat) (grade : Int) : Int := roundNearest (mass * 981 * grade) 100000

/-- R120: the grade magnitude. -/
def gradeMagnitude (s : State) : Nat :=
  match s.headSegment with
  | some g => g.grade.natAbs
  | none => s.vehicle.gDef

/-- R120: the travel-projected grade. -/
def gradeTravel (s : State) : Int :=
  match s.headSegment with
  | some g => if s.rlq.dir = some s.travel then g.grade else -g.grade
  | none => s.vehicle.gDef

/-- R121: the hold force. -/
def holdForceOf (s : State) : Nat :=
  roundUp ((gradeForce s.vehicle.mass (gradeMagnitude s)).toNat * (1000 + s.sfc.cfg.hold.margin)) 1000

/-- R121: the hold force divided by axle load; the trailer takes what the roundings leave. -/
def loadShares (v : Vehicle) (force : Nat) : PerBogie Nat :=
  let a := roundDown (force * v.load.a) v.mass
  let b := roundDown (force * v.load.b) v.mass
  ⟨a, force - a - b, b⟩

/-- R121: the hold level of a bogie whose share is `share`. -/
def holdLevel (s : State) (share : Nat) (x : Bogie) : Nat :=
  min (s.blend.pMax.get x)
    (max s.sfc.cfg.hold.pMin (roundHalfUp (share * 100) (s.blend.k.get x)))

/-- R121: the hold force and the three levels, computed and kept. -/
def computeHold (s : State) : State :=
  let force := holdForceOf s
  let shares := loadShares s.vehicle force
  { s with hhu := { s.hhu with
      holdForce := force, level := PerBogie.of fun x => holdLevel s (shares.get x) x } }

/-- R133: the catch level of a bogie. -/
def catchLevel (s : State) (x : Bogie) : Nat :=
  roundDown (s.blend.pMax.get x * s.sfc.cfg.hold.catchShare) 1000

/-! Deliveries and reports (R119, R135) -/

/-- R119: what HHU delivers when it has moved from `old` to `s`: the floors to BLD (at `force` even where
they read the same, R128) and to STU, the hold state to BLD and to SND, and what else the event passes on,
in any order. `caught` says that the floors are catch floors (R114). -/
def hillPublish (old : State) (caught force : Bool) (also : List (State → State)) (s : State) : State :=
  let rose := PerBogie.of fun x => decide (old.floor x = 0 ∧ 0 < s.floor x)
  let causes := PerBogie.of fun x =>
    if caught ∧ old.floor x < s.floor x then AimCause.caught else .plain
  let catchTurn := decide (old.hhu.state = .rollbackCatch) != decide (s.hhu.state = .rollbackCatch)
  inSomeOrder
    ((if force || catchTurn || decide (old.floors ≠ s.floors) then [rerunWith causes] else [])
      ++ (if Bogie.all.any rose.get then [tripFloorRise rose causes] else [])
      ++ (if old.hhu.state ≠ s.hhu.state then [sandHoldChange old.hhu.state s.hhu.state] else [])
      ++ also) s

/-- R135: the HOLD STATE report of the state reached, from `left`. -/
def holdReport (left : Hold) (reason : HoldReason) (s : State) : Report :=
  .holdState s.hhu.state left reason s.floors s.hhu.holdForce s.hhu.relThreshold s.hhu.dAch s.nowMs

/-- A change of hold state with its deliveries and its HOLD STATE report. -/
def moveHold (reason : HoldReason) (also : List (State → State)) (next : Hhu) (s : State) : State :=
  let t := { s with hhu := next }
  hillPublish s false false (sendReport (holdReport s.hhu.state reason t) :: also) t

/-! Take-up and hold (R123, R124) -/

/-- R124: the take-up condition. -/
def takeUpCondition (s : State) : Bool :=
  s.mode = .drive && decide (0 < s.bld.demand.effort) && s.hhu.rearm

/-- R124: entry to TAKE_UP from HOLDING. -/
def enterTakeUp (s : State) : State :=
  moveHold .takeUp
    (if (s.sfc.cfg.hold.sandGrade : Int) ≤ gradeTravel s then [requestLeading .hillStart 2] else [])
    { s.hhu with
      state := .takeUp, takeUp := s.timer s.sfc.cfg.hold.takeUp, confirm := .stopped, blocked := false } s

/-- R124: the take-up condition is judged in HOLDING. -/
def judgeTakeUp (s : State) : State :=
  if s.hhu.state = .holding ∧ takeUpCondition s then enterTakeUp s else s

/-- R123: the floors and levels HOLDING is entered with, by the state left. -/
def holdingFloors (s : State) : Hhu :=
  match s.hhu.state with
  | .off => let t := (computeHold s).hhu; { t with floor := t.level }
  | .releasing => { s.hhu with floor := s.hhu.level }
  | .rollbackCatch => { s.hhu with level := s.hhu.floor }
  | .holding => s.hhu
  | .takeUp => s.hhu

/-- R123: entry to HOLDING; the take-up condition is then judged at once. -/
def enterHolding (reason : HoldReason) (s : State) : State :=
  judgeTakeUp (moveHold reason []
    { holdingFloors s with
      state := .holding
      ramp := ⟨none, none, none⟩
      acc := PerAxle.of fun _ => 0
      confirm := .stopped
      takeUp := none
      blocked := false } s)

/-! Drive judgement and release (R125 to R129) -/

/-- R125: the achieved drive force. -/
def achievedDrive (s : State) : Nat :=
  let part := fun (x : Motor) =>
    if (s.fault (.edFeedback x)).active then 0 else (s.reading (.force x)).toNat
  part .a + part .b

/-- R125, R129: the grade force the drive must stand against. -/
def releaseBase (s : State) : Nat := (gradeForce s.vehicle.mass (gradeTravel s)).toNat

/-- R125: the release threshold. -/
def releaseThreshold (s : State) : Nat := releaseBase s + s.sfc.cfg.hold.relMargin

def anyPressureLatched (s : State) : Bool := Bogie.all.any fun x => (s.fault (.pressure x)).latched

/-- R128: the last floor has reached 0; HHU enters OFF. -/
def enterReleased (s : State) : State :=
  let t := { s with hhu := { s.hhu with
    state := .off, floor := ⟨0, 0, 0⟩, ramp := ⟨none, none, none⟩ } }
  hillPublish s false true [sendReport (holdReport s.hhu.state .released t)] t

/-- No release ramp is in flight. -/
def rampsDone (s : State) : Bool := Bogie.all.all fun x => (s.hhu.ramp.get x).isNone

/-- R128: entry to RELEASING; a floor of 0 completes at the entry. -/
def enterReleasing (s : State) : State :=
  let ramp := PerBogie.of fun x =>
    if s.hhu.floor.get x = 0 then none else some (FloorRamp.mk (s.hhu.floor.get x) s.nowMs)
  let next := { s.hhu with
    state := .releasing, ramp := ramp, takeUp := none, confirm := .stopped, blocked := false }
  let t := { s with hhu := next }
  let u := hillPublish s false true [sendReport (holdReport s.hhu.state .release t)] t
  if rampsDone u then enterReleased u else u

/-- R129: the drive has fallen; HHU returns to TAKE_UP. -/
def returnToTakeUp (s : State) : State :=
  moveHold .driveFell []
    { s.hhu with
      state := .takeUp
      floor := s.hhu.level
      ramp := ⟨none, none, none⟩
      takeUp := s.timer s.sfc.cfg.hold.takeUp
      confirm := .stopped } s

/-- R125: how the release confirm responds in TAKE_UP. -/
def confirmResponse (s : State) (enough : Bool) : Confirm :=
  if enough then (match s.hhu.confirm with
    | .stopped => .running (s.clock + s.sfc.cfg.hold.confirm * 1000)
    | .running due => .running due
    | .complete => .complete)
  else .stopped

/-- R125, R126, R129: the drive is judged at a published force reading. -/
def judgeDrive (s : State) : State :=
  let d := achievedDrive s
  let f := releaseThreshold s
  let noted := { s with hhu := { s.hhu with dAch := d, relThreshold := f } }
  match s.hhu.state with
  | .takeUp =>
    let c := confirmResponse s (f ≤ d)
    let t := { noted with hhu.confirm := c }
    if c = .complete ∧ !anyPressureLatched t then enterReleasing t else t
  | .releasing =>
    if d < releaseBase s then returnToTakeUp noted else hillPublish noted false true [] noted
  | .off => s
  | .holding => s
  | .rollbackCatch => s

/-- R124, R125: a published reading of channel 3 or 4 at HHU: in HOLDING the take-up condition is judged,
in TAKE_UP and RELEASING the drive (log 21). -/
def hillReading (s : State) : State :=
  match s.hhu.state with
  | .holding => judgeTakeUp s
  | .takeUp => judgeDrive s
  | .releasing => judgeDrive s
  | .off => s
  | .rollbackCatch => s

/-- R126: the release confirm expires. -/
def confirmComplete (s : State) : State :=
  let t := { s with hhu.confirm := .complete }
  if !anyPressureLatched t then enterReleasing t
  else if t.hhu.blocked then t
  else sendReport (holdReport .takeUp .releaseBlocked t) { t with hhu.blocked := true }

/-- R127: the take-up timer expires. -/
def takeUpTimeout (s : State) : State := enterHolding .holdTimeout { s with hhu.rearm := false }

/-- R128: a bogie's release ramp completes. -/
def releaseRampDone (x : Bogie) (s : State) : State :=
  let t := { s with hhu := { s.hhu with floor := s.hhu.floor.set x 0, ramp := s.hhu.ramp.set x none } }
  if rampsDone t then enterReleased t else hillPublish s false true [] t

/-! Events from other blocks -/

/-- R123, R124, R127, R133: a change of demand mode at HHU. -/
def hillModeChange (old new : Mode) (s : State) : State :=
  if s.isActive then
    if old = .drive ∧ new ≠ .drive then
      let t := { s with hhu.rearm := true }
      match s.hhu.state with
      | .takeUp => enterHolding .driveEnded t
      | .releasing => enterHolding .driveEnded t
      | .off => if s.ref.active = .standstill then enterHolding .driveEnded t else t
      | .holding => judgeTakeUp t
      | .rollbackCatch => t
    else judgeTakeUp s
  else s

/-- R123, R134: REF enters STANDSTILL. -/
def hillStandstill (s : State) : State :=
  if s.isActive then
    match s.hhu.state with
    | .off => enterHolding .standstill s
    | .rollbackCatch => enterHolding .catchEnded s
    | .holding => s
    | .takeUp => s
    | .releasing => s
  else s

/-- R93, R131: a change of travel direction at HHU. -/
def hillDirection (s : State) : State := { s with hhu.acc := PerAxle.of fun _ => 0 }

/-- R131: an axle has stopped being watched (log 23). -/
def hillUnwatch (x : Axle) (s : State) : State := { s with hhu.acc := s.hhu.acc.set x 0 }

/-- R136: START at HHU. -/
def startHill (s : State) : State := enterHolding .start { s with hhu.rearm := true }

/-- R136, Table 6-5: leaving ACTIVE at HHU, without a report. -/
def leaveHill (s : State) : State :=
  let t := { s with hhu := { s.hhu with
    state := .off, floor := ⟨0, 0, 0⟩, ramp := ⟨none, none, none⟩, acc := PerAxle.of fun _ => 0
    confirm := .stopped, takeUp := none, blocked := false, rearm := true } }
  hillPublish s false false [] t

/-- R136, Table 6-5: RESTART at HHU. -/
def restartHill (s : State) : State := { s with hhu := Hhu.powerOn }

/-! Rollback watch and catch (R131 to R134) -/

/-- R131: the axle is watched. -/
def watched (s : State) (x : Axle) : Bool := !s.unwatched x && !(s.wsc.axle.get x).isolated

/-- R131: the watch is active. -/
def watchActive (s : State) : Bool :=
  match s.hhu.state with
  | .holding => true
  | .takeUp => true
  | .releasing => true
  | .off => s.ref.speed.natAbs < 1500
  | .rollbackCatch => false

/-- R131: the distance of a sample in µm. -/
def sampleDistance (p : Sample) : Nat :=
  match p.scale with
  | .wheel circ teeth => roundDown (p.net.natAbs * circ) (4 * teeth)
  | .ground e => p.net.natAbs * e

/-- R131: the accumulator after a sample. -/
def accumulate (s : State) (p : Sample) (acc : Nat) : Nat :=
  if p.net * s.travel.sign < 0 then min 1000000 (acc + sampleDistance p)
  else if 0 < p.net * s.travel.sign then acc - sampleDistance p
  else acc

/-- R132: the watched axles whose accumulators exceed the threshold. -/
def exceeding (s : State) : List Axle :=
  Axle.all.filter fun x =>
    watched s x && decide (s.sfc.cfg.hold.rollback * 1000 < s.hhu.acc.get x)

/-- R132: rollback is detected. -/
def rollbackDetected (s : State) : Bool :=
  2 ≤ (exceeding s).length
    || ((Axle.all.filter (watched s)).length = 1 && (exceeding s).length = 1)

/-- R133: entry to ROLLBACK_CATCH. -/
def enterCatch (s : State) : State :=
  let c := computeHold s
  let floors := PerBogie.of fun x => max (s.floor x) (max (c.hhu.level.get x) (catchLevel s x))
  let t := { s with hhu := { c.hhu with
    state := .rollbackCatch
    floor := floors
    ramp := ⟨none, none, none⟩
    confirm := .stopped
    takeUp := none
    caughtAtRest := decide (s.ref.active = .standstill) } }
  let side := s.travel.trailing
  let report := Report.rollback s.hhu.state ((exceeding s).map fun x => (x, s.hhu.acc.get x)) floors side
    s.ref.speed s.nowMs
  hillPublish s true false [requestRollback side, sendReport report] t

/-- R134: every watched axle's latest sample carries STANDSTILL. -/
def watchedAtRest (s : State) : Bool :=
  (Axle.all.filter (watched s)).all fun x =>
    ((s.wsc.axle.get x).latest.map fun p => p.flags.standstill).getD false

/-- R131, R132: an arrival while the watch may be active. -/
def watchArrival (x : Axle) (p : Sample) (s : State) : State :=
  if watchActive s then
    let n := accumulate s p (s.hhu.acc.get x)
    let t := { s with hhu.acc := s.hhu.acc.set x n }
    if n ≠ s.hhu.acc.get x ∧ rollbackDetected t then enterCatch t else t
  else { s with hhu.acc := s.hhu.acc.set x 0 }

/-- R131, R134: an axle sample arrives at HHU. -/
def hillArrival (x : Axle) (p : Sample) (s : State) : State :=
  if !s.isActive ∨ p.flags.isolated ∨ p.flags.implausible then s
  else if s.hhu.state = .rollbackCatch then
    if s.hhu.caughtAtRest ∧ s.ref.active = .standstill ∧ watchedAtRest s then
      enterHolding .catchEnded s
    else s
  else if watched s x then watchArrival x p s
  else s

end Sys2Proof.Machine
end

