-- ==== Sys2Proof/Machine/Adhere.lean ====
section
/-! DEFINITION. The adhesion unit (03: R44 to R73): slip and acceleration excess, the axle states, the force
limits with their ramp, the low-adhesion memory, and ADH's taking of the other blocks' events. -/

namespace Sys2Proof.Machine

def State.setAxle (s : State) (x : Axle) (v : AxleAdh) : State :=
  { s with adh.axle := s.adh.axle.set x v }

def State.setBogie (s : State) (x : Bogie) (v : BogieAdh) : State :=
  { s with adh.bogie := s.adh.bogie.set x v }

def State.limit (s : State) (x : Bogie) : Nat := (s.adh.bogie.get x).limit

/-- R44: where a limit has changed since `old`, BLD takes it. One re-run stands for one of each changed
limit: each finds all the new limits published, so the later ones change nothing. -/
def deliverLimits (old s : State) : State :=
  if Bogie.all.any fun x => decide (old.limit x ≠ s.limit x) then rerun s else s

/-- R56: the AXLE STATE report of an axle. -/
def axleReport (x : Axle) (cause : AxleCause) (left : AdhState) (slip : Int) (s : State) : State :=
  let r := s.adh.bogie.get x.bogie
  sendReport (.axleState (.axle x) cause (s.adhState x) left slip r.limit r.low s.nowMs) s

/-- R56: the LOW_ADHESION report of a bogie; `state` is the state it carries (log 27). -/
def lowReport (x : Bogie) (cause : AxleCause) (state : AdhState) (slip : Int) (s : State) : State :=
  let r := s.adh.bogie.get x
  sendReport (.axleState (.bogie x) cause state state slip r.limit r.low s.nowMs) s

/-! Bogies without a supervised axle (R65 to R67) -/

/-- R65, R66: both axles of the bogie are ISOLATED or FAULT. -/
def unsupervised (s : State) (x : Bogie) : Bool := s.unwatched x.axles.1 && s.unwatched x.axles.2

/-- R68: the LOST floor holds the bogie's limit. -/
def lostHold (s : State) (x : Bogie) : Bool :=
  decide (s.ref.active = .lost) && x.motor?.isSome

/-- R65, R66: the limit of an unsupervised bogie at the event that makes it so. -/
def unsupLimit (s : State) (x : Bogie) (limit : Nat) : Nat :=
  match x.motor? with
  | some _ => min limit s.adhesion.unsup
  | none => s.adhesion.unsup

/-- R65, R66: the hold of an unsupervised bogie. The ramp residual is kept, though the limit may come to its
ceiling here (R61, log 43). -/
def applyHold (x : Bogie) (s : State) : State :=
  if s.isActive ∧ unsupervised s x then
    s.setBogie x { s.adh.bogie.get x with limit := unsupLimit s x (s.limit x) }
  else s

/-- R65, R66, with the precedence of R68. -/
def holdUnsupervised (x : Bogie) (s : State) : State := if lostHold s x then s else applyHold x s

/-! Isolation, faults and restores (R53) -/

/-- R53: an axle moves to ISOLATED or FAULT; `act` is what the same event then does to its bogie (R45,
step 3). The report carries the limit after the event (R56). -/
def withdrawAxle (x : Axle) (state : AdhState) (cause : AxleCause) (act : State → State) (s : State) :
    State :=
  let t := act (holdUnsupervised x.bogie (s.setAxle x ⟨state, 0⟩))
  hillUnwatch x (deliverLimits s (axleReport x cause (s.adhState x) 0 t))

/-- R53: AXLE ISOLATE at ADH. -/
def isolateAxle (x : Axle) (s : State) : State := withdrawAxle x .isolated .isolated id s

/-- R53, R67: AXLE RESTORE at ADH. -/
def restoreAxle (x : Axle) (s : State) : State :=
  axleReport x .restored (s.adhState x) 0 (s.setAxle x ⟨.grip, 0⟩)

/-! Judgement (R46 to R52) -/

/-- Table 3-3. -/
def modeJudges (m : Mode) (x : Axle) : Bool :=
  match m with
  | .coast => false
  | .drive => x.isMotor
  | .brake => true
  | .emergency => true

/-- R46. -/
def eligible (x : Axle) (p : Sample) (s : State) : Bool :=
  s.isActive && decide (s.ref.active ≠ .lost) && !s.unwatched x
    && !p.flags.isolated && !p.flags.implausible && modeJudges s.mode x

/-- R47: the slip in the sense of the effort. -/
def slipOf (s : State) (v : Int) : Int := if s.mode = .drive then s.driveSlip v else s.brakeSlip v

/-- R48. -/
def accelExcess (s : State) (a : Int) : Bool :=
  let d := s.travel.sign
  let excess := if s.mode = .drive then a * d - s.ref.accel * d else s.ref.accel * d - a * d
  decide ((s.adhesion.accelExcess : Int) ≤ excess)

/-- R50 to R52: the axle's record after a judged sample of slip `slip`; `severe` is σ ≥ σ_s or acceleration
excess, `restored` that the limit is 1000 and no axle of the bogie is in SLIP. -/
def judgedAxle (creep : Nat) (slip : Int) (severe restored : Bool) (r : AxleAdh) : AxleAdh :=
  match r.state with
  | .grip =>
    if severe then ⟨.slip, 0⟩ else if (creep : Int) ≤ slip then { r with state := .creep } else r
  | .creep =>
    if severe then ⟨.slip, 0⟩ else if slip < creep - 10 then { r with state := .grip } else r
  | .slip =>
    if slip < creep then (if 2 ≤ r.recover + 1 then ⟨.recover, 0⟩ else ⟨.slip, r.recover + 1⟩)
    else ⟨.slip, 0⟩
  | .recover => if severe then ⟨.slip, 0⟩ else if restored then ⟨.grip, 0⟩ else r
  | .isolated => r
  | .fault => r

/-- An axle of the bogie is in one of the states given. -/
def anyAxleIn (s : State) (x : Bogie) (states : List AdhState) : Bool :=
  states.contains (s.adhState x.axles.1) || states.contains (s.adhState x.axles.2)

/-- R45, step 2: the axle's record after the arrival. -/
def judgeAxle (x : Axle) (p : Sample) (s : State) : AxleAdh :=
  let slip := slipOf s p.v
  judgedAxle s.adhesion.creep slip
    (decide ((s.adhesion.slip : Int) ≤ slip) || accelExcess s p.a)
    (decide (s.limit x.bogie = 1000) && !anyAxleIn s x.bogie [.slip])
    (s.adh.axle.get x)

/-! Limit actions (R58 to R61) -/

/-- R58: the cut on entry. -/
def cutLimit (cfg : Adhesion) (limit : Nat) : Nat := max cfg.floor (roundDown (limit * cfg.cut) 1000)

/-- R59: the continued cut. -/
def stepCutLimit (cfg : Adhesion) (limit : Nat) : Nat := max cfg.floor (limit - cfg.stepCut)

/-- R60: the ramp ceiling. -/
def rampCeiling (s : State) (x : Bogie) : Nat :=
  if unsupervised s x ∧ x.motor?.isSome then s.adhesion.unsup else 1000

/-- R60: no hold of R66 or R68 and no axle in SLIP or CREEP keeps the ramp from running. -/
def rampRuns (s : State) (x : Bogie) : Bool :=
  !anyAxleIn s x [.slip, .creep] && !lostHold s x
    && !(unsupervised s x && x.motor?.isNone) && decide (s.limit x < rampCeiling s x)

/-- R61: the restore rate in ‰/s. -/
def rampRate (s : State) (x : Bogie) : Nat :=
  if (s.adh.bogie.get x).low then roundDown s.adhesion.rate 2 else s.adhesion.rate

/-- R60, R61: one step of the ramp at a sample's end time. -/
def rampStep (s : State) (x : Bogie) (endTime : Time) (r : BogieAdh) : BogieAdh :=
  let ms := match r.mark with
    | none => 0
    | some m => elapsed endTime m / 1000
  let mark := match r.mark with
    | none => endTime
    | some m => m + BitVec.ofNat 32 (ms * 1000)
  let sum := rampRate s x * ms + r.residual
  let limit := r.limit + sum / 1000
  if rampCeiling s x ≤ limit then { r with limit := rampCeiling s x, residual := 0, mark := some mark }
  else { r with limit := limit, residual := sum % 1000, mark := some mark }

/-- R60: an arrival at which the ramp does not run moves the mark; a limit at its ceiling keeps the residual
at 0 (R61). -/
def rampIdle (s : State) (x : Bogie) (endTime : Time) (r : BogieAdh) : BogieAdh :=
  { r with
    mark := some endTime
    residual := if rampCeiling s x ≤ r.limit then 0 else r.residual }

/-- R45, step 3, after the transition from `before` to the axle's record in `s`; `judged` says that the
sample was judged. -/
def limitAction (x : Axle) (endTime : Time) (before : AdhState) (judged : Bool) (s : State) :
    BogieAdh :=
  let r := s.adh.bogie.get x.bogie
  let cut := fun limit => { r with limit := limit, residual := 0, mark := some endTime }
  if judged ∧ s.adhState x = .slip then
    (if before = .slip then cut (stepCutLimit s.adhesion r.limit)
     else cut (cutLimit s.adhesion r.limit))
  else if rampRuns s x.bogie then rampStep s x.bogie endTime r
  else rampIdle s x.bogie endTime r

/-! Entry to SLIP (R55, R62, R63) -/

/-- R62: the list after a value is appended; at most three are kept. -/
def appendSlip (now : Time) (l : List Time) : List Time := (l ++ [now]).drop (l.length + 1 - 3)

/-- R63: the list holds three values spanning 10,000 ms or less. -/
def crowded (l : List Time) : Bool :=
  match l with
  | [a, _, c] => elapsed c a ≤ 10000
  | _ => false

/-- R55, steps 1 to 3, and the LOW_ADHESION SET report: whether the flag was set, and the state after. -/
def completeSlip (x : Axle) (left : AdhState) (slip : Int) (s : State) : Bool × State :=
  let r := s.adh.bogie.get x.bogie
  let slips := appendSlip s.nowMs r.slips
  let sets := crowded slips && !r.low
  let t := s.setBogie x.bogie
    { r with slips := slips, low := r.low || sets, lowTimer := s.timer 30000 }
  let t := axleReport x .slipEntry left slip t
  (sets, if sets then lowReport x.bogie .lowSet .slip slip t else t)

/-- R70: the shots of the sand requests of an entry, the 1-shot request first. -/
def slipShots (x : Axle) (sets : Bool) : List Nat :=
  (if x.isMotor then [1] else []) ++ if sets then [3] else []

/-- R70: the sand requests of an entry. -/
def slipSand (x : Axle) (sets : Bool) (s : State) : State :=
  requestLeadingAll .adhesion (slipShots x sets) s

/-- R45, steps 2 to 5, in ACTIVE. -/
def judgeArrival (x : Axle) (p : Sample) (judged : Bool) (s : State) : State :=
  let before := s.adhState x
  let t := if judged then s.setAxle x (judgeAxle x p s) else s
  let t := t.setBogie x.bogie (limitAction x p.endTime before judged t)
  if before ≠ .slip ∧ t.adhState x = .slip then
    let c := completeSlip x before (slipOf s p.v) t
    inSomeOrder [deliverLimits s, slipSand x c.1] c.2
  else
    deliverLimits s
      (if before = .recover ∧ t.adhState x = .grip then axleReport x .recovered .recover (slipOf s p.v) t
       else t)

/-- R45, step 3, at an arrival whose sample is not judged, in ACTIVE. -/
def unjudgedLimit (x : Axle) (p : Sample) (s : State) : State :=
  if s.isActive then s.setBogie x.bogie (limitAction x p.endTime (s.adhState x) false s) else s

/-- R45, R53: the arrival delivers the raise of the channel's SENSOR fault. An axle in FAULT already is moved
and reported again (log 42). The ramp may run at this same arrival where the axle leaves SLIP or CREEP: step 3
of R45 follows the change of step 1, though R53 also reads as a ramp freed at the next arrival (log 52). -/
def faultAxle (x : Axle) (p : Sample) (s : State) : State :=
  withdrawAxle x .fault .fault (unjudgedLimit x p) s

/-- R45: an axle sample arrives at ADH; `raised` says that it delivers the raise of the SENSOR fault. An
ISOLATED axle stays so (R53). -/
def adhArrival (x : Axle) (p : Sample) (raised : Bool) (s : State) : State :=
  if raised ∧ s.adhState x ≠ .isolated then faultAxle x p s
  else if s.isActive then judgeArrival x p (!raised && eligible x p s) s
  else s

/-! Events from other blocks -/

/-- Every axle not in ISOLATED or FAULT returns to GRIP with its recover count at 0. -/
def Adh.allGrip (a : Adh) : PerAxle AxleAdh :=
  PerAxle.of fun x =>
    let r := a.axle.get x
    if r.state = .isolated ∨ r.state = .fault then { r with recover := 0 } else ⟨.grip, 0⟩

/-- R54: a change of demand mode turns the sense of the effort or ends it. -/
def effortTurns (old new : Mode) : Bool :=
  decide (new = .coast) || (decide (old = .drive) && new.braking) || (old.braking && decide (new = .drive))

/-- R54: a change of demand mode at ADH. -/
def adhModeChange (old new : Mode) (s : State) : State :=
  if s.isActive ∧ effortTurns old new then { s with adh.axle := s.adh.allGrip } else s

/-- R68: REF's active mode becomes LOST. -/
def adhLost (s : State) : State :=
  if s.isActive then
    let low := fun (x : Bogie) => { s.adh.bogie.get x with limit := s.adhesion.floor, residual := 0 }
    deliverLimits s { s with adh := {
      axle := s.adh.allGrip, bogie := ⟨low .a, s.adh.bogie.t, low .b⟩ } }
  else s

/-- R64: a bogie's low-adhesion timer expires. -/
def lowExpiry (x : Bogie) (s : State) : State :=
  let r := s.adh.bogie.get x
  if r.low then lowReport x .lowCleared .grip 0 (s.setBogie x { r with low := false, lowTimer := none })
  else s.setBogie x { r with lowTimer := none }

/-- R72: START at ADH. REF is in STANDSTILL there (R25), so no LOST floor stands against the holds. -/
def startAdh (s : State) : State :=
  let t := { s with adh.bogie := PerBogie.of fun _ => { BogieAdh.powerOn with limit := 1000 } }
  deliverLimits s (Bogie.all.foldl (fun u x => applyHold x u) t)

/-- R73: leaving ACTIVE at ADH. -/
def leaveAdh (s : State) : State :=
  deliverLimits s { s with adh := { axle := s.adh.allGrip, bogie := Adh.powerOn.bogie } }

/-- R71: RESTART at ADH. -/
def restartAdh (s : State) : State := deliverLimits s { s with adh := Adh.powerOn }

end Sys2Proof.Machine
end

