-- ==== Sys2Proof/Machine/Route.lean ====
section
/-! DEFINITION. The route look-ahead queue (04: R74 to R90): the distance increments, the three route
requests, and the flush on a change of travel direction. -/

namespace Sys2Proof.Machine

/-- R89: a change of the current segment is delivered to BLD and to SND. -/
def segmentChange (s : State) : State := inSomeOrder [rerun, sandSegmentChange] s

/-- What a walk along the queue leaves. -/
structure Walk where
  passed : List (Nat × Nat)
  queue : List Segment
  pos : Nat

/-- R79: the retirement loop from a position: the id of each retired segment with the number of segments
left after it, the queue left, and the position in it. -/
def retire : List Segment → Nat → Walk
  | [], p => ⟨[], [], p⟩
  | g :: rest, p =>
    if g.length * 1000 ≤ p then
      let w := retire rest (p - g.length * 1000)
      ⟨(g.id, rest.length) :: w.passed, w.queue, w.pos⟩
    else ⟨[], g :: rest, p⟩

/-- The queue empties: BEYOND-ROUTE (R76, R80, R86). -/
def State.beyondRoute (s : State) : State := { s with rlq := Rlq.powerOn }

/-- R83: the SEGMENT PASSED reports of a walk, in the order the segments stood. -/
def reportPassed (passed : List (Nat × Nat)) (s : State) : State :=
  passed.foldl
    (fun t g => sendReport (.segmentPassed g.1 g.2 s.rlq.uncertain s.nowMs) t) s

/-- R79, R80: the position moves to `p` and segments are retired. The report of the last segment carries
POSITION UNCERTAIN as it stood at the retirement, before R80 clears it (R83, log 47). -/
def advance (p : Nat) (s : State) : State :=
  let w := retire s.rlq.queue p
  let t := reportPassed w.passed s
  if w.queue = [] then
    segmentChange (sendReport (.routeEmpty .passed 1 s.nowMs) t.beyondRoute)
  else
    let t := { t with rlq := { t.rlq with queue := w.queue, pos := some w.pos } }
    if w.passed = [] then t else segmentChange t

/-- R79 to R82: a distance increment of `m` mm at RLQ, positive in the travel direction. -/
def routeDistance (m : Int) (s : State) : State :=
  if s.rlq.queue = [] then s
  else
    let p : Int := (s.rlq.pos.getD 0 : Nat) + m
    if p < 0 then { s with rlq := { s.rlq with pos := some 0, uncertain := true } }
    else advance p.toNat s

/-- R86, R87: the queue is emptied; nothing happens where it is empty. -/
def emptyRoute (reason : RouteReason) (s : State) : State :=
  if s.rlq.queue = [] then s
  else segmentChange (sendReport (.routeEmpty reason s.rlq.queue.length s.nowMs) s.beyondRoute)

/-- R87: a change of travel direction at RLQ. -/
def routeDirection (s : State) : State := emptyRoute .direction s

/-! SEGMENT APPEND (R77, R78) -/

/-- R77, check 2: the index of the first field out of range, with record numbers from `k`. -/
def badSegmentField : Nat → List SegmentWord → Option Nat
  | _, [] => none
  | k, r :: rest =>
    match firstFailing (segmentChecks r) with
    | some f => some (1 + 6 * k + f)
    | none => badSegmentField (k + 1) rest

/-- R77, check 3: the first id in message order that is among `known` or was in the message before. -/
def duplicateId : List Nat → List SegmentWord → Option Nat
  | _, [] => none
  | known, r :: rest =>
    if known.contains r.id.toNat then some r.id.toNat else duplicateId (r.id.toNat :: known) rest

/-- R77: the result of a SEGMENT APPEND. -/
def appendResult (count : Byte) (records : List SegmentWord) (s : State) : Result :=
  if count.toNat = 0 ∨ 4 < count.toNat then .refusedRange 1
  else match badSegmentField 0 records with
    | some i => .refusedRange i
    | none =>
      match duplicateId (s.rlq.queue.map Segment.id) records with
      | some id => .refusedDuplicate id
      | none =>
        if 32 < s.rlq.queue.length + records.length then
          .refusedFull (some (32 - s.rlq.queue.length))
        else .ok (bytesOf 1 (s.rlq.queue.length + records.length))

/-- R78: the records join the queue. -/
def appendSegments (records : List SegmentWord) (s : State) : State :=
  let q := s.rlq.queue ++ records.map segmentOf
  if s.rlq.queue = [] then
    segmentChange { s with rlq := ⟨q, some 0, some s.travel, true⟩ }
  else { s with rlq.queue := q }

/-- R77, R78, at RLQ; R193 case 4 before it. -/
def takeSegmentAppend (tag count : Byte) (records : List SegmentWord) (s : State) : State :=
  if !countFits count records then answer .segmentAppend tag .badLength s
  else
    let r := appendResult count records s
    let t := answer .segmentAppend tag r s
    match r with
    | .ok _ => appendSegments records t
    | _ => t

/-! ROUTE FLUSH (R86) and POSITION FIX (R84, R85) -/

def takeRouteFlush (tag : Byte) (s : State) : State :=
  emptyRoute .flush (answer .routeFlush tag (.ok (bytesOf 1 s.rlq.queue.length)) s)

/-- The place of a segment id in the queue. -/
def segmentPlace (id : Nat) (q : List Segment) : Option Nat := q.findIdx? fun g => g.id = id

/-- R84. -/
def fixResult (id offset : Nat) (s : State) : Result :=
  if id = 0 then .refusedRange 1
  else match segmentPlace id s.rlq.queue with
    | none => .notFound
    | some n =>
      match s.rlq.queue[n]? with
      | none => .notFound
      | some g => if g.length * 10 ≤ offset then .refusedRange 2 else .ok (bytesOf 1 n)

/-- R85: the segment at place `n` becomes the head, with the position set. -/
def fixPosition (n offset : Nat) (s : State) : State :=
  let t := { s with rlq := { s.rlq with
    queue := s.rlq.queue.drop n, pos := some (offset * 100), uncertain := false } }
  if n = 0 then t else segmentChange t

def takePositionFix (tag : Byte) (id : BitVec 16) (offset : BitVec 32) (s : State) : State :=
  let r := fixResult id.toNat offset.toNat s
  let t := answer .positionFix tag r s
  match r with
  | .ok _ => fixPosition ((segmentPlace id.toNat s.rlq.queue).getD 0) offset.toNat t
  | _ => t

end Sys2Proof.Machine
end

