-- ==== Sys2Proof/Machine/Reference.lean ====
section
/-! DEFINITION. The reference unit (02: R25 to R43): qualifying samples, the candidate, the update, the modes
HELD, LOST, STANDSTILL and GROUND-SENSOR, and odometry. -/

namespace Sys2Proof.Machine

/-- R25: REF takes arrivals and runs its timers. -/
def refLive (s : State) : Bool := s.isActive || s.isFailsafe

/-- R41: the report of a change from `left` to the mode now active. -/
def refReport (left : RefMode) (s : State) : State :=
  sendReport (.referenceMode s.ref.active left s.ref.requested s.ref.speed s.nowMs) s

/-- The travel sense is that of drive or coast in ACTIVE (R28, R37). -/
def driveSense (s : State) : Bool :=
  s.isActive && (decide (s.mode = .drive) || decide (s.mode = .coast))

/-! Qualifying samples and the candidate (R26, R28, R29) -/

/-- R26: the latest record of an axle, where it qualifies at an arrival of end time `now`. -/
def qualifying (s : State) (now : Time) (x : Axle) : Option Sample :=
  match (s.wsc.axle.get x).latest with
  | none => none
  | some p =>
    if !(s.wsc.axle.get x).isolated ∧ !s.unwatched x ∧ !p.flags.implausible
        ∧ elapsed now p.endTime ≤ 4 * s.windowMs (.axle x) * 1000 then some p
    else none

/-- R26: the valid axles with their latest samples, in channel order. -/
def validAxles (s : State) (now : Time) : List (Axle × Sample) :=
  Axle.all.filterMap fun x => (qualifying s now x).map fun p => (x, p)

/-- The first of a list than which no other is better. -/
def firstBest (better : Sample → Sample → Bool) : List (Axle × Sample) → Option Sample
  | [] => none
  | (_, p) :: rest =>
    match firstBest better rest with
    | none => some p
    | some q => if better q p then some q else some p

/-- The sample of smallest |v|; ties go to the lower channel number (R28). -/
def slowest (l : List (Axle × Sample)) : Option Sample :=
  firstBest (fun q p => q.v.natAbs < p.v.natAbs) l

/-- The sample of largest |v|; ties go to the lower channel number (R29). -/
def fastest (l : List (Axle × Sample)) : Option Sample :=
  firstBest (fun q p => p.v.natAbs < q.v.natAbs) l

/-- The axle is in GRIP or CREEP. -/
def gripping (s : State) (x : Axle) : Bool := s.adhState x = .grip || s.adhState x = .creep

/-- R28, R29: the candidate at an arrival of end time `now`. -/
def candidate (s : State) (now : Time) : Option Sample :=
  let valid := validAxles s now
  if driveSense s then
    match valid.filter fun a => !a.1.isMotor with
    | [] => slowest (valid.filter fun a => gripping s a.1)
    | trailers => slowest trailers
  else fastest (valid.filter fun a => gripping s a.1)

/-! The update (R27, R30, R42) -/

/-- R27: the elapsed time in whole ms at an update of end time `now`. -/
def updateInterval (now : Time) (r : Ref) : Nat :=
  match r.updateTime with
  | none => 0
  | some t => elapsed now t / 1000

/-- R27: the update time carries the sub-millisecond remainder on. -/
def nextUpdateTime (now : Time) (r : Ref) : Option Time :=
  match r.updateTime with
  | none => some now
  | some t => some (t + BitVec.ofNat 32 (updateInterval now r * 1000))

/-- R30: a rate limit's step, at least 1. -/
def rateStep (limit dt : Nat) : Nat := max 1 (roundDown (limit * dt) 1000)

/-- R30: the reference moved toward a candidate within the rate limit. -/
def moveReference (cfg : Adhesion) (dir : Int) (dt : Nat) (v a : Int) (r : Ref) : Ref :=
  let rp := r.speed * dir
  let cp := v * dir
  let lo := rp - rateStep cfg.down dt
  let hi := rp + rateStep cfg.up dt
  let accel : Int :=
    if hi < cp then cfg.up * dir
    else if cp < lo then -cfg.down * dir
    else clampInt (-cfg.down) cfg.up (a * dir) * dir
  { r with speed := clampInt lo hi cp * dir, accel := accel }

/-- R34: the reference moved by extrapolation with the held acceleration. A reference that stands at 0 is not
carried across it by a change to either side (log 46). -/
def extrapolate (dir : Int) (dt : Nat) (r : Ref) : Ref :=
  let rp := r.speed * dir
  let change : Int := roundDown (r.heldAccel.natAbs * dt) 1000
  let moved := if 0 < r.heldAccel * dir then rp + change else rp - change
  let next := if (rp < 0 ∧ 0 < moved) ∨ (0 < rp ∧ moved < 0) then 0 else moved
  { r with speed := clampInt (-30000) 30000 next * dir, accel := r.heldAccel }

/-- R43: an increment of `m` mm in the travel direction, to RLQ and to SND in either order. -/
def distance (m : Int) (s : State) : State :=
  if m = 0 then s else inSomeOrder [routeDistance m, sandDistance m.natAbs] s

/-- R42: the odometry step of an update over `dt` ms. -/
def odometry (dt : Nat) (s : State) : State :=
  let total := s.ref.residual + s.ref.speed * dt
  distance (total.tdiv 1000 * s.travel.sign) { s with ref.residual := total.tmod 1000 }

/-- An update that moves the reference with `f`, reports the change from the mode `left` where the mode has
changed, and ends with the odometry step (R27, R41). -/
def update (now : Time) (f : Nat → Ref → Ref) (s : State) : State :=
  let dt := updateInterval now s.ref
  let next := f dt { s.ref with updateTime := nextUpdateTime now s.ref }
  let t := { s with ref := next }
  odometry dt (if next.active = s.ref.active then t else refReport s.ref.active t)

/-! Leaving LOST and entering STANDSTILL -/

/-- R36, R181: REF leaves LOST; the record becomes inactive and SFC stops its timer. -/
def leaveLost (s : State) : State := { endFault .referenceLost s with sfc.refLostTimer := none }

/-- R39. -/
def enterStandstill (s : State) : State :=
  let left := s.ref.active
  let t := if left = .lost then leaveLost s else s
  let t := { t with ref := { t.ref with
    active := .standstill
    prior := if left = .groundSensor then .groundSensor else .axleFused
    speed := 0
    accel := 0
    heldTimer := none
    confirm := .stopped } }
  hillStandstill (refReport left t)

/-- R38: with the confirm complete, STANDSTILL is entered where |reference| is at most 100. -/
def judgeStandstill (s : State) : State :=
  if s.ref.active ≠ .standstill ∧ s.ref.confirm = .complete ∧ s.ref.speed.natAbs ≤ 100 then
    enterStandstill s
  else s

/-- R38: the standstill condition at an axle arrival of end time `now`. -/
def standstillCondition (s : State) (now : Time) : Bool :=
  !(validAxles s now).isEmpty && (validAxles s now).all fun a => a.2.flags.standstill

/-- R38: how the confirm responds at an axle arrival. -/
def judgeConfirm (now : Time) (s : State) : State :=
  let c : Confirm :=
    if standstillCondition s now then (match s.ref.confirm with
      | .stopped => .running (s.clock + 500000)
      | .running due => .running due
      | .complete => .complete)
    else .stopped
  { s with ref.confirm := c }

/-! Updates in each mode -/

/-- R34: HELD is entered from an update with no candidate. -/
def heldFrom (s : State) (dt : Nat) (r : Ref) : Ref :=
  extrapolate s.travel.sign dt { r with
    active := .held
    heldAccel := clampInt (-s.adhesion.hold) s.adhesion.hold r.accel
    heldTimer := s.timer s.adhesion.heldTimeout }

/-- R28 to R30, R34: an AXLE-FUSED update. -/
def fusedUpdate (p : Sample) (s : State) : State :=
  update p.endTime (fun dt r =>
    match candidate s p.endTime with
    | some c => moveReference s.adhesion s.travel.sign dt c.v c.a r
    | none => heldFrom s dt r) s

/-- R34: an update in HELD. -/
def heldUpdate (p : Sample) (s : State) : State :=
  update p.endTime (fun dt r =>
    match candidate s p.endTime with
    | some c => moveReference s.adhesion s.travel.sign dt c.v c.a
        { r with active := .axleFused, heldTimer := none }
    | none => extrapolate s.travel.sign dt r) s

/-- R37: two speeds agree. -/
def agree (v w : Int) : Bool := (v - w).natAbs * 1000 ≤ 20 * max v.natAbs w.natAbs

/-- R37, steps 1 and 2: the arriving axle's resynchronisation count. -/
def resyncCount (s : State) (x : Axle) (p : Sample) : Nat :=
  let others := (validAxles s p.endTime).filter fun a => a.1 ≠ x
  if (qualifying s p.endTime x).isSome ∧ others.any fun a => agree p.v a.2.v then
    min 3 (s.ref.resync.get x + 1)
  else 0

/-- R37, step 3: the partner with which the arriving axle ends LOST, of lower channel number. -/
def resyncPartner (s : State) (x : Axle) (p : Sample) : Option (Axle × Sample) :=
  if resyncCount s x p = 3 then
    (validAxles s p.endTime).find? fun a =>
      a.1 ≠ x && decide (s.ref.resync.get a.1 = 3) && agree p.v a.2.v
  else none

/-- R37: of two agreeing samples, the candidate on leaving LOST; the lower channel's of two equal (log 51). -/
def resyncCandidate (s : State) (x : Axle) (p : Sample) (partner : Axle × Sample) : Sample :=
  let pair := if x.number < partner.1.number then [(x, p), partner] else [partner, (x, p)]
  ((if driveSense s then slowest pair else fastest pair)).getD p

/-- R36, R37: an update in LOST. -/
def lostUpdate (x : Axle) (p : Sample) (s : State) : State :=
  let n := resyncCount s x p
  match resyncPartner s x p with
  | some partner =>
    let c := resyncCandidate s x p partner
    update p.endTime (fun dt r =>
      moveReference s.adhesion s.travel.sign dt c.v c.a
        { r with active := .axleFused, resync := r.resync.set x n }) (leaveLost s)
  | none =>
    update p.endTime (fun _ r => { r with accel := 0, resync := r.resync.set x n }) s

/-- R33: an update in GROUND-SENSOR, with the ground sample as candidate. -/
def groundUpdate (p : Sample) (s : State) : State :=
  update p.endTime (fun dt r => moveReference s.adhesion s.travel.sign dt p.v p.a
    { r with active := .groundSensor }) s

/-- R32: a ground sample is valid. -/
def groundValid (p : Sample) : Bool := !p.flags.invalid && !p.flags.implausible

/-- R40: GROUND-SENSOR is available. -/
def groundAvailable (s : State) : Bool :=
  decide (s.ref.requested = .groundSensor) && decide (s.ref.engage = 5)
    && ((s.wsc.ground.latest.map groundValid).getD false)

/-- R40: the arriving sample ends STANDSTILL. -/
def endsStandstill (s : State) (x : Axle) (p : Sample) : Bool :=
  (qualifying s p.endTime x).isSome && decide (100 ≤ p.v.natAbs) && !p.flags.standstill

/-- R31, R40: the update at which `left` is left for AXLE-FUSED; where it finds no candidate HELD is entered
from it, with a report of each change. Both carry the speed the update publishes (R41, log 17). -/
def enterFused (left : RefMode) (p : Sample) (s : State) : State :=
  let dt := updateInterval p.endTime s.ref
  let r := { s.ref with updateTime := nextUpdateTime p.endTime s.ref, active := .axleFused }
  match candidate s p.endTime with
  | some c =>
    odometry dt (refReport left { s with ref := moveReference s.adhesion s.travel.sign dt c.v c.a r })
  | none =>
    let held := heldFrom s dt r
    let t := refReport left { s with ref := { held with active := .axleFused } }
    odometry dt (refReport .axleFused { t with ref := held })

/-- R39, R40: an axle arrival in STANDSTILL. -/
def standstillArrival (x : Axle) (p : Sample) (s : State) : State :=
  if endsStandstill s x p then
    if s.ref.prior = .groundSensor ∧ groundAvailable s then
      update p.endTime (fun _ r => { r with active := .groundSensor }) s
    else enterFused .standstill p s
  else update p.endTime (fun _ r => { r with speed := 0, accel := 0 }) s

/-- R31: a pending return to AXLE-FUSED takes place at the arrival. -/
def returnsToFused (s : State) : Bool :=
  decide (s.ref.active = .groundSensor) && decide (s.ref.requested = .axleFused)

/-- R27, R38: an axle arrival outside STANDSTILL. -/
def movingArrival (x : Axle) (p : Sample) (s : State) : State :=
  let t := judgeConfirm p.endTime s
  if returnsToFused t then judgeStandstill (enterFused .groundSensor p t)
  else match t.ref.active with
    | .axleFused => judgeStandstill (fusedUpdate p t)
    | .held => judgeStandstill (heldUpdate p t)
    | .lost => judgeStandstill (lostUpdate x p t)
    | .groundSensor => t
    | .standstill => t

/-- R27: an axle sample arrives at REF. -/
def refArrival (x : Axle) (p : Sample) (s : State) : State :=
  if !refLive s then s
  else if s.ref.active = .standstill then standstillArrival x p s
  else movingArrival x p s

/-- R32: the ground engage count after a ground arrival. -/
def engageCount (r : Ref) (p : Sample) : Nat :=
  if r.requested = .axleFused then 0 else if groundValid p then min 5 (r.engage + 1) else 0

/-- R31, R33: GROUND-SENSOR is left for AXLE-FUSED with the reference as it stood. -/
def disengage (s : State) : State :=
  refReport .groundSensor { s with ref := { s.ref with active := .axleFused, engage := 0 } }

/-- R27, R31 to R33: a ground sample arrives at REF. -/
def refGround (p : Sample) (s : State) : State :=
  if !refLive s then s
  else if returnsToFused s then disengage s
  else
    let t := { s with ref.engage := engageCount s.ref p }
    match s.ref.active with
    | .groundSensor =>
      if groundValid p then judgeStandstill (groundUpdate p t)
      else if p.flags.invalid then disengage t
      else t
    | .axleFused =>
      if groundValid p ∧ t.ref.engage = 5 ∧ t.ref.requested = .groundSensor then
        judgeStandstill (groundUpdate p t)
      else t
    | .held => t
    | .lost => t
    | .standstill => t

/-! Timers, the request, and operating states -/

/-- R35, R181: the HELD timer expires; the report of the raise goes first (log 45). -/
def heldExpiry (s : State) : State :=
  let t := { s with ref := { s.ref with
    active := .lost, heldTimer := none, resync := PerAxle.of fun _ => 0 } }
  let t := raiseFault .referenceLost t
  let t := if s.isActive then { t with sfc.refLostTimer := s.timer 5000 } else t
  inSomeOrder (if s.isActive then [adhLost, requestLeading .adhesion 3] else [adhLost])
    (refReport .held t)

/-- R38: the standstill confirm expires. -/
def confirmExpiry (s : State) : State := judgeStandstill { s with ref.confirm := .complete }

/-- R31: the result of a REFERENCE SELECT. -/
def selectResult (mode : Byte) (s : State) : Result :=
  match RefChoice.ofCode? mode.toNat with
  | none => .refusedRange 1
  | some .axleFused => .ok []
  | some .groundSensor =>
    if s.sfc.cfg.ground.isNone then .refusedState
    else if s.ref.active = .groundSensor then .ok []
    else .pending

/-- R31: what a REFERENCE SELECT changes. -/
def selectReference (mode : Byte) (s : State) : State :=
  match RefChoice.ofCode? mode.toNat, selectResult mode s with
  | some .axleFused, .ok _ =>
    { s with ref := { s.ref with
      requested := .axleFused
      engage := 0
      prior := if s.ref.active = .standstill then .axleFused else s.ref.prior } }
  | some .groundSensor, .pending =>
    { s with ref := { s.ref with requested := .groundSensor, engage := 0 } }
  | _, _ => s

/-- R31, at REF. -/
def takeReferenceSelect (tag mode : Byte) (s : State) : State :=
  selectReference mode (answer .referenceSelect tag (selectResult mode s) s)

/-- R25: REF is held. -/
def holdReference (s : State) : State :=
  { s with ref := { s.ref with
    active := .standstill, speed := 0, accel := 0, heldTimer := none, confirm := .stopped
    resync := PerAxle.of fun _ => 0, engage := 0 } }

/-- R25: REF leaves the hold at START. -/
def startReference (s : State) : State :=
  { s with ref := { s.ref with active := .standstill, updateTime := none, residual := 0 } }

/-- R25: RESTART at REF. -/
def restartReference (s : State) : State := { s with ref := Ref.powerOn }

end Sys2Proof.Machine
end

