-- ==== Sys2Proof/Machine/Speed.lean ====
section
/-! DEFINITION. The speed channels (01: R3 to R24): edges, windows, the speed and acceleration of a sample,
the sample record, the plausibility counts, and each channel's taking of sections, resets and START. -/

namespace Sys2Proof.Machine

def State.chan (s : State) (c : Chan) : Channel := s.wsc.get c

def State.setChan (s : State) (c : Chan) (v : Channel) : State := { s with wsc := s.wsc.set c v }

/-! Scale and windows (R4, R6) -/

/-- R6: the circumference in µm of a diameter in 0.1 mm. -/
def circumference (diameter : Nat) : Nat := (roundNearest (diameter * 31416 : Nat) 100).toNat

/-- R4, R12: the scale a window opening on the channel captures. -/
def openScale (s : State) (c : Chan) : Scale :=
  match c with
  | .axle x =>
    let ch := s.wsc.axle.get x
    .wheel ((ch.pendingCirc <|> ch.circ).getD 0) (((s.sfc.cfg.axle.get x).map AxleCfg.teeth).getD 0)
  | .ground => .ground ((s.sfc.cfg.ground.map GroundCfg.umPerEdge).getD 0)

/-- R12: a valid line already low sets the drop mark of the ground channel's window at once. -/
def opensDropped (s : State) (c : Chan) : Bool := decide (c = .ground) && s.groundLow

/-- R4: the window that opens on the channel now. -/
def freshWindow (s : State) (c : Chan) : Window where
  forward := 0
  reverse := 0
  first := none
  last := none
  periods := 1
  drop := opensDropped s c
  scale := openScale s c
  due := s.clock + s.windowMs c * 1000

/-- R4: a window opens; a pending circumference becomes the working one. -/
def openWindow (c : Chan) (s : State) : State :=
  let ch := s.chan c
  s.setChan c { ch with
    state := .measuring (freshWindow s c), circ := ch.pendingCirc <|> ch.circ, pendingCirc := none }

/-! Edges (R3, R12) -/

/-- The channel a sensor line leads to. -/
def sensorChan : SensorLine → Chan
  | .lead x => .axle x
  | .lag x => .axle x
  | .pulse => .ground

/-- R3, R12: the direction of an edge. With the lines in the phase order of FORWARD, `lead` rises while `lag`
is low and falls while it is high, and `lag` rises while `lead` is high and falls while it is low; the other
order is reverse. A ground edge has the direction its direction line reads. -/
def edgeDirection (line : SensorLine) (edge : LineEdge) : Direction :=
  match line with
  | .lead _ => if edge.rises = edge.beside then .reverse else .forward
  | .lag _ => if edge.rises = edge.beside then .forward else .reverse
  | .pulse => if edge.beside then .forward else .reverse

/-- R3: a count after one more edge; past 65,535, where the manual states no value, a free value. -/
def countEdge (n : Nat) (s : State) : Nat × State :=
  if n < 65535 then (n + 1, s)
  else
    let d := drawFrom Config.freeEdgeCount s
    (d.1 % 65536, d.2)

/-- R3: an edge of the direction given in the window. -/
def edgeInWindow (dir : Direction) (w : Window) (s : State) : Window × State :=
  let stamped := { w with first := w.first <|> some s.nowUs, last := some s.nowUs }
  match dir with
  | .forward =>
    let n := countEdge w.forward s
    ({ stamped with forward := n.1 }, n.2)
  | .reverse =>
    let n := countEdge w.reverse s
    ({ stamped with reverse := n.1 }, n.2)

/-- R3: an edge of the direction given reaches a channel; an UNSET channel does not count it. -/
def takeEdge (c : Chan) (dir : Direction) (s : State) : State :=
  match (s.chan c).state with
  | .unset => s
  | .measuring w =>
    let r := edgeInWindow dir w s
    r.2.setChan c { r.2.chan c with state := .measuring r.1 }

/-- R12: the valid line goes low. -/
def dropGround (staysLow : Bool) (s : State) : State :=
  let t := { s with groundLow := staysLow }
  match s.wsc.ground.state with
  | .unset => t
  | .measuring w => t.setChan .ground { s.wsc.ground with state := .measuring { w with drop := true } }

/-! Speed and acceleration (R8 to R13) -/

/-- The µm that one edge represents, as a quotient: numerator and denominator (R8, R12). -/
def Scale.perEdge : Scale → Nat × Nat
  | .wheel circ teeth => (circ, 4 * teeth)
  | .ground e => (e, 1)

/-- The net count of a window (R8). -/
def Window.net (w : Window) : Int := (w.forward : Int) - w.reverse

/-- R9: the span, a span of 0 being taken as 1 µs. -/
def Window.span (w : Window) : Nat :=
  match w.first, w.last with
  | some a, some z => max 1 (elapsed z a)
  | _, _ => 1

/-- R9: the single-direction speed. -/
def oneWaySpeed (sc : Scale) (net : Int) (span : Nat) : Int :=
  net.sign * roundNearest ((net.natAbs - 1) * sc.perEdge.1 * 1000 : Nat) (sc.perEdge.2 * span)

/-- R10: the REVERSAL speed. -/
def reversalSpeed (sc : Scale) (net : Int) (duration : Nat) : Int :=
  net.sign * roundNearest (net.natAbs * sc.perEdge.1 * 1000 : Nat) (sc.perEdge.2 * duration)

/-- The speed of a closing window before the clamp of R11. -/
def rawSpeed (w : Window) (outcome : WindowOutcome) (duration : Nat) : Int :=
  match outcome with
  | .oneWay => oneWaySpeed w.scale w.net w.span
  | .bothWays => reversalSpeed w.scale w.net duration
  | .atRest => 0
  | .stretch => 0

/-- R13: the acceleration of a sample of speed `v` ending at `now`. -/
def accelOf (prev : Option Prev) (v : Int) (now : Time) : Int :=
  match prev with
  | none => 0
  | some m =>
    clampInt (-32000) 32000 (truncate ((v - m.v) * 1000000) (elapsed now m.endTime))

/-! The sample record (R14, R16 to R19) -/

/-- R12, R19: a ground window closes INVALID (log 16). -/
def closesInvalid (s : State) (c : Chan) (w : Window) : Bool :=
  match c with
  | .axle _ => false
  | .ground => w.drop || (s.fault .ground).active

/-- R14: the record of a window closing now. -/
def sampleOf (s : State) (c : Chan) (w : Window) (outcome : WindowOutcome) : Sample :=
  let ch := s.chan c
  let duration := w.periods * s.windowMs c * 1000
  let raw := rawSpeed w outcome duration
  let v := clampSpeed raw
  let a := accelOf ch.prev v s.nowUs
  { seq := ch.seq, net := w.net, duration := duration, windows := w.periods, v := v, a := a
    flags := sampleFlags outcome w.periods raw a s.adhesion.implausible ch.isolated
      (closesInvalid s c w)
    endTime := s.nowUs, scale := w.scale }

/-- R17: the sample of an axle is dead. -/
def isDead (s : State) (c : Chan) (p : Sample) : Bool :=
  match c with
  | .ground => false
  | .axle x =>
    p.flags.standstill &&
      match (s.wsc.axle.get x.partner).latest with
      | none => false
      | some q => !q.flags.implausible && !q.flags.overrange && decide (2000 ≤ q.v.natAbs)

/-- A plausibility count after a sample: up by one, held at 3, or back to 0. -/
def tally (counts : Bool) (n : Nat) : Nat := if counts then min 3 (n + 1) else 0

/-- The fault record a channel supervises. -/
def chanFault : Chan → FaultId
  | .axle x => .sensor x
  | .ground => .ground

/-- R14 to R19: the channel after the sample is published. -/
def publishSample (c : Chan) (p : Sample) (dead : Bool) (s : State) : State :=
  let ch := s.chan c
  s.setChan c { ch with
    latest := some p
    prev := some ⟨p.v, p.endTime⟩
    seq := ch.seq + 1
    implausible := tally p.flags.implausible ch.implausible
    dead := tally dead ch.dead
    healthy := tally (!p.flags.implausible && !dead) ch.healthy }

/-- R16 to R19: the channel's counts call for a raise. -/
def raisesFault (s : State) (c : Chan) : Bool :=
  !(s.fault (chanFault c)).active
    && (decide (3 ≤ (s.chan c).implausible) || decide (3 ≤ (s.chan c).dead))

/-- R18, R19: three healthy samples make an active record inactive. -/
def endsFault (s : State) (c : Chan) : Bool :=
  (s.fault (chanFault c)).active && decide (3 ≤ (s.chan c).healthy)

/-- R18, R19: the record follows the counts. -/
def followCounts (c : Chan) (s : State) : State :=
  if raisesFault s c then raiseFault (chanFault c) s
  else if endsFault s c then endFault (chanFault c) s
  else s

/-- R5, R14: a window closes, its sample is published and the next window opens: the sample, whether a
fault was raised, and the state after. -/
def closeWindow (c : Chan) (w : Window) (outcome : WindowOutcome) (s : State) :
    Sample × Bool × State :=
  let p := sampleOf s c w outcome
  let t := publishSample c p (isDead s c p) s
  (p, raisesFault t c, openWindow c (followCounts c t))

/-- R5: a window stretches by one period. -/
def stretchWindow (c : Chan) (w : Window) (s : State) : State :=
  s.setChan c { s.chan c with
    state := .measuring { w with periods := w.periods + 1, due := s.clock + s.windowMs c * 1000 } }

/-! Sections, trims, isolation (R7, R20 to R22) -/

/-- The previous-sample memory becomes absent and the three counts return to 0. -/
def Channel.forgotten (ch : Channel) : Channel :=
  { ch with prev := none, implausible := 0, dead := 0, healthy := 0 }

/-- R22: an AXLE section is taken, stored already; the diameter is the section's. -/
def channelSection (c : Chan) (diameter : Option Nat) (s : State) : State :=
  let ch := (s.chan c).forgotten
  openWindow c (s.setChan c { ch with
    diameter := diameter, circ := diameter.map circumference, pendingCirc := none })

/-- R20: the channel of an axle that is not isolated becomes so. -/
def isolateChannel (x : Axle) (s : State) : State :=
  s.setChan (.axle x) { (s.wsc.axle.get x).forgotten with isolated := true }

/-- R21: the channel of a restored axle. -/
def restoreChannel (x : Axle) (s : State) : State :=
  s.setChan (.axle x) { (s.wsc.axle.get x).forgotten with isolated := false }

/-- R7: a trim that is taken. -/
def trimChannel (x : Axle) (diameter : Nat) (s : State) : State :=
  s.setChan (.axle x) { s.wsc.axle.get x with
    diameter := some diameter, pendingCirc := some (circumference diameter) }

/-- R7: the result of a WHEEL TRIM. -/
def trimResult (axle : Byte) (diameter : BitVec 16) (s : State) : Result :=
  match Axle.ofNumber? axle.toNat with
  | none => .refusedRange 1
  | some x =>
    if diameter.toNat < 6000 ∨ 7400 < diameter.toNat then .refusedRange 2
    else if (s.wsc.axle.get x).state = .unset then .refusedState
    else if s.adhState x = .slip ∨ s.adhState x = .recover then .refusedBusy
    else .ok []

/-- R7, at WSC. -/
def takeWheelTrim (tag axle : Byte) (diameter : BitVec 16) (s : State) : State :=
  let r := trimResult axle diameter s
  let t := answer .wheelTrim tag r s
  match Axle.ofNumber? axle.toNat, r with
  | some x, .ok _ => trimChannel x diameter.toNat t
  | _, _ => t

/-! START and RESTART (R24) -/

/-- R13, R24: START makes every previous-sample memory absent. -/
def startChannels (s : State) : State :=
  { s with wsc := PerChan.of fun c => { s.wsc.get c with prev := none } }

/-- R24: RESTART at one channel. -/
def restartChannel (c : Chan) (s : State) : State :=
  let t := s.setChan c { (s.chan c).forgotten with latest := none, isolated := false }
  match (s.chan c).state with
  | .unset => t
  | .measuring _ => openWindow c t

/-- R24: RESTART at the seven channels. -/
def restartChannels (s : State) : State := Chan.all.foldl (fun t c => restartChannel c t) s

end Sys2Proof.Machine
end

