-- ==== Sys2Proof/Machine/Command.lean ====
section
/-! DEFINITION. The demand record (05: R91 to R98): DEMAND, the stale-demand brake, the emergency latch and
the emergency loop, with the deliveries a change of the record brings. -/

namespace Sys2Proof.Machine

def State.setDemand (s : State) (d : Demand) : State := { s with bld.demand := d }

/-- R93: a change of travel direction, to RLQ, HHU and SND. -/
def directionDeliveries : List (State → State) := [routeDirection, hillDirection, sandDirection]

/-- R94: a change of demand mode, to ADH, HHU, STU and SND. -/
def modeDeliveries (old new : Mode) : List (State → State) :=
  [adhModeChange old new, hillModeChange old new, tripModeChange old new, sandModeChange old new]

/-- R93, R94, R99: what the record's change from `old` delivers, in any order: the change of direction, the
change of mode, the re-run of the allocation, and what else the event brings. -/
def deliverDemand (old : Demand) (also : List (State → State)) (s : State) : State :=
  inSomeOrder
    ((if s.travel = old.dir then [] else directionDeliveries)
      ++ (if s.mode = old.mode then [] else modeDeliveries old.mode s.mode)
      ++ rerun :: also) s

/-- The demand timer started (R92, R95). -/
def demandTimer (s : State) : Timer := s.timer s.blend.demandTimeout

/-! DEMAND (R92 to R98) -/

/-- The fields of a DEMAND that are in range (R92, check 1). -/
structure DemandFields where
  mode : Mode
  dir : Direction
  effort : Nat
  permitted : Bool
deriving DecidableEq, Repr

/-- R92, check 1: the fields, or the index of the first out of range. -/
def demandFields (mode dir : Byte) (effort : BitVec 16) (permitted : Byte) : Except Nat DemandFields :=
  match Mode.ofCode? mode.toNat with
  | none => .error 1
  | some m =>
    match dirOfCode? dir.toNat with
    | none => .error 2
    | some d =>
      if 2000 < effort.toNat then .error 3
      else match boolOfCode? permitted.toNat with
        | none => .error 4
        | some p => .ok ⟨m, d, effort.toNat, p⟩

/-- R93: the direction is held. -/
def directionHeld (s : State) (f : DemandFields) : Bool :=
  decide (f.dir ≠ s.travel) && decide (s.ref.active ≠ .standstill)

/-- R98: a DEMAND of another mode clears the latch. -/
def clearsLatch (s : State) (f : DemandFields) : Bool :=
  s.bld.demand.latch.isSome && decide (f.mode ≠ .emergency)
    && decide (s.ref.active = .standstill) && !s.eblOpen

/-- R96: a set latch holds the mode and the effort against another mode. -/
def modeHeld (s : State) (f : DemandFields) : Bool :=
  s.bld.demand.latch.isSome && decide (f.mode ≠ .emergency) && !clearsLatch s f

/-- R92 to R98: the record after a DEMAND that is taken. -/
def demandTaken (s : State) (f : DemandFields) : Demand :=
  let d := { s.bld.demand with
    dir := if directionHeld s f then s.travel else f.dir
    permitted := f.permitted
    stale := false }
  match s.bld.demand.latch with
  | none =>
    if f.mode = .emergency then
      { d with mode := .emergency, effort := f.effort, latch := some .demand, timer := none }
    else { d with mode := f.mode, effort := f.effort, timer := demandTimer s }
  | some _ =>
    if clearsLatch s f then
      { d with mode := f.mode, effort := f.effort, latch := none, timer := demandTimer s }
    else if f.mode = .emergency ∧ !s.eblOpen then { d with effort := f.effort }
    else d

/-- R111: the track brakes are off and both timers stopped. -/
def releaseTrack (s : State) : State :=
  { s with bld := { s.bld with track := false, onTimer := none, offTimer := none } }

/-- R92: DEMAND_STALE is made inactive where it is active. -/
def endStale (s : State) : State :=
  if (s.fault .demandStale).active then endFault .demandStale s else s

/-- R92: the record after a DEMAND, with what its change delivers (log 14, log 20). -/
def deliverTaken (f : DemandFields) (s : State) : State :=
  deliverDemand s.bld.demand [] (endStale (s.setDemand (demandTaken s f)))

/-- R92: a DEMAND that is taken, after its reply. One that clears the latch puts the track brakes off before
its re-run and leaves both timers stopped after it (R111, log 44). -/
def applyDemand (f : DemandFields) (s : State) : State :=
  if clearsLatch s f then releaseTrack (deliverTaken f (releaseTrack s)) else deliverTaken f s

/-- R92. -/
def demandResult (mode dir : Byte) (effort : BitVec 16) (permitted : Byte) (s : State) : Result :=
  match demandFields mode dir effort permitted with
  | .error i => .refusedRange i
  | .ok f =>
    if !s.isActive then .refusedState
    else if directionHeld s f ∨ modeHeld s f then .held
    else .ok []

/-- R92, at BLD. -/
def takeDemand (tag mode dir : Byte) (effort : BitVec 16) (permitted : Byte) (s : State) : State :=
  let t := answer .demand tag (demandResult mode dir effort permitted s) s
  match demandFields mode dir effort permitted with
  | .error _ => t
  | .ok f => if s.isActive then applyDemand f t else t

/-! The stale-demand brake (R95) -/

/-- R95: the fault and the report of a demand timeout; FAULT RAISED is sent first (log 45). -/
def reportStale (mode : Mode) (effort : Nat) (s : State) : State :=
  sendReport (.staleDemand mode effort s.blend.fStale s.nowMs) (raiseFault .demandStale s)

/-- R95. -/
def demandTimeout (s : State) : State :=
  let d := s.bld.demand
  deliverDemand d [reportStale d.mode d.effort]
    (s.setDemand { d with mode := .brake, effort := s.blend.fStale, stale := true, timer := none })

/-! The emergency loop (R97) -/

/-- R97: the record after the loop has opened. -/
def loopOpened (s : State) (d : Demand) : Demand :=
  { d with mode := .emergency, effort := s.bld.cap.sum, latch := some .loop, timer := none }

/-- R97: the loop opens; where it is open already no event occurs (log 30). -/
def openLoop (s : State) : State :=
  if s.eblOpen then s
  else
    let t := { s with eblOpen := true }
    if s.isActive then deliverDemand s.bld.demand [] (t.setDemand (loopOpened s s.bld.demand)) else t

/-- R97: the loop closes. -/
def closeLoop (s : State) : State := { s with eblOpen := false }

/-! START at BLD (R91, R97) -/

/-- R91: the record at START, before the loop is read. -/
def startRecord (s : State) : Demand where
  mode := .brake
  dir := .forward
  effort := s.blend.fStale
  permitted := false
  stale := true
  latch := none
  timer := demandTimer s

/-- R91, R97: START at BLD. The change of mode delivered is that of the loop's opening alone. -/
def startBlend (s : State) : State :=
  let d := startRecord s
  let d' := if s.eblOpen then loopOpened s d else d
  deliverDemand { d with dir := s.travel } [] (s.setDemand d')

end Sys2Proof.Machine
end

