-- ==== Sys2Proof/Machine/OpStates.lean ====
section
/-! DEFINITION. The operating states (09: R175 to R182): the control-valid line, START, STOP, FAILSAFE,
RESTART and power-on reset, with what each block takes of them. -/

namespace Sys2Proof.Machine

/-- R175: the CV line is high. -/
def State.cv (s : State) : Bool := s.sfc.opState = .ready || s.sfc.opState = .active

def State.setOpState (s : State) (o : OpState) : State := { s with sfc.opState := o }

/-- R176: the OPERATING STATE report of the state reached. -/
def stateReport (left : OpState) (cause : StateCause) (s : State) : State :=
  sendReport (.operatingState s.sfc.opState left cause s.sfc.sent s.nowMs) s

/-- R175, R176: the state changes, every block takes the change, and the report is sent, in any order. -/
def changeState (new : OpState) (cause : StateCause) (blocks : List (State → State)) (s : State) :
    State :=
  inSomeOrder (stateReport s.sfc.opState cause :: blocks) (s.setOpState new)

/-! FAILSAFE (R181) -/

/-- R181: the part enters FAILSAFE; outside ACTIVE the event does nothing. -/
def enterFailsafe (cause : StateCause) (s : State) : State :=
  if s.isActive then
    changeState .failsafe cause [leaveAdh, leaveHill, leaveSand, leaveTrip, failsafeBlend]
      { s with sfc.refLostTimer := none }
  else s

/-- R181, AXLES. -/
def judgeAxles (s : State) : State :=
  if Axle.all.all s.unwatched then enterFailsafe .failsafeAxles s else s

/-- The number of PRESSURE records that are active. -/
def pressuresActive (s : State) : Nat :=
  (Bogie.all.filter fun x => (s.fault (.pressure x)).active).length

/-- R181, PRESSURE. -/
def judgePressures (s : State) : State :=
  if 2 ≤ pressuresActive s then enterFailsafe .failsafePressure s else s

/-! START and STOP (R179, R180) -/

/-- R179, check 3: the latest sample record of every axle carries STANDSTILL. -/
def allAtRest (s : State) : Bool :=
  Axle.all.all fun x => ((s.wsc.axle.get x).latest.map fun p => p.flags.standstill).getD false

/-- R179: the reason for which START is refused. -/
def startRefusal (s : State) : Option StartReason :=
  if s.sfc.opState ≠ .ready then some .state
  else if anyPressureLatched s then some .pressure
  else if !allAtRest s then some .motion
  else none

/-- R179: START at every block, then the axle condition of R181. -/
def enterActive (s : State) : State :=
  judgeAxles (changeState .active .start
    [startChannels, startReference, startAdh, startBlend, startHill, freshApplication] s)

/-- R179, at SFC. -/
def takeStart (tag : Byte) (s : State) : State :=
  match startRefusal s with
  | some r => answer .start tag (.refusedStart r) s
  | none => enterActive (answer .start tag (.ok []) s)

/-- R180: STOP is taken. -/
def stopTaken (s : State) : Bool := s.isActive && decide (s.ref.active = .standstill)

/-- R180: STOP at every block; SFC makes DEMAND_STALE inactive and stops the reference-lost timer. -/
def leaveActive (s : State) : State :=
  let t := changeState .ready .stop
    [leaveAdh, leaveHill, leaveSand, leaveTrip, stopBlend, holdReference]
    { s with sfc.refLostTimer := none }
  endStale t

/-- R180, at SFC. -/
def takeStop (tag : Byte) (s : State) : State :=
  if stopTaken s then leaveActive (answer .stop tag (.ok []) s) else answer .stop tag .refusedState s

/-! RESTART (R182) -/

/-- R182: RESTART is taken. -/
def restartTaken (s : State) : Bool :=
  decide (s.sfc.opState = .unconfigured) || decide (s.sfc.opState = .ready)
    || decide (s.ref.active = .standstill)

/-- R182: the mark is set before the reply joins. -/
def takeRestart (tag : Byte) (s : State) : State :=
  if restartTaken s then answer .restart tag (.ok []) { s with sfc.restartPending := true }
  else answer .restart tag .refusedState s

/-- The gain a section sets at its taking (R157, R164). -/
def firstGain (c : AnalogCfg) : Nat :=
  match c.mode with
  | .fixed => c.gain
  | .auto => 1

/-- R164, Table 8-4: RESTART at one analog channel; the discard flag is set on an UNSET channel too, whose
gain stays absent. -/
def restartAnalog (s : State) (c : Analog) : AnalogChan :=
  { AnalogChan.powerOn with gain := (s.sfc.cfg.analog.get c).map firstGain, discard := true }

/-- R164, Table 8-4: RESTART at AFE; the output conditions follow from BLD's outputs. -/
def restartAfe (s : State) : State :=
  { s with afe := {
      chan := PerAnalog.of (restartAnalog s)
      sup := PerBogie.of fun x =>
        { s.afe.sup.get x with disagree := none, agree := none, cause := false } } }

/-- R182: the state RESTART enters. -/
def restartState (s : State) : OpState :=
  if allRequiredSent s.sfc.sent then .ready else .unconfigured

/-- R200: RESTART at LNK. -/
def restartLink (s : State) : State :=
  { s with lnk := {
      framer := .hunting, gapTimer := none, discards := 0, replies := [], reports := []
      inFlight := none, reportsLost := false, requestsDiscarded := false } }

/-- R182, R186: RESTART at SFC, with the state entered. -/
def restartFaults (s : State) : State :=
  { s with sfc := { s.sfc with
      opState := restartState s, faults := FaultTable.clear, refLostTimer := none
      restartPending := false } }

/-- R90: RESTART at RLQ. -/
def restartRoute (s : State) : State := { s with rlq := Rlq.powerOn }

/-- R182: the blocks other than BLD, SFC and LNK take their RESTART values. -/
def restartBlocks (s : State) : State :=
  restartAfe (restartChannels (restartRoute (restartReference (restartHill (restartAdh
    (leaveTrip (restartSand s)))))))

/-- R117: μ and the design forces are kept through RESTART (log 25). -/
def keepMu (old s : State) : State :=
  { s with bld := { s.bld with mu := old.bld.mu, fmax := old.bld.fmax } }

/-- R182: the restart takes effect (log 25). -/
def restartEffect (s : State) : State :=
  stateReport s.sfc.opState .restart
    (restartLink (keepMu s (restartBlend (restartFaults
      (restartBlocks (s.setOpState (restartState s)))))))

/-! Power-on reset (R177, R189) -/

/-- R189: the baud rate of the straps. -/
def baudOf (lowTied highTied : Bool) : Baud :=
  match lowTied, highTied with
  | false, false => .b115200
  | true, false => .b230400
  | false, true => .b460800
  | true, true => .b921600

/-- R177: power-on reset. The field inputs, the queue of commands and the store of free choices are not the
part's to reset (log 34). -/
def powerOn (lowTied highTied : Bool) (s : State) : State :=
  { State.reset with
    baud := baudOf lowTied highTied
    eblOpen := s.eblOpen
    groundLow := s.groundLow
    free := s.free
    pending := s.pending }

end Sys2Proof.Machine
end

