-- ==== Sys2Proof/Machine/Feedback.lean ====
section
/-! DEFINITION. The feedback front end (08: R156 to R164): conversions, gain steps, saturation, and the
pressure supervision. -/

namespace Sys2Proof.Machine

def State.setAnalog (s : State) (c : Analog) (v : AnalogChan) : State :=
  { s with afe.chan := s.afe.chan.set c v }

/-! The PRESSURE and ED_FEEDBACK records (R159, R160) -/

/-- R160: the raise of a PRESSURE record, delivered to BLD, and SFC's count of the active ones (R181). -/
def raisePressure (x : Bogie) (s : State) : State :=
  if (s.fault (.pressure x)).active then s
  else judgePressures (rerun (raiseFault (.pressure x) s))

/-- R160: the record is active while at least one cause is set. -/
def endPressure (x : Bogie) (s : State) : State :=
  if (s.afe.chan.pressure.get x).cause ∨ (s.afe.sup.get x).cause then s
  else endFault (.pressure x) s

/-- R159: a saturation cause has been set. -/
def saturationSet (c : Analog) (s : State) : State :=
  match c with
  | .pressure x => raisePressure x s
  | .force m =>
    if (s.fault (.edFeedback m)).active then s else rerun (raiseFault (.edFeedback m) s)

/-- R159: a saturation cause has been cleared. -/
def saturationCleared (c : Analog) (s : State) : State :=
  match c with
  | .pressure x => endPressure x s
  | .force m => rerun (endFault (.edFeedback m) s)

/-! One conversion (R156 to R159) -/

/-- R156: the reading of a code at a gain. -/
def readingOf (code scale gain : Nat) : Int :=
  roundNearest (((code : Int) - 2048) * scale) (gain * 1000)

/-- What a conversion that is not discarded does to its channel: the channel after it, whether it publishes
a reading, and whether its saturation cause was set or cleared. -/
structure Conversion where
  chan : AnalogChan
  publishes : Bool
  causeSet : Bool
  causeCleared : Bool
deriving DecidableEq, Repr

/-- R158: the gain after a conversion in AUTO at the gain `g`, where it steps. -/
def gainStep (cfg : AnalogCfg) (g code : Nat) : Option Nat :=
  let d := ((code : Int) - 2048).natAbs
  match cfg.mode with
  | .fixed => none
  | .auto =>
    if saturatedCode code then (if 1 < g then some (g / 2) else none)
    else if 1800 < d ∧ 1 < g then some (g / 2)
    else if d < 400 ∧ g < cfg.gain then some (g * 2)
    else none

/-- R159: a saturated conversion that counts toward a fault. -/
def countsSaturated (cfg : AnalogCfg) (g code : Nat) : Bool :=
  saturatedCode code && (decide (cfg.mode = .fixed) || decide (g = 1))

/-- R157 to R159. -/
def convert (cfg : AnalogCfg) (g code : Nat) (ch : AnalogChan) : Conversion :=
  let sat := countsSaturated cfg g code
  let clear := !saturatedCode code
  let saturated := if sat then min 3 (ch.saturated + 1) else if clear then 0 else ch.saturated
  let clears := if sat then 0 else if clear then min 3 (ch.clear + 1) else ch.clear
  let causeSet := sat && decide (saturated = 3) && !ch.cause
  let causeCleared := clear && decide (clears = 3) && ch.cause
  let publishes := sat || clear
  { chan :=
      { gain := some ((gainStep cfg g code).getD g)
        discard := (gainStep cfg g code).isSome
        code := some code
        reading := if publishes then some (readingOf code cfg.scale g) else ch.reading
        saturated := saturated
        clear := clears
        cause := (ch.cause || causeSet) && !causeCleared }
    publishes := publishes
    causeSet := causeSet
    causeCleared := causeCleared }

/-! Pressure supervision (R162, R163) -/

/-- R162: the pressure a cylinder is expected to hold. -/
def expectedPressure (s : State) (x : Bogie) : Nat := if s.dumpOpen x then 0 else s.pressure x

/-- R162: the reading disagrees. -/
def disagrees (s : State) (x : Bogie) (reading : Int) : Bool :=
  800 + roundDown (s.pressure x) 10 < (reading - expectedPressure s x).natAbs

/-- A timer that is started where it is stopped and runs on where it runs. -/
def State.startIfStopped (s : State) (ms : Nat) (t : Timer) : Timer :=
  match t with
  | some due => some due
  | none => s.timer ms

/-- R162, R163: the supervision after a published reading, while it is armed. -/
def superviseReading (x : Bogie) (reading : Int) (s : State) : State :=
  let v := s.afe.sup.get x
  if v.steady ≠ .complete then s
  else if disagrees s x reading then
    s.setSup x { v with
      agree := none
      disagree := if v.cause then none else s.startIfStopped 600 v.disagree }
  else
    s.setSup x { v with
      disagree := none
      agree := if v.cause then s.startIfStopped 600 v.agree else none }

/-! Taking a conversion (R157) -/

/-- The readers of a published reading: BLD and HHU of a force, in either order; the supervision of a
pressure (R156, R157). -/
def deliverReading (c : Analog) (s : State) : State :=
  match c with
  | .pressure x => superviseReading x (s.reading c) s
  | .force _ => inSomeOrder [rerun, hillReading] s

/-- R159: what the change of a saturation cause brings. -/
def deliverCause (c : Analog) (v : Conversion) (s : State) : State :=
  if v.causeSet then saturationSet c s
  else if v.causeCleared then saturationCleared c s
  else s

/-- R157: the order of the work of a conversion: a pressure's saturation before its supervision, a force's
reading before its saturation (R159, log 29). -/
def afterConversion (c : Analog) (v : Conversion) (s : State) : State :=
  let publish := fun t => if v.publishes then deliverReading c t else t
  match c with
  | .pressure _ => publish (deliverCause c v s)
  | .force _ => deliverCause c v (publish s)

/-- R156, R157: a conversion completes; an UNSET channel completes none. -/
def takeConversion (c : Analog) (code : BitVec 12) (s : State) : State :=
  let ch := s.afe.chan.get c
  match ch.gain, s.sfc.cfg.analog.get c with
  | some g, some cfg =>
    if ch.discard then s.setAnalog c { ch with discard := false }
    else
      let v := convert cfg g code.toNat ch
      afterConversion c v (s.setAnalog c v.chan)
  | _, _ => s

/-! Sections and timers -/

/-- R164: an ANALOG section is taken. -/
def analogSection (c : Analog) (cfg : AnalogCfg) (s : State) : State :=
  s.setAnalog c { s.afe.chan.get c with
    gain := some (firstGain cfg), discard := true, saturated := 0, clear := 0 }

/-- R161: the steady timer expires; supervision is armed. -/
def steadyExpiry (x : Bogie) (s : State) : State :=
  s.setSup x { s.afe.sup.get x with steady := .complete }

/-- R162: the disagreement timer expires. -/
def disagreementExpiry (x : Bogie) (s : State) : State :=
  raisePressure x (s.setSup x { s.afe.sup.get x with disagree := none, cause := true })

/-- R163: the agreement timer expires. -/
def agreementExpiry (x : Bogie) (s : State) : State :=
  endPressure x (s.setSup x { s.afe.sup.get x with agree := none, cause := false })

end Sys2Proof.Machine
end

