-- ==== Sys2Proof/Machine/Samples.lean ====
section
/-! DEFINITION. Sample arrivals at the readers (R15), window expiries (R5), and the requests that take an axle
out of supervision and back (R20, R21). -/

namespace Sys2Proof.Machine

/-- R45, R181: an arrival at ADH; a change of adhesion state is judged by SFC at once. -/
def adhArrivalJudged (x : Axle) (p : Sample) (raised : Bool) (s : State) : State :=
  let t := adhArrival x p raised s
  if raised then judgeAxles t else t

/-- R15: the arrival at the readers, in any order. HHU sets a ground sample aside (R131). -/
def deliverSample (c : Chan) (p : Sample) (raised : Bool) (s : State) : State :=
  match c with
  | .axle x =>
    inSomeOrder [refArrival x p, adhArrivalJudged x p raised, tripArrival x p, hillArrival x p] s
  | .ground => refGround p s

/-- R5: a window period expires; the window stretches, or closes and its sample is published. -/
def windowExpiry (c : Chan) (w : Window) (s : State) : State :=
  let outcome := windowOutcome w.forward w.reverse w.periods
  if outcome = .stretch then stretchWindow c w s
  else
    let r := closeWindow c w outcome s
    deliverSample c r.1 r.2.1 r.2.2

/-- R20: AXLE ISOLATE acts on an axle whose isolation flag is clear. -/
def applyIsolate (x : Axle) (s : State) : State :=
  if (s.wsc.axle.get x).isolated then s else judgeAxles (isolateAxle x (isolateChannel x s))

/-- R20, at WSC. -/
def takeAxleIsolate (tag axle : Byte) (s : State) : State :=
  match Axle.ofNumber? axle.toNat with
  | none => answer .axleIsolate tag (.refusedRange 1) s
  | some x => applyIsolate x (answer .axleIsolate tag (.ok []) s)

/-- R21: AXLE RESTORE acts on an isolated axle and on one in FAULT. -/
def applyRestore (x : Axle) (s : State) : State :=
  if (s.wsc.axle.get x).isolated ∨ s.adhState x = .fault then
    restoreAxle x (unlatchFault (.sensor x) (restoreChannel x s))
  else s

/-- R21, at WSC. -/
def takeAxleRestore (tag axle : Byte) (s : State) : State :=
  match Axle.ofNumber? axle.toNat with
  | none => answer .axleRestore tag (.refusedRange 1) s
  | some x =>
    if (s.fault (.sensor x)).active then answer .axleRestore tag .stillActive s
    else applyRestore x (answer .axleRestore tag (.ok []) s)

end Sys2Proof.Machine
end

