-- ==== Sys2Proof/Machine/Requests.lean ====
section
/-! DEFINITION. The requests of SFC, SND and LNK that the other files do not hold: CONFIGURE (R183, R184),
FAULT CLEAR (R187), the queries (R188, R198, R199), SAND REQUEST (R141) and SAND FILL (R151). -/

namespace Sys2Proof.Machine

/-! CONFIGURE -/

/-- R183, check 2, Table 9-4: the section is taken in the present operating state. -/
def takenInState (s : State) (sec : Nat) : Bool :=
  decide (16 ≤ sec) || decide (s.sfc.opState = .unconfigured) || decide (s.sfc.opState = .ready)

/-- R183, check 3: a TRIP section whose bogie has a dump episode open. -/
def sectionBusy (s : State) (id : SectionId) : Bool :=
  match id with
  | .trip x => s.dumpOpen x
  | _ => false

/-- R183: the result of a CONFIGURE whose length fits. -/
def configureResult (sec : Nat) (fields : List Nat) (s : State) : Result :=
  match SectionId.ofNumber? sec with
  | none => .refusedRange 0
  | some id =>
    if !takenInState s sec then .refusedState
    else if sectionBusy s id then .refusedBusy
    else match fieldOutOfRange sec fields with
      | some i => .refusedRange i
      | none => .ok (sentBytes (markSent sec s.sfc.sent))

/-- R184, Table 9-6: what the taking of a section that is stored does at the blocks. -/
def sectionEffect (id : SectionId) (fields : List Nat) (s : State) : State :=
  match id with
  | .vehicle => rerun s
  | .axle x => channelSection (.axle x) (some (axleCfgOf fields).diameter) s
  | .ground => channelSection .ground none s
  | .analog c => analogSection c (analogCfgOf fields) s
  | .blend => if s.sfc.opState = .ready then parkOutputs s else s
  | .adhesion => s
  | .hold => s
  | .sand => judgeEnds s
  | .trip x => zeroCounters x s

/-- R178: the last missing required section moves the part to READY. -/
def judgeConfigured (s : State) : State :=
  if s.sfc.opState = .unconfigured ∧ allRequiredSent s.sfc.sent then
    changeState .ready .configured [parkOutputs] s
  else s

/-- R183, R184: a section that passes is stored whole, marked, and applied. -/
def applySection (id : SectionId) (sec : Nat) (fields : List Nat) (s : State) : State :=
  judgeConfigured (sectionEffect id fields { s with sfc := { s.sfc with
    cfg := storeSection id fields s.sfc.cfg, sent := markSent sec s.sfc.sent } })

/-- R183, at SFC; R193 case 4 before it. -/
def takeConfigure (tag sec : Byte) (fields : List Nat) (s : State) : State :=
  if !fieldsFit sec fields then answer .configure tag .badLength s
  else
    let r := configureResult sec.toNat fields s
    let t := answer .configure tag r s
    match SectionId.ofNumber? sec.toNat, r with
    | some id, .ok _ => applySection id sec.toNat fields t
    | _, _ => t

/-! FAULT CLEAR (R187) -/

/-- R187: the records the request names; the index of the field out of range otherwise. -/
def clearTarget (kind number : Byte) : Except Nat FaultId :=
  match faultInstances kind.toNat with
  | none => .error 1
  | some l => match l[number.toNat]? with
    | none => .error 2
    | some id => .ok id

/-- R187: the number of records that ALL skips. -/
def skipped (s : State) : Nat := (FaultId.all.filter fun id => (s.fault id).active).length

/-- R187: the result of a FAULT CLEAR; kind 255 selects ALL. -/
def faultClearResult (kind number : Byte) (s : State) : Result :=
  if kind = 255 then .ok (one (skipped s))
  else match clearTarget kind number with
    | .error i => .refusedRange i
    | .ok id => if (s.fault id).active then .stillActive else .ok []

/-- R186: the clearing of a PRESSURE record's latched mark is delivered to BLD; one re-run stands for two or
three clearings of one ALL (log 50). -/
def deliverUnlatch (old s : State) : State :=
  if Bogie.all.any fun x => (old.fault (.pressure x)).latched && !(s.fault (.pressure x)).latched then
    rerun s
  else s

/-- R187: a record that is not active is cleared. -/
def clearInactive (id : FaultId) (s : State) : State :=
  if (s.fault id).active then s else clearFault id s

/-- R187: what a FAULT CLEAR changes; under ALL BLD takes the clearings after the last (log 50). -/
def clearFaults (kind number : Byte) (s : State) : State :=
  deliverUnlatch s (if kind = 255 then FaultId.all.foldl (fun t id => clearInactive id t) s
    else match clearTarget kind number with
      | .error _ => s
      | .ok id => clearInactive id s)

/-- R187, at SFC. -/
def takeFaultClear (tag kind number : Byte) (s : State) : State :=
  clearFaults kind number (answer .faultClear tag (faultClearResult kind number s) s)

/-! Queries (R188, R198, R199) -/

def takeIdentify (tag : Byte) (s : State) : State := answer .identify tag (.ok (identityBody s)) s

def takeFaultQuery (tag : Byte) (s : State) : State :=
  answer .faultQuery tag (.ok (faultTableBody s)) s

/-- R198: LNK clears both flags at the taking. -/
def takeStatusQuery (tag group : Byte) (s : State) : State :=
  match statusGroup s group.toNat with
  | none => answer .statusQuery tag (.refusedRange 1) s
  | some contents =>
    answer .statusQuery tag (.ok (statusBody s group.toNat contents))
      { s with lnk := { s.lnk with reportsLost := false, requestsDiscarded := false } }

/-! SAND REQUEST (R141) and SAND FILL (R151) -/

/-- R141: the end a SAND REQUEST names, with the leading mark; none for a code out of range. -/
def sandEnd (s : State) (code : Byte) : Option (Side × Bool) :=
  if code = 0 then some (s.travel.leading, true)
  else (sideOfCode? code.toNat).map fun e => (e, false)

/-- R141. -/
def sandRequestResult (side shots : Byte) (s : State) : Result :=
  match sandEnd s side with
  | none => .refusedRange 1
  | some (e, _) =>
    if shots.toNat < 1 ∨ 10 < shots.toNat then .refusedRange 2
    else if !s.isActive then .refusedState
    else match placement .manual e shots.toNat s with
      | none => .refusedFull none
      | some (arrival, total) => .ok (one e.number ++ two arrival.toNat ++ one total)

/-- R141, at SND. -/
def takeSandRequest (tag side shots : Byte) (s : State) : State :=
  let r := sandRequestResult side shots s
  let t := answer .sandRequest tag r s
  match sandEnd s side, r with
  | some (e, leading), .ok _ => joinSand .manual e leading shots.toNat t
  | _, _ => t

/-- R151. -/
def sandFillResult (side : Byte) (level : BitVec 16) : Result :=
  match sideOfCode? side.toNat with
  | none => .refusedRange 1
  | some _ => if 60000 < level.toNat then .refusedRange 2 else .ok []

/-- R151, at SND. -/
def takeSandFill (tag side : Byte) (level : BitVec 16) (s : State) : State :=
  let t := answer .sandFill tag (sandFillResult side level) s
  match sideOfCode? side.toNat, sandFillResult side level with
  | some e, .ok _ => fillSand e level.toNat t
  | _, _ => t

end Sys2Proof.Machine
end

