-- ==== Sys2Proof/Machine/Link.lean ====
section
/-! DEFINITION. The link controller (10: R190 to R197): the receive framer, discards, the disposal of a good
frame, and the end of a transmitted frame. -/

namespace Sys2Proof.Machine

/-! Discards and good frames (R192) -/

/-- R191: the framer returns to HUNTING with the gap timer stopped. -/
def hunt (s : State) : State := { s with lnk := { s.lnk with framer := .hunting, gapTimer := none } }

/-- R192: a discard. -/
def discardFrame (s : State) : State :=
  let t := { s with lnk.discards := min 4 (s.lnk.discards + 1) }
  if t.lnk.discards = 4 then raiseFault .link t else t

/-- R192: a good frame returns the count to 0 and makes the LINK record inactive. -/
def countGood (s : State) : State :=
  let t := { s with lnk.discards := 0 }
  if (t.fault .link).active then endFault .link t else t

/-! Requests on the line (R193, Table 10-5) -/

/-- Table 10-5: the request a kind byte names. -/
def ReqKind.ofByte? (kind : Byte) : Option ReqKind := ReqKind.all.find? fun k => k.code = kind

/-- R193, case 4: a CONFIGURE body; any length passes for a section number above 19. -/
def configureOf (tag : Byte) : List Byte → Option Instr
  | [] => none
  | sec :: rest =>
    match sectionWidths sec.toNat with
    | some ws => (splitFields ws rest).map fun f => .configure tag sec f
    | none => some (.configure tag sec (rest.map BitVec.toNat))

/-- R193, case 4: a SEGMENT APPEND body. -/
def segmentAppendOf (tag : Byte) : List Byte → Option Instr
  | [] => none
  | count :: rest =>
    if rest.length = 10 * count.toNat then
      some (.segmentAppend tag count (segmentWordsOf count.toNat rest))
    else none

/-- The word at the head of a body's bytes. -/
def word16 (hi lo : Byte) : BitVec 16 := hi ++ lo

def word32 (b3 b2 b1 b0 : Byte) : BitVec 32 := b3 ++ b2 ++ b1 ++ b0

/-- R193, case 4, R194: the request a body of the kind spells; none for a body of the wrong length. -/
def requestOf (kind : ReqKind) (tag : Byte) (body : List Byte) : Option Instr :=
  match kind, body with
  | .identify, [] => some (.identify tag)
  | .configure, l => configureOf tag l
  | .start, [] => some (.start tag)
  | .stop, [] => some (.stop tag)
  | .restart, [] => some (.restart tag)
  | .demand, [mode, dir, e1, e0, permitted] => some (.demand tag mode dir (word16 e1 e0) permitted)
  | .referenceSelect, [mode] => some (.referenceSelect tag mode)
  | .axleIsolate, [axle] => some (.axleIsolate tag axle)
  | .axleRestore, [axle] => some (.axleRestore tag axle)
  | .wheelTrim, [axle, d1, d0] => some (.wheelTrim tag axle (word16 d1 d0))
  | .segmentAppend, l => segmentAppendOf tag l
  | .routeFlush, [] => some (.routeFlush tag)
  | .positionFix, [i1, i0, o3, o2, o1, o0] =>
    some (.positionFix tag (word16 i1 i0) (word32 o3 o2 o1 o0))
  | .sandRequest, [side, shots] => some (.sandRequest tag side shots)
  | .sandFill, [side, l1, l0] => some (.sandFill tag side (word16 l1 l0))
  | .statusQuery, [group] => some (.statusQuery tag group)
  | .faultQuery, [] => some (.faultQuery tag)
  | .faultClear, [kind, number] => some (.faultClear tag kind number)
  | _, _ => none

/-- R193, case 5: the owner of a request takes it. A command that is no request passes nothing on. -/
def passToOwner (i : Instr) (s : State) : State :=
  match i with
  | .identify tag => takeIdentify tag s
  | .configure tag sec fields => takeConfigure tag sec fields s
  | .start tag => takeStart tag s
  | .stop tag => takeStop tag s
  | .restart tag => takeRestart tag s
  | .demand tag mode dir effort permitted => takeDemand tag mode dir effort permitted s
  | .referenceSelect tag mode => takeReferenceSelect tag mode s
  | .axleIsolate tag axle => takeAxleIsolate tag axle s
  | .axleRestore tag axle => takeAxleRestore tag axle s
  | .wheelTrim tag axle diameter => takeWheelTrim tag axle diameter s
  | .segmentAppend tag count records => takeSegmentAppend tag count records s
  | .routeFlush tag => takeRouteFlush tag s
  | .positionFix tag id offset => takePositionFix tag id offset s
  | .sandRequest tag side shots => takeSandRequest tag side shots s
  | .sandFill tag side level => takeSandFill tag side level s
  | .statusQuery tag group => takeStatusQuery tag group s
  | .faultQuery tag => takeFaultQuery tag s
  | .faultClear tag kind number => takeFaultClear tag kind number s
  | _ => s

/-- R193, cases 3 to 5. -/
def dispose (kind tag : Byte) (body : List Byte) (s : State) : State :=
  match ReqKind.ofByte? kind with
  | none => sendReply ⟨kind, tag, .unknownKind⟩ s
  | some k =>
    match requestOf k tag body with
    | none => sendReply ⟨kind, tag, .badLength⟩ s
    | some i => passToOwner i s

/-- R191 to R193: a frame whose second CRC byte has come, with the CRC it carries; with a restart pending
it changes nothing, good or not (R182, R192, log 8). -/
def completeFrame (kind tag : Byte) (body : List Byte) (crc : BitVec 16) (s : State) : State :=
  if s.sfc.restartPending then s
  else if crc16 (one body.length ++ [kind, tag] ++ body) = crc then
    asRequest (dispose kind tag body) (countGood s)
  else discardFrame s

/-! The framer (R191) -/

/-- A whole request frame as the framer ends it (log 7). -/
def takeFrame (f : RxFrame) (s : State) : State :=
  if 96 < f.body.length ∨ f.framingError then discardFrame (hunt s)
  else completeFrame f.kind f.tag f.body f.crc (hunt s)

/-- R191: the bytes after the start byte are a whole frame: its kind, tag, body and CRC. -/
def wholeFrame : List Byte → Option (Byte × Byte × List Byte × BitVec 16)
  | n :: kind :: tag :: rest =>
    match rest.drop n.toNat with
    | [hi, lo] => some (kind, tag, rest.take n.toNat, word16 hi lo)
    | _ => none
  | _ => none

/-- R191: a byte in frame after `bytes`. -/
def byteInFrame (bytes : List Byte) (x : Byte) (s : State) : State :=
  let l := bytes ++ [x]
  if bytes = [] ∧ 96 < x.toNat then discardFrame (hunt s)
  else match wholeFrame l with
    | some (kind, tag, body, crc) => completeFrame kind tag body crc (hunt s)
    | none => { s with lnk := { s.lnk with framer := .inFrame l, gapTimer := s.timer 2 } }

/-- R189, R191: a received byte. -/
def takeByte (x : Byte) (framingError : Bool) (s : State) : State :=
  match s.lnk.framer with
  | .hunting =>
    if !framingError ∧ x = 0xD1 then
      { s with lnk := { s.lnk with framer := .inFrame [], gapTimer := s.timer 2 } }
    else s
  | .inFrame bytes => if framingError then discardFrame (hunt s) else byteInFrame bytes x s

/-! The end of a transmitted frame (R182, R197) -/

/-- The frame in flight is the OK reply to the RESTART that is pending. -/
def restartReplyInFlight (s : State) : Bool :=
  s.sfc.restartPending &&
    match s.lnk.inFlight with
    | some (.reply r) => decide (r.kind = ReqKind.restart.code) && decide (r.result = .ok [])
    | _ => false

/-- R182, R197: the last byte of the frame in flight is sent: the line becomes free, or the restart takes
effect; on an idle line nothing occurs (log 9). -/
def frameSent (s : State) : State :=
  match s.lnk.inFlight with
  | none => s
  | some _ =>
    if restartReplyInFlight s then restartEffect s
    else arbitrate { s with lnk.inFlight := none }

end Sys2Proof.Machine
end

