-- ==== Sys2Proof/Machine/FieldEvents.lean ====
section
/-! DEFINITION. Power-on reset, the field events and the events of the serial line, as commands. -/

namespace Sys2Proof.Machine

/-- R177, R189. -/
def execPowerOnReset (lowTied highTied : Bool) (s : State) : Host.Outcome State Fault Refusal :=
  .next (powerOn lowTied highTied s)

/-- R193. -/
def execFrameReceived (f : RxFrame) (s : State) : Host.Outcome State Fault Refusal :=
  .next (takeFrame f s)

/-- R191. -/
def execReceivedByte (x : Byte) (framingError : Bool) (s : State) : Host.Outcome State Fault Refusal :=
  .next (takeByte x framingError s)

/-- R197. -/
def execFrameTransmitted (s : State) : Host.Outcome State Fault Refusal := .next (frameSent s)

/-- R182: the last byte of the RESTART reply; without that reply in flight nothing occurs (log 9). -/
def execRestartTakesEffect (s : State) : Host.Outcome State Fault Refusal :=
  .next (if restartReplyInFlight s then restartEffect s else s)

/-- R3, R12. -/
def execSpeedSensorEdge (line : SensorLine) (edge : LineEdge) (s : State) :
    Host.Outcome State Fault Refusal :=
  .next (takeEdge (sensorChan line) (edgeDirection line edge) s)

/-- R12. -/
def execGroundValidLineDrop (staysLow : Bool) (s : State) : Host.Outcome State Fault Refusal :=
  .next (dropGround staysLow s)

/-- R97. -/
def execEblOpen (s : State) : Host.Outcome State Fault Refusal := .next (openLoop s)

/-- R97. -/
def execEblClose (s : State) : Host.Outcome State Fault Refusal := .next (closeLoop s)

/-- R157. -/
def execAnalogConversion (c : Analog) (code : BitVec 12) (s : State) :
    Host.Outcome State Fault Refusal :=
  .next (takeConversion c code s)

end Sys2Proof.Machine
end

