-- ==== Sys2Proof/Machine/RequestCommands.lean ====
section
/-! DEFINITION. The requests of the vehicle computer, as commands: each passes the two checks of R193 that come
before its owner, and its owner takes it (log 6). -/

namespace Sys2Proof.Machine

/-- R199. -/
def execIdentify (tag : Byte) (s : State) : Host.Outcome State Fault Refusal :=
  .next (asRequest (takeIdentify tag) s)

/-- R183, R184. -/
def execConfigure (tag sec : Byte) (fields : List Nat) (s : State) : Host.Outcome State Fault Refusal :=
  .next (asRequest (takeConfigure tag sec fields) s)

/-- R179. -/
def execStart (tag : Byte) (s : State) : Host.Outcome State Fault Refusal :=
  .next (asRequest (takeStart tag) s)

/-- R180. -/
def execStop (tag : Byte) (s : State) : Host.Outcome State Fault Refusal :=
  .next (asRequest (takeStop tag) s)

/-- R182. -/
def execRestart (tag : Byte) (s : State) : Host.Outcome State Fault Refusal :=
  .next (asRequest (takeRestart tag) s)

/-- R92. -/
def execDemand (tag mode dir : Byte) (effort : BitVec 16) (permitted : Byte) (s : State) :
    Host.Outcome State Fault Refusal :=
  .next (asRequest (takeDemand tag mode dir effort permitted) s)

/-- R31. -/
def execReferenceSelect (tag mode : Byte) (s : State) : Host.Outcome State Fault Refusal :=
  .next (asRequest (takeReferenceSelect tag mode) s)

/-- R20. -/
def execAxleIsolate (tag axle : Byte) (s : State) : Host.Outcome State Fault Refusal :=
  .next (asRequest (takeAxleIsolate tag axle) s)

/-- R21. -/
def execAxleRestore (tag axle : Byte) (s : State) : Host.Outcome State Fault Refusal :=
  .next (asRequest (takeAxleRestore tag axle) s)

/-- R7. -/
def execWheelTrim (tag axle : Byte) (diameter : BitVec 16) (s : State) :
    Host.Outcome State Fault Refusal :=
  .next (asRequest (takeWheelTrim tag axle diameter) s)

/-- R77, R78. -/
def execSegmentAppend (tag count : Byte) (records : List SegmentWord) (s : State) :
    Host.Outcome State Fault Refusal :=
  .next (asRequest (takeSegmentAppend tag count records) s)

/-- R86. -/
def execRouteFlush (tag : Byte) (s : State) : Host.Outcome State Fault Refusal :=
  .next (asRequest (takeRouteFlush tag) s)

/-- R84, R85. -/
def execPositionFix (tag : Byte) (id : BitVec 16) (offset : BitVec 32) (s : State) :
    Host.Outcome State Fault Refusal :=
  .next (asRequest (takePositionFix tag id offset) s)

/-- R141. -/
def execSandRequest (tag side shots : Byte) (s : State) : Host.Outcome State Fault Refusal :=
  .next (asRequest (takeSandRequest tag side shots) s)

/-- R151. -/
def execSandFill (tag side : Byte) (level : BitVec 16) (s : State) : Host.Outcome State Fault Refusal :=
  .next (asRequest (takeSandFill tag side level) s)

/-- R198. -/
def execStatusQuery (tag group : Byte) (s : State) : Host.Outcome State Fault Refusal :=
  .next (asRequest (takeStatusQuery tag group) s)

/-- R188. -/
def execFaultQuery (tag : Byte) (s : State) : Host.Outcome State Fault Refusal :=
  .next (asRequest (takeFaultQuery tag) s)

/-- R187. -/
def execFaultClear (tag kind number : Byte) (s : State) : Host.Outcome State Fault Refusal :=
  .next (asRequest (takeFaultClear tag kind number) s)

end Sys2Proof.Machine
end

