-- ==== Sys2Proof/Machine/Timers.lean ====
section
/-! DEFINITION. The expiries and completions: when each is due, its meaning as a command, and the tick that
puts those that have come due into the queue. A command whose timer is stopped or not yet due has no event to
stand for and changes nothing (log 5). -/

namespace Sys2Proof.Machine

/-- The shot timer of an end (R148). -/
def shotTimer (s : State) (e : Side) : Timer := ((s.snd.valve.get e).shot?).map Shot.due

/-- The age timer of the entry of a source and an end (R143). -/
def ageTimer (s : State) (source : SandSource) (e : Side) : Timer :=
  (s.snd.queue.find? (SandEntry.isFor source e)).bind SandEntry.age

/-- The window-period timer of a channel (R5). -/
def windowTimer (s : State) (c : Chan) : Timer :=
  match (s.chan c).state with
  | .unset => none
  | .measuring w => some w.due

/-- R113: a ramp in flight has reached its aim. -/
def rampReached (s : State) (x : Bogie) : Bool :=
  match s.bld.out.get x with
  | .ramp _ _ aim => s.pressure x = aim
  | .absent => false
  | .steady _ => false

/-- R128: a falling floor has reached 0. -/
def floorReached (s : State) (x : Bogie) : Bool :=
  decide (s.hhu.state = .releasing) && (s.hhu.ramp.get x).isSome && decide (s.floor x = 0)

/-- The expiry or completion a command names is due; false for the other commands. -/
def expiryDue (i : Instr) (s : State) : Bool :=
  match i with
  | .gapTimerExpiry => s.expired s.lnk.gapTimer
  | .windowPeriodExpiry c => s.expired (windowTimer s c)
  | .heldTimerExpiry => decide (s.ref.active = .held) && s.expired s.ref.heldTimer
  | .standstillConfirmExpiry => s.confirmExpired s.ref.confirm
  | .lowAdhesionTimerExpiry x => s.expired (s.adh.bogie.get x).lowTimer
  | .demandTimerExpiry => s.expired s.bld.demand.timer
  | .trackBrakeOnTimerExpiry => s.expired s.bld.onTimer
  | .trackBrakeOffTimerExpiry => s.expired s.bld.offTimer
  | .pressureRampCompletion x => rampReached s x
  | .releaseConfirmExpiry => decide (s.hhu.state = .takeUp) && s.confirmExpired s.hhu.confirm
  | .takeUpTimerExpiry => decide (s.hhu.state = .takeUp) && s.expired s.hhu.takeUp
  | .releaseRampCompletion x => floorReached s x
  | .shotTimerExpiry e => s.expired (shotTimer s e)
  | .recoveryTimerExpiry e => s.expired (s.snd.valve.get e).recoveryTimer
  | .ageTimerExpiry source e => s.expired (ageTimer s source e)
  | .emergencyRepeatTimerExpiry => s.expired s.snd.repeatTimer
  | .steadyTimerExpiry x => s.confirmExpired (s.afe.sup.get x).steady
  | .disagreementTimerExpiry x => s.expired (s.afe.sup.get x).disagree
  | .agreementTimerExpiry x => s.expired (s.afe.sup.get x).agree
  | .dumpLimitTimerExpiry x => s.dumpOpen x && s.expired (s.stu.bogie.get x).limitTimer
  | .referenceLostTimerExpiry => s.expired s.sfc.refLostTimer
  | _ => false

/-- `effect` where the expiry is due. -/
def whenDue (i : Instr) (effect : State → State) (s : State) : State :=
  if expiryDue i s then effect s else s

/-! Effects with no block file of their own -/

/-- R109: the on-timer expires; the track brakes go on and the allocation re-runs. -/
def trackOn (s : State) : State := rerun { s with bld := { s.bld with track := true, onTimer := none } }

/-- R110: the off-timer expires; the track brakes go off and the allocation re-runs. -/
def trackOff (s : State) : State :=
  rerun { s with bld := { s.bld with track := false, offTimer := none } }

/-- R113, R115: a ramp completes and the output is steady. -/
def completeRamp (x : Bogie) (s : State) : State :=
  outputSteady x (s.setOutput x (.steady (s.bld.out.get x).aim))

/-- R148: the recovery ends; the valve is CLOSED and the arbiter judges. -/
def recoveryEnd (e : Side) (s : State) : State := judgeEnd e (s.setValve e .closed)

/-- R143: the entry's age has run out. -/
def ageOut (source : SandSource) (e : Side) (s : State) : State :=
  dropEntries (SandEntry.isFor source e) s

/-- R181, REFERENCE: the reference-lost timer expires. -/
def referenceLostExpiry (s : State) : State :=
  enterFailsafe .failsafeReference { s with sfc.refLostTimer := none }

/-- R5: the window of a channel whose period expires. -/
def windowPeriodEnd (c : Chan) (s : State) : State :=
  match (s.chan c).state with
  | .unset => s
  | .measuring w => windowExpiry c w s

/-! The commands -/

/-- R191. -/
def execGapTimerExpiry (s : State) : Host.Outcome State Fault Refusal :=
  .next (whenDue .gapTimerExpiry (fun t => discardFrame (hunt t)) s)

/-- R5. -/
def execWindowPeriodExpiry (c : Chan) (s : State) : Host.Outcome State Fault Refusal :=
  .next (whenDue (.windowPeriodExpiry c) (windowPeriodEnd c) s)

/-- R35. -/
def execHeldTimerExpiry (s : State) : Host.Outcome State Fault Refusal :=
  .next (whenDue .heldTimerExpiry heldExpiry s)

/-- R38. -/
def execStandstillConfirmExpiry (s : State) : Host.Outcome State Fault Refusal :=
  .next (whenDue .standstillConfirmExpiry confirmExpiry s)

/-- R64. -/
def execLowAdhesionTimerExpiry (x : Bogie) (s : State) : Host.Outcome State Fault Refusal :=
  .next (whenDue (.lowAdhesionTimerExpiry x) (lowExpiry x) s)

/-- R95. -/
def execDemandTimerExpiry (s : State) : Host.Outcome State Fault Refusal :=
  .next (whenDue .demandTimerExpiry demandTimeout s)

/-- R109. -/
def execTrackBrakeOnTimerExpiry (s : State) : Host.Outcome State Fault Refusal :=
  .next (whenDue .trackBrakeOnTimerExpiry trackOn s)

/-- R110. -/
def execTrackBrakeOffTimerExpiry (s : State) : Host.Outcome State Fault Refusal :=
  .next (whenDue .trackBrakeOffTimerExpiry trackOff s)

/-- R113. -/
def execPressureRampCompletion (x : Bogie) (s : State) : Host.Outcome State Fault Refusal :=
  .next (whenDue (.pressureRampCompletion x) (completeRamp x) s)

/-- R126. -/
def execReleaseConfirmExpiry (s : State) : Host.Outcome State Fault Refusal :=
  .next (whenDue .releaseConfirmExpiry confirmComplete s)

/-- R127. -/
def execTakeUpTimerExpiry (s : State) : Host.Outcome State Fault Refusal :=
  .next (whenDue .takeUpTimerExpiry takeUpTimeout s)

/-- R128. -/
def execReleaseRampCompletion (x : Bogie) (s : State) : Host.Outcome State Fault Refusal :=
  .next (whenDue (.releaseRampCompletion x) (releaseRampDone x) s)

/-- R148. -/
def execShotTimerExpiry (e : Side) (s : State) : Host.Outcome State Fault Refusal :=
  .next (whenDue (.shotTimerExpiry e) (closeShot .ended e) s)

/-- R148. -/
def execRecoveryTimerExpiry (e : Side) (s : State) : Host.Outcome State Fault Refusal :=
  .next (whenDue (.recoveryTimerExpiry e) (recoveryEnd e) s)

/-- R143. -/
def execAgeTimerExpiry (source : SandSource) (e : Side) (s : State) :
    Host.Outcome State Fault Refusal :=
  .next (whenDue (.ageTimerExpiry source e) (ageOut source e) s)

/-- R142. -/
def execEmergencyRepeatTimerExpiry (s : State) : Host.Outcome State Fault Refusal :=
  .next (whenDue .emergencyRepeatTimerExpiry emergencySand s)

/-- R161. -/
def execSteadyTimerExpiry (x : Bogie) (s : State) : Host.Outcome State Fault Refusal :=
  .next (whenDue (.steadyTimerExpiry x) (steadyExpiry x) s)

/-- R162. -/
def execDisagreementTimerExpiry (x : Bogie) (s : State) : Host.Outcome State Fault Refusal :=
  .next (whenDue (.disagreementTimerExpiry x) (disagreementExpiry x) s)

/-- R163. -/
def execAgreementTimerExpiry (x : Bogie) (s : State) : Host.Outcome State Fault Refusal :=
  .next (whenDue (.agreementTimerExpiry x) (agreementExpiry x) s)

/-- R171. -/
def execDumpLimitTimerExpiry (x : Bogie) (s : State) : Host.Outcome State Fault Refusal :=
  .next (whenDue (.dumpLimitTimerExpiry x) (closeDump .limit 0 0 allPlain x) s)

/-- R181. -/
def execReferenceLostTimerExpiry (s : State) : Host.Outcome State Fault Refusal :=
  .next (whenDue .referenceLostTimerExpiry referenceLostExpiry s)

/-! The tick (log 2) -/

/-- The expiry and completion commands there can be; an age expiry for each entry of the sand queue. -/
def expiryCommands (s : State) : List Instr :=
  [.gapTimerExpiry, .heldTimerExpiry, .standstillConfirmExpiry, .demandTimerExpiry,
   .trackBrakeOnTimerExpiry, .trackBrakeOffTimerExpiry, .releaseConfirmExpiry, .takeUpTimerExpiry,
   .emergencyRepeatTimerExpiry, .referenceLostTimerExpiry]
    ++ Chan.all.map .windowPeriodExpiry
    ++ (Bogie.all.flatMap fun x =>
      [.lowAdhesionTimerExpiry x, .pressureRampCompletion x, .releaseRampCompletion x,
       .steadyTimerExpiry x, .disagreementTimerExpiry x, .agreementTimerExpiry x,
       .dumpLimitTimerExpiry x])
    ++ (Side.all.flatMap fun e => [.shotTimerExpiry e, .recoveryTimerExpiry e])
    ++ s.snd.queue.map fun x => .ageTimerExpiry x.source x.side

/-- The commands of the timers and ramps that are due. -/
def dueCommands (s : State) : List Instr := (expiryCommands s).filter fun i => expiryDue i s

/-- One microsecond passes; the commands due then join the queue, in an order the manual leaves open where
there are two or more. -/
def tick (s : State) : State :=
  let t := { s with clock := s.clock + 1 }
  let due := dueCommands t
  if due.length ≤ 1 then { t with pending := t.pending ++ due }
  else
    let d := drawFrom Config.freeOrder t
    { d.2 with pending := d.2.pending ++ arrange due.length d.1 due }

end Sys2Proof.Machine
end

