-- ==== Sys2Proof/Machine/Dispatch.lean ====
section
/-! DEFINITION. The dispatch: one arm per command, one direct call of its meaning. -/

namespace Sys2Proof.Machine

def exec (i : Instr) (s : State) : Host.Outcome State Fault Refusal :=
  match i with
  | .powerOnReset lowTied highTied => Sys2Proof.Machine.execPowerOnReset lowTied highTied s
  | .frameReceived f => Sys2Proof.Machine.execFrameReceived f s
  | .gapTimerExpiry => Sys2Proof.Machine.execGapTimerExpiry s
  | .frameTransmitted => Sys2Proof.Machine.execFrameTransmitted s
  | .restartTakesEffect => Sys2Proof.Machine.execRestartTakesEffect s
  | .identify tag => Sys2Proof.Machine.execIdentify tag s
  | .configure tag sec fields => Sys2Proof.Machine.execConfigure tag sec fields s
  | .start tag => Sys2Proof.Machine.execStart tag s
  | .stop tag => Sys2Proof.Machine.execStop tag s
  | .restart tag => Sys2Proof.Machine.execRestart tag s
  | .demand tag mode dir effort permitted => Sys2Proof.Machine.execDemand tag mode dir effort permitted s
  | .referenceSelect tag mode => Sys2Proof.Machine.execReferenceSelect tag mode s
  | .axleIsolate tag axle => Sys2Proof.Machine.execAxleIsolate tag axle s
  | .axleRestore tag axle => Sys2Proof.Machine.execAxleRestore tag axle s
  | .wheelTrim tag axle diameter => Sys2Proof.Machine.execWheelTrim tag axle diameter s
  | .segmentAppend tag count records => Sys2Proof.Machine.execSegmentAppend tag count records s
  | .routeFlush tag => Sys2Proof.Machine.execRouteFlush tag s
  | .positionFix tag id offset => Sys2Proof.Machine.execPositionFix tag id offset s
  | .sandRequest tag side shots => Sys2Proof.Machine.execSandRequest tag side shots s
  | .sandFill tag side level => Sys2Proof.Machine.execSandFill tag side level s
  | .statusQuery tag group => Sys2Proof.Machine.execStatusQuery tag group s
  | .faultQuery tag => Sys2Proof.Machine.execFaultQuery tag s
  | .faultClear tag kind number => Sys2Proof.Machine.execFaultClear tag kind number s
  | .speedSensorEdge line edge => Sys2Proof.Machine.execSpeedSensorEdge line edge s
  | .groundValidLineDrop staysLow => Sys2Proof.Machine.execGroundValidLineDrop staysLow s
  | .windowPeriodExpiry c => Sys2Proof.Machine.execWindowPeriodExpiry c s
  | .heldTimerExpiry => Sys2Proof.Machine.execHeldTimerExpiry s
  | .standstillConfirmExpiry => Sys2Proof.Machine.execStandstillConfirmExpiry s
  | .lowAdhesionTimerExpiry x => Sys2Proof.Machine.execLowAdhesionTimerExpiry x s
  | .demandTimerExpiry => Sys2Proof.Machine.execDemandTimerExpiry s
  | .eblOpen => Sys2Proof.Machine.execEblOpen s
  | .eblClose => Sys2Proof.Machine.execEblClose s
  | .trackBrakeOnTimerExpiry => Sys2Proof.Machine.execTrackBrakeOnTimerExpiry s
  | .trackBrakeOffTimerExpiry => Sys2Proof.Machine.execTrackBrakeOffTimerExpiry s
  | .pressureRampCompletion x => Sys2Proof.Machine.execPressureRampCompletion x s
  | .releaseConfirmExpiry => Sys2Proof.Machine.execReleaseConfirmExpiry s
  | .takeUpTimerExpiry => Sys2Proof.Machine.execTakeUpTimerExpiry s
  | .releaseRampCompletion x => Sys2Proof.Machine.execReleaseRampCompletion x s
  | .shotTimerExpiry e => Sys2Proof.Machine.execShotTimerExpiry e s
  | .recoveryTimerExpiry e => Sys2Proof.Machine.execRecoveryTimerExpiry e s
  | .ageTimerExpiry source e => Sys2Proof.Machine.execAgeTimerExpiry source e s
  | .emergencyRepeatTimerExpiry => Sys2Proof.Machine.execEmergencyRepeatTimerExpiry s
  | .analogConversion c code => Sys2Proof.Machine.execAnalogConversion c code s
  | .steadyTimerExpiry x => Sys2Proof.Machine.execSteadyTimerExpiry x s
  | .disagreementTimerExpiry x => Sys2Proof.Machine.execDisagreementTimerExpiry x s
  | .agreementTimerExpiry x => Sys2Proof.Machine.execAgreementTimerExpiry x s
  | .dumpLimitTimerExpiry x => Sys2Proof.Machine.execDumpLimitTimerExpiry x s
  | .referenceLostTimerExpiry => Sys2Proof.Machine.execReferenceLostTimerExpiry s
  | .receivedByte x framingError => Sys2Proof.Machine.execReceivedByte x framingError s

end Sys2Proof.Machine
end

