-- ==== Sys2Proof/Safety.lean ====
section
/-! DEFINITION. What it means for a state to keep the part's standing promises: predicates the statements say
every step keeps; and the words the statements share. -/

namespace Sys2Proof.Machine

/-! The link (R192, R195 to R197) -/

/-- R195, R196, Table 10-1: the bounds of the two queues and of the discard count. -/
abbrev linkBounded (l : Lnk) : Prop :=
  l.replies.length ≤ 4 ∧ l.reports.length ≤ 16 ∧ l.discards ≤ 4

/-- R197: a free line with a frame waiting does not stand. -/
abbrev arbiterBusy (l : Lnk) : Prop := l.inFlight = none → l.replies = [] ∧ l.reports = []

/-- R192: the LINK record is active exactly while the discard count stands at 4. -/
abbrev linkFaultFollows (l : Lnk) (r : FaultRec) : Prop := r.active = true ↔ l.discards = 4

/-- What stands of the link: its bounds, the busy arbiter, and the LINK record. -/
abbrev linkWf (s : State) : Prop :=
  linkBounded s.lnk ∧ arbiterBusy s.lnk ∧ linkFaultFollows s.lnk (s.fault .link)

/-! The fault table (R185, R186) -/

/-- R185: a count stays within 255; an active record is latched, and a latched one has been raised. -/
abbrev recordWf (r : FaultRec) : Prop :=
  r.count ≤ 255 ∧ (r.active = true → r.latched = true) ∧ (r.latched = true → 1 ≤ r.count)

/-- Every record of the table is well formed. -/
abbrev faultsWf (s : State) : Prop := ∀ id : FaultId, recordWf (s.fault id)

/-! The sand request queue (R137) -/

/-- R137: no two entries have the same source and the same end. -/
abbrev sourcesDistinct (q : List SandEntry) : Prop := (q.map fun x => (x.source, x.side)).Nodup

/-- R137, Table 7-2: at most eight entries, of distinct source and end, each with 1 to 10 shots. -/
abbrev sandWf (q : List SandEntry) : Prop :=
  q.length ≤ 8 ∧ sourcesDistinct q ∧ ∀ x ∈ q, 1 ≤ x.shots ∧ x.shots ≤ 10

/-! The route queue (R74 to R79) -/

/-- Table 4-1: an id and a length in range. -/
abbrev segmentWf (g : Segment) : Prop :=
  1 ≤ g.id ∧ g.id ≤ 65535 ∧ 1 ≤ g.length ∧ g.length ≤ 10000

/-- The position lies in the head segment (R79). -/
def positionInHead (r : Rlq) : Bool :=
  match r.queue, r.pos with
  | g :: _, some p => p < g.length * 1000
  | _, _ => true

/-- R75 to R79: at most 32 segments, of distinct ids; position and direction are present exactly while the
queue is not empty, and the position lies in the head segment. -/
abbrev routeWf (r : Rlq) : Prop :=
  r.queue.length ≤ 32 ∧ (r.queue.map Segment.id).Nodup ∧ (∀ g ∈ r.queue, segmentWf g)
    ∧ (r.pos.isSome = true ↔ r.queue ≠ []) ∧ (r.dir.isSome = true ↔ r.queue ≠ [])
    ∧ positionInHead r = true

/-! Configuration and operating state (R175, R178) -/

/-- R178: outside UNCONFIGURED every required section has been taken. -/
abbrev configuredWf (f : Sfc) : Prop := f.opState ≠ .unconfigured → allRequiredSent f.sent = true

/-! The restart mark (R182) -/

/-- The frame is an OK reply to a RESTART. -/
def isRestartOk (r : Reply) : Bool := decide (r.kind = ReqKind.restart.code) && decide (r.result = .ok [])

/-- R182: with a restart pending its OK reply waits or is in flight. -/
def restartWf (s : State) : Bool :=
  !s.sfc.restartPending || s.lnk.replies.any isRestartOk
    || (match s.lnk.inFlight with
      | some (.reply r) => isRestartOk r
      | _ => false)

/-! Words of the statements -/

/-- R193: neither case 1 nor case 2 keeps a request from its owner. -/
abbrev accepts (s : State) : Prop := s.sfc.restartPending = false ∧ s.lnk.replies.length < 4

/-- The reply waits or is in flight. -/
abbrev replied (kind : ReqKind) (tag : Byte) (r : Result) (s : State) : Prop :=
  (⟨kind.code, tag, r⟩ : Reply) ∈ s.lnk.replies ∨ s.lnk.inFlight = some (.reply ⟨kind.code, tag, r⟩)

/-- The report waits or is in flight; or it was lost to a full report queue (R196), of which at most the head
has begun since. -/
abbrev reported (r : Report) (s : State) : Prop :=
  r ∈ s.lnk.reports ∨ s.lnk.inFlight = some (.report r)
    ∨ (s.lnk.reportsLost = true ∧ 15 ≤ s.lnk.reports.length)

/-- R195, R197: the state with a reply at the tail of the reply queue, begun at once on a free line. -/
abbrev withReply (kind : ReqKind) (tag : Byte) (r : Result) (s : State) : State := answer kind tag r s

/-- The request is answered with this reply and changes nothing else. -/
abbrev answersOnly (i : Instr) (kind : ReqKind) (tag : Byte) (r : Result) (s : State) : Prop :=
  exec i s = .next (withReply kind tag r s)

/-- R183, check 2: the section is not taken in the present operating state. -/
abbrev shut (s : State) (sec : Byte) : Prop :=
  sec.toNat < 16 ∧ (s.sfc.opState = .active ∨ s.sfc.opState = .failsafe)

/-- R183, check 3: a TRIP section whose bogie has a dump episode open. -/
abbrev dumping (s : State) (sec : Byte) : Prop :=
  (sec = 17 ∧ s.dumpOpen .a = true) ∨ (sec = 18 ∧ s.dumpOpen .t = true)
    ∨ (sec = 19 ∧ s.dumpOpen .b = true)

/-- The timer is running and its instant has come. -/
abbrev dueNow (t : Timer) (s : State) : Prop := ∃ due, t = some due ∧ due ≤ s.clock

/-- The confirm or steady timer is running and its instant has come. -/
abbrev confirmDue (c : Confirm) (s : State) : Prop := ∃ due, c = .running due ∧ due ≤ s.clock

/-- R26: `q` is the latest record of the axle and qualifies at an arrival of end time `now`. -/
abbrev qualifies (s : State) (now : Time) (y : Axle) (q : Sample) : Prop :=
  (s.wsc.axle.get y).latest = some q ∧ (s.wsc.axle.get y).isolated = false ∧ s.adhState y ≠ .isolated
    ∧ s.adhState y ≠ .fault ∧ q.flags.implausible = false
    ∧ (now - q.endTime).toNat ≤ 4 * s.windowMs (.axle y) * 1000

/-- R28, R37: the candidate is sought in the sense of drive. -/
abbrev drives (s : State) : Prop := s.sfc.opState = .active ∧ (s.mode = .drive ∨ s.mode = .coast)

/-- R42: the residual after an update over `dt` ms that publishes `r`. -/
def travelled (dt : Nat) (r : Ref) : Ref := { r with residual := (r.residual + r.speed * dt).tmod 1000 }

/-- R38, R39: REF after an update that publishes `r`, where the confirm may stand complete. -/
def restsAt (r : Ref) : Ref :=
  if r.confirm = .complete ∧ r.speed.natAbs ≤ 100 then
    { r with
      active := .standstill, prior := if r.active = .groundSensor then .groundSensor else .axleFused
      speed := 0, accel := 0, heldTimer := none, confirm := .stopped }
  else r

/-- R131: the axle is watched. -/
abbrev isWatched (s : State) (y : Axle) : Prop :=
  s.adhState y ≠ .isolated ∧ s.adhState y ≠ .fault ∧ (s.wsc.axle.get y).isolated = false

/-- R132: the axle is watched and its accumulator exceeds the threshold. -/
abbrev isOver (s : State) (y : Axle) : Prop :=
  isWatched s y ∧ s.sfc.cfg.hold.rollback * 1000 < s.hhu.acc.get y

/-- R65, R66: neither axle of the bogie is supervised. -/
abbrev isUnsupervised (s : State) (x : Bogie) : Prop :=
  (s.adhState x.axles.1 = .isolated ∨ s.adhState x.axles.1 = .fault)
    ∧ (s.adhState x.axles.2 = .isolated ∨ s.adhState x.axles.2 = .fault)

/-- The part is in ACTIVE with no restart pending and room for a reply. -/
abbrev activeAccepts (s : State) : Prop := s.sfc.opState = .active ∧ accepts s

/-! A change of demand mode at its readers (R94). `s` is the state before the event, `t` the state after it; the
modes are those of their records. -/

/-- R123: HHU in HOLDING with the floors, levels and forces of `h`. -/
def holdingFrom (h : Hhu) : Hhu :=
  { h with
    state := .holding, ramp := ⟨none, none, none⟩, acc := PerAxle.of fun _ => 0, confirm := .stopped
    blocked := false, takeUp := none }

/-- R124: HHU in TAKE_UP, its timer started at the clock of `s`. -/
def takingUp (s : State) (h : Hhu) : Hhu :=
  { h with
    state := .takeUp, takeUp := some (s.clock + s.sfc.cfg.hold.takeUp * 1000), confirm := .stopped
    blocked := false }

/-- R123: HHU's record as an entry to HOLDING from OFF in `s` leaves its hold force, levels and floors. -/
def heldLevels (s : State) : Hhu := { (computeHold s).hhu with floor := (computeHold s).hhu.level }

/-- R39, R121, R123, R124, R134: HHU at REF's entry to STANDSTILL, where `route` is the route queue as the entry
finds it. -/
abbrev standstillAtHillHold (route : Rlq) (s t : State) : Prop :=
  (s.sfc.opState = .active → s.hhu.state = .off ∨ s.hhu.state = .rollbackCatch →
    (t.hhu.state = .holding ∨ s.mode = .drive ∧ t.hhu.state = .takeUp)
    ∧ ∀ (h : Hhu) (reason : HoldReason),
      (s.hhu.state = .off ∧ h = heldLevels { s with rlq := route } ∧ reason = .standstill
        ∨ s.hhu.state = .rollbackCatch ∧ h = { s.hhu with level := s.hhu.floor } ∧ reason = .catchEnded) →
      reported (.holdState .holding s.hhu.state reason h.floor h.holdForce h.relThreshold h.dAch s.nowMs) t
      ∧ (t.hhu.state = .holding → t.hhu = holdingFrom h)
      ∧ (t.hhu.state = .takeUp → t.hhu = takingUp s (holdingFrom h))
      ∧ (s.bld.demand.latch ≠ some .loop → (t.hhu.state = .takeUp
        ↔ s.mode = .drive ∧ 0 < s.bld.demand.effort ∧ s.hhu.rearm = true)))
  ∧ (s.sfc.opState ≠ .active ∨ s.hhu.state = .holding ∨ s.hhu.state = .takeUp
    ∨ s.hhu.state = .releasing → t.hhu = s.hhu)

/-! Requests for sand -/

/-- R138 to R140, R146, R147: SND after the ADHESION requests of one event for the leading end: `first` shots,
then `rest` shots, 0 for none. A new entry is judged once both stand in it (log 41); an entry that waits
already is judged at each merge, so that the first may grant it a shot before the second. -/
abbrev adhesionRequests (first rest : Nat) (s t : State) : Prop :=
  ∀ (e : Side) (fresh : SandEntry) (allowed : Nat) (merge : Nat → SandEntry → SandEntry),
    e = (if s.travel = .forward then .one else .two) →
    fresh = {
      source := .adhesion, side := e, leading := true, shots := first + rest
      age := some (s.clock + 5000000), arrival := s.snd.arrivals } →
    allowed = min s.sfc.cfg.sand.shot (s.snd.level.get e * 1000 / s.sfc.cfg.sand.flow.get e) →
    (∀ n y, merge n y = if y.source = .adhesion ∧ y.side = e
      then { y with shots := n, age := some (s.clock + 5000000) } else y) →
    (s.snd.queue.any (SandEntry.isFor .adhesion e) = false → s.snd.queue.length < 8 →
      (s.snd.valve.get e ≠ .closed →
        t.snd = { s.snd with queue := s.snd.queue ++ [fresh], arrivals := s.snd.arrivals + 1 })
      ∧ (grantee { s with snd := { s.snd with queue := s.snd.queue ++ [fresh] } } e = some fresh →
        t.snd.queue = s.snd.queue
          ++ (if first + rest = 1 then [] else [{ fresh with shots := first + rest - 1 }])
        ∧ reported (.sand (.shot allowed (s.sfc.cfg.sand.flow.get e)) e .adhesion s.snd.arrivals
            (first + rest - 1) (s.snd.level.get e) s.nowMs) t))
    ∧ (s.snd.queue.any (SandEntry.isFor .adhesion e) = false → 8 ≤ s.snd.queue.length →
      t.snd = s.snd
      ∧ reported (.sand .dropped e .adhesion 0 first (s.snd.level.get e) s.nowMs) t
      ∧ (rest ≠ 0 → reported (.sand .dropped e .adhesion 0 rest (s.snd.level.get e) s.nowMs) t))
    ∧ (s.snd.queue.any (SandEntry.isFor .adhesion e) = true → s.snd.valve.get e ≠ .closed →
      t.snd = { s.snd with
        queue := s.snd.queue.map fun y => merge (min 10 (y.shots + first + rest)) y })
    ∧ ∀ (q : List SandEntry) (x : SandEntry),
      q = s.snd.queue.map (fun y => merge (min 10 (y.shots + first)) y) →
      (∀ y ∈ s.snd.queue, 1 ≤ y.shots) →
      s.snd.queue.any (SandEntry.isFor .adhesion e) = true →
      grantee { s with snd := { s.snd with queue := q } } e = some x → x.source = .adhesion →
      t.snd.queue = (s.snd.queue.map fun y => merge (min 10 (min 10 (y.shots + first) - 1 + rest)) y)
      ∧ reported (.sand (.shot allowed (s.sfc.cfg.sand.flow.get e)) e .adhesion x.arrival (x.shots - 1)
          (s.snd.level.get e) s.nowMs) t

/-- R54: the change ends the effort or turns its sense. -/
abbrev turnsEffort (s t : State) : Prop :=
  s.mode ≠ t.mode ∧ (t.mode = .coast ∨ (s.mode = .drive ∧ t.mode.braking = true)
    ∨ (s.mode.braking = true ∧ t.mode = .drive))

/-- R54: at ADH. -/
abbrev modeAtAdhesion (s t : State) : Prop :=
  (turnsEffort s t → ∀ x, t.adh.axle.get x = if s.unwatched x then { s.adh.axle.get x with recover := 0 }
      else ⟨.grip, 0⟩)
  ∧ (¬ turnsEffort s t → t.adh.axle = s.adh.axle)

/-- R142: at SND. A change into EMERGENCY out of COAST or BRAKE without one of direction leaves what the
EMERGENCY request alone leaves (R139, R140, R146); out of DRIVE the same event may remove HILL_START entries
(R143), so that the request's own entry or shot is named. -/
abbrev modeAtSanding (s t : State) : Prop :=
  (s.mode ≠ .emergency → t.mode = .emergency → t.snd.repeatTimer = some (s.clock + 10000000)
    ∧ (t.travel = s.travel →
      (s.mode ≠ .drive → t.snd = (emergencySand s).snd)
      ∧ ∀ (e : Side) (fresh : SandEntry), e = (if s.travel = .forward then .one else .two) →
        fresh = {
          source := .emergency, side := e, leading := true, shots := 10, age := none
          arrival := s.snd.arrivals } →
        s.snd.queue.any (SandEntry.isFor .emergency e) = false → s.snd.queue.length < 8 →
        (s.snd.valve.get e ≠ .closed →
          fresh ∈ t.snd.queue ∧ t.snd.arrivals = s.snd.arrivals + 1)
        ∧ ∀ allowed : Nat,
          grantee { s with snd := { s.snd with queue := s.snd.queue ++ [fresh] } } e = some fresh →
          allowed = min s.sfc.cfg.sand.shot (s.snd.level.get e * 1000 / s.sfc.cfg.sand.flow.get e) →
          reported (.sand (.shot allowed (s.sfc.cfg.sand.flow.get e)) e .emergency s.snd.arrivals 9
            (s.snd.level.get e) s.nowMs) t))
  ∧ (s.mode = .emergency → t.mode ≠ .emergency →
    t.snd.repeatTimer = none ∧ ∀ y ∈ t.snd.queue, y.source ≠ .emergency)
  ∧ ((s.mode = .emergency ↔ t.mode = .emergency) → t.snd.repeatTimer = s.snd.repeatTimer)

/-- R165, R172: at STU. -/
abbrev modeAtTrip (s t : State) : Prop :=
  (s.mode.braking ≠ t.mode.braking → t.stu.counter = PerAxle.of (fun _ => 0)
    ∧ ∀ x, (t.stu.bogie.get x).exhausted = 0 ∧ (t.stu.bogie.get x).disabled = false
      ∧ (t.stu.bogie.get x).suppressed = false)
  ∧ (s.mode.braking = true → t.mode.braking = false → ∀ x, (t.stu.bogie.get x).episode = none
    ∧ ∀ ep, (s.stu.bogie.get x).episode = some ep → (t.stu.bogie.get x).limitTimer = none
      ∧ reported (.trip x ep.axle (.closed .mode) 0 0 s.ref.speed 0 (s.nowMs - ep.since) s.nowMs) t)
  ∧ (s.mode = t.mode ∨ (s.mode.braking = true ∧ t.mode.braking = true) → t.stu = s.stu)

/-- R123, R124, R127: at HHU. A change of direction in the same event returns the accumulators to 0 (R131), and
it may flush the route before the levels are computed or after (R93, R121). -/
abbrev modeAtHillHold (s t : State) : Prop :=
  ∀ (turned : Hhu → Hhu) (enters takes : Prop),
    (∀ h, turned h = if t.travel = s.travel then h else { h with acc := PerAxle.of fun _ => 0 }) →
    (enters ↔ s.hhu.state = .takeUp ∨ s.hhu.state = .releasing
      ∨ (s.hhu.state = .off ∧ s.ref.active = .standstill)) →
    (takes ↔ s.hhu.state = .holding ∧ 0 < t.bld.demand.effort ∧ s.hhu.rearm = true) →
    (s.mode = .drive → t.mode ≠ .drive →
      (enters → ∃ h : Hhu,
        (s.hhu.state = .off → h = heldLevels s ∨ (t.travel ≠ s.travel
          ∧ h = heldLevels { s with rlq := { s.rlq with queue := [] } }))
        ∧ (s.hhu.state = .releasing → h = { s.hhu with floor := s.hhu.level })
        ∧ (s.hhu.state = .takeUp → h = s.hhu)
        ∧ t.hhu = { holdingFrom h with rearm := true }
        ∧ reported (.holdState .holding s.hhu.state .driveEnded h.floor h.holdForce h.relThreshold h.dAch
            s.nowMs) t)
      ∧ (¬ enters → t.hhu = turned { s.hhu with rearm := true }))
    ∧ (s.mode ≠ .drive → t.mode = .drive →
      (takes → t.hhu = turned (takingUp s s.hhu)
        ∧ reported (.holdState .takeUp .holding .takeUp s.floors s.hhu.holdForce s.hhu.relThreshold
            s.hhu.dAch s.nowMs) t)
      ∧ (¬ takes → t.hhu = turned s.hhu))
    ∧ ((s.mode = .drive ↔ t.mode = .drive) → t.hhu = turned s.hhu)

/-- R94: what the four readers of a change of demand mode have taken. -/
abbrev modeTaken (s t : State) : Prop :=
  modeAtAdhesion s t ∧ modeAtSanding s t ∧ modeAtTrip s t ∧ modeAtHillHold s t

end Sys2Proof.Machine
end

