-- ==== Sys2Proof/Laws/State.lean ====
section
/-! SUPPORT. One lemma per field per update of State, and the tables' get after set: no later proof needs to
unfold a record update. -/

namespace Sys2Proof

@[simp] theorem PerBogie.get_set_self {α : Type} (p : PerBogie α) (x : Bogie) (v : α) :
    (p.set x v).get x = v := by
  cases x <;> rfl

theorem PerBogie.get_set_ne {α : Type} (p : PerBogie α) {x y : Bogie} (v : α) (h : y ≠ x) :
    (p.set x v).get y = p.get y := by
  cases x <;> cases y <;> first | rfl | exact absurd rfl h

@[simp] theorem PerBogie.get_of {α : Type} (f : Bogie → α) (x : Bogie) : (PerBogie.of f).get x = f x := by
  cases x <;> rfl

@[simp] theorem PerMotor.get_set_self {α : Type} (p : PerMotor α) (x : Motor) (v : α) :
    (p.set x v).get x = v := by
  cases x <;> rfl

theorem PerMotor.get_set_ne {α : Type} (p : PerMotor α) {x y : Motor} (v : α) (h : y ≠ x) :
    (p.set x v).get y = p.get y := by
  cases x <;> cases y <;> first | rfl | exact absurd rfl h

@[simp] theorem PerMotor.get_of {α : Type} (f : Motor → α) (x : Motor) : (PerMotor.of f).get x = f x := by
  cases x <;> rfl

@[simp] theorem PerSide.get_set_self {α : Type} (p : PerSide α) (x : Side) (v : α) :
    (p.set x v).get x = v := by
  cases x <;> rfl

theorem PerSide.get_set_ne {α : Type} (p : PerSide α) {x y : Side} (v : α) (h : y ≠ x) :
    (p.set x v).get y = p.get y := by
  cases x <;> cases y <;> first | rfl | exact absurd rfl h

@[simp] theorem PerAxle.get_set_self {α : Type} (p : PerAxle α) (x : Axle) (v : α) :
    (p.set x v).get x = v := by
  cases x <;> rfl

theorem PerAxle.get_set_ne {α : Type} (p : PerAxle α) {x y : Axle} (v : α) (h : y ≠ x) :
    (p.set x v).get y = p.get y := by
  cases x <;> cases y <;> first | rfl | exact absurd rfl h

@[simp] theorem PerAxle.get_of {α : Type} (f : Axle → α) (x : Axle) : (PerAxle.of f).get x = f x := by
  cases x <;> rfl

@[simp] theorem PerChan.get_set_self {α : Type} (p : PerChan α) (c : Chan) (v : α) :
    (p.set c v).get c = v := by
  cases c <;> simp [PerChan.get, PerChan.set]

theorem PerChan.get_set_ne {α : Type} (p : PerChan α) {c d : Chan} (v : α) (h : d ≠ c) :
    (p.set c v).get d = p.get d := by
  cases c <;> cases d <;> simp_all [PerChan.get, PerChan.set, PerAxle.get_set_ne]

@[simp] theorem PerChan.get_of {α : Type} (f : Chan → α) (c : Chan) :
    (PerChan.of f).get c = f c := by
  cases c <;> simp [PerChan.get, PerChan.of]

@[simp] theorem PerAnalog.get_set_self {α : Type} (p : PerAnalog α) (c : Analog) (v : α) :
    (p.set c v).get c = v := by
  cases c <;> simp [PerAnalog.get, PerAnalog.set]

theorem PerAnalog.get_set_ne {α : Type} (p : PerAnalog α) {c d : Analog} (v : α) (h : d ≠ c) :
    (p.set c v).get d = p.get d := by
  cases c <;> cases d <;>
    simp_all [PerAnalog.get, PerAnalog.set, PerBogie.get_set_ne, PerMotor.get_set_ne]

@[simp] theorem PerAnalog.get_of {α : Type} (f : Analog → α) (c : Analog) :
    (PerAnalog.of f).get c = f c := by
  cases c <;> simp [PerAnalog.get, PerAnalog.of]

end Sys2Proof

namespace Sys2Proof.Machine

/-! The fault table -/

theorem FaultTable.get_set (t : FaultTable) (i j : FaultId) (r : FaultRec) :
    (t.set i r).get j = if j = i then r else t.get j := by
  cases i <;> cases j <;> simp [FaultTable.set, FaultTable.get]
  all_goals first
    | rfl
    | (rename_i x y
       cases x <;> cases y <;> simp [PerAxle.get, PerAxle.set, PerBogie.get, PerBogie.set, PerMotor.get,
        PerMotor.set, PerSide.get, PerSide.set])

theorem State.setFault_fault (s : State) (i j : FaultId) (r : FaultRec) :
    (s.setFault i r).fault j = if j = i then r else s.fault j := FaultTable.get_set _ _ _ _

@[simp] theorem FaultTable.clear_get (i : FaultId) : FaultTable.clear.get i = FaultRec.clear := by
  cases i <;> first | rfl | (rename_i x; cases x <;> rfl)

/-! `State.setSup` -/

section

variable (s : State) (x : Bogie) (v : Supervision)

@[simp] theorem State.setSup_clock : (s.setSup x v).clock = s.clock := rfl
@[simp] theorem State.setSup_baud : (s.setSup x v).baud = s.baud := rfl
@[simp] theorem State.setSup_eblOpen : (s.setSup x v).eblOpen = s.eblOpen := rfl
@[simp] theorem State.setSup_groundLow : (s.setSup x v).groundLow = s.groundLow := rfl
@[simp] theorem State.setSup_wsc : (s.setSup x v).wsc = s.wsc := rfl
@[simp] theorem State.setSup_ref : (s.setSup x v).ref = s.ref := rfl
@[simp] theorem State.setSup_adh : (s.setSup x v).adh = s.adh := rfl
@[simp] theorem State.setSup_rlq : (s.setSup x v).rlq = s.rlq := rfl
@[simp] theorem State.setSup_bld : (s.setSup x v).bld = s.bld := rfl
@[simp] theorem State.setSup_hhu : (s.setSup x v).hhu = s.hhu := rfl
@[simp] theorem State.setSup_snd : (s.setSup x v).snd = s.snd := rfl
@[simp] theorem State.setSup_afe : (s.setSup x v).afe
    = { s.afe with sup := s.afe.sup.set x v } := rfl
@[simp] theorem State.setSup_stu : (s.setSup x v).stu = s.stu := rfl
@[simp] theorem State.setSup_sfc : (s.setSup x v).sfc = s.sfc := rfl
@[simp] theorem State.setSup_lnk : (s.setSup x v).lnk = s.lnk := rfl
@[simp] theorem State.setSup_free : (s.setSup x v).free = s.free := rfl
@[simp] theorem State.setSup_pending : (s.setSup x v).pending = s.pending := rfl

end

/-! `State.setAnalog` -/

section

variable (s : State) (c : Analog) (v : AnalogChan)

@[simp] theorem State.setAnalog_clock : (s.setAnalog c v).clock = s.clock := rfl
@[simp] theorem State.setAnalog_baud : (s.setAnalog c v).baud = s.baud := rfl
@[simp] theorem State.setAnalog_eblOpen : (s.setAnalog c v).eblOpen = s.eblOpen := rfl
@[simp] theorem State.setAnalog_groundLow : (s.setAnalog c v).groundLow = s.groundLow := rfl
@[simp] theorem State.setAnalog_wsc : (s.setAnalog c v).wsc = s.wsc := rfl
@[simp] theorem State.setAnalog_ref : (s.setAnalog c v).ref = s.ref := rfl
@[simp] theorem State.setAnalog_adh : (s.setAnalog c v).adh = s.adh := rfl
@[simp] theorem State.setAnalog_rlq : (s.setAnalog c v).rlq = s.rlq := rfl
@[simp] theorem State.setAnalog_bld : (s.setAnalog c v).bld = s.bld := rfl
@[simp] theorem State.setAnalog_hhu : (s.setAnalog c v).hhu = s.hhu := rfl
@[simp] theorem State.setAnalog_snd : (s.setAnalog c v).snd = s.snd := rfl
@[simp] theorem State.setAnalog_afe : (s.setAnalog c v).afe
    = { s.afe with chan := s.afe.chan.set c v } := rfl
@[simp] theorem State.setAnalog_stu : (s.setAnalog c v).stu = s.stu := rfl
@[simp] theorem State.setAnalog_sfc : (s.setAnalog c v).sfc = s.sfc := rfl
@[simp] theorem State.setAnalog_lnk : (s.setAnalog c v).lnk = s.lnk := rfl
@[simp] theorem State.setAnalog_free : (s.setAnalog c v).free = s.free := rfl
@[simp] theorem State.setAnalog_pending : (s.setAnalog c v).pending = s.pending := rfl

end

/-! `State.setOutput` -/

section

variable (s : State) (x : Bogie) (o : Output)

@[simp] theorem State.setOutput_clock : (s.setOutput x o).clock = s.clock := rfl
@[simp] theorem State.setOutput_baud : (s.setOutput x o).baud = s.baud := rfl
@[simp] theorem State.setOutput_eblOpen : (s.setOutput x o).eblOpen = s.eblOpen := rfl
@[simp] theorem State.setOutput_groundLow : (s.setOutput x o).groundLow = s.groundLow := rfl
@[simp] theorem State.setOutput_wsc : (s.setOutput x o).wsc = s.wsc := rfl
@[simp] theorem State.setOutput_ref : (s.setOutput x o).ref = s.ref := rfl
@[simp] theorem State.setOutput_adh : (s.setOutput x o).adh = s.adh := rfl
@[simp] theorem State.setOutput_rlq : (s.setOutput x o).rlq = s.rlq := rfl
@[simp] theorem State.setOutput_bld : (s.setOutput x o).bld
    = { s.bld with out := s.bld.out.set x o } := rfl
@[simp] theorem State.setOutput_hhu : (s.setOutput x o).hhu = s.hhu := rfl
@[simp] theorem State.setOutput_snd : (s.setOutput x o).snd = s.snd := rfl
@[simp] theorem State.setOutput_afe : (s.setOutput x o).afe = s.afe := rfl
@[simp] theorem State.setOutput_stu : (s.setOutput x o).stu = s.stu := rfl
@[simp] theorem State.setOutput_sfc : (s.setOutput x o).sfc = s.sfc := rfl
@[simp] theorem State.setOutput_lnk : (s.setOutput x o).lnk = s.lnk := rfl
@[simp] theorem State.setOutput_free : (s.setOutput x o).free = s.free := rfl
@[simp] theorem State.setOutput_pending : (s.setOutput x o).pending = s.pending := rfl

end

/-! `State.setDemand` -/

section

variable (s : State) (d : Demand)

@[simp] theorem State.setDemand_clock : (s.setDemand d).clock = s.clock := rfl
@[simp] theorem State.setDemand_baud : (s.setDemand d).baud = s.baud := rfl
@[simp] theorem State.setDemand_eblOpen : (s.setDemand d).eblOpen = s.eblOpen := rfl
@[simp] theorem State.setDemand_groundLow : (s.setDemand d).groundLow = s.groundLow := rfl
@[simp] theorem State.setDemand_wsc : (s.setDemand d).wsc = s.wsc := rfl
@[simp] theorem State.setDemand_ref : (s.setDemand d).ref = s.ref := rfl
@[simp] theorem State.setDemand_adh : (s.setDemand d).adh = s.adh := rfl
@[simp] theorem State.setDemand_rlq : (s.setDemand d).rlq = s.rlq := rfl
@[simp] theorem State.setDemand_bld : (s.setDemand d).bld = { s.bld with demand := d } := rfl
@[simp] theorem State.setDemand_hhu : (s.setDemand d).hhu = s.hhu := rfl
@[simp] theorem State.setDemand_snd : (s.setDemand d).snd = s.snd := rfl
@[simp] theorem State.setDemand_afe : (s.setDemand d).afe = s.afe := rfl
@[simp] theorem State.setDemand_stu : (s.setDemand d).stu = s.stu := rfl
@[simp] theorem State.setDemand_sfc : (s.setDemand d).sfc = s.sfc := rfl
@[simp] theorem State.setDemand_lnk : (s.setDemand d).lnk = s.lnk := rfl
@[simp] theorem State.setDemand_free : (s.setDemand d).free = s.free := rfl
@[simp] theorem State.setDemand_pending : (s.setDemand d).pending = s.pending := rfl

end

/-! `State.setSandQueue` -/

section

variable (s : State) (q : List SandEntry)

@[simp] theorem State.setSandQueue_clock : (s.setSandQueue q).clock = s.clock := rfl
@[simp] theorem State.setSandQueue_baud : (s.setSandQueue q).baud = s.baud := rfl
@[simp] theorem State.setSandQueue_eblOpen : (s.setSandQueue q).eblOpen = s.eblOpen := rfl
@[simp] theorem State.setSandQueue_groundLow : (s.setSandQueue q).groundLow = s.groundLow := rfl
@[simp] theorem State.setSandQueue_wsc : (s.setSandQueue q).wsc = s.wsc := rfl
@[simp] theorem State.setSandQueue_ref : (s.setSandQueue q).ref = s.ref := rfl
@[simp] theorem State.setSandQueue_adh : (s.setSandQueue q).adh = s.adh := rfl
@[simp] theorem State.setSandQueue_rlq : (s.setSandQueue q).rlq = s.rlq := rfl
@[simp] theorem State.setSandQueue_bld : (s.setSandQueue q).bld = s.bld := rfl
@[simp] theorem State.setSandQueue_hhu : (s.setSandQueue q).hhu = s.hhu := rfl
@[simp] theorem State.setSandQueue_snd : (s.setSandQueue q).snd = { s.snd with queue := q } := rfl
@[simp] theorem State.setSandQueue_afe : (s.setSandQueue q).afe = s.afe := rfl
@[simp] theorem State.setSandQueue_stu : (s.setSandQueue q).stu = s.stu := rfl
@[simp] theorem State.setSandQueue_sfc : (s.setSandQueue q).sfc = s.sfc := rfl
@[simp] theorem State.setSandQueue_lnk : (s.setSandQueue q).lnk = s.lnk := rfl
@[simp] theorem State.setSandQueue_free : (s.setSandQueue q).free = s.free := rfl
@[simp] theorem State.setSandQueue_pending : (s.setSandQueue q).pending = s.pending := rfl

end

/-! `State.setValve` -/

section

variable (s : State) (e : Side) (v : Valve)

@[simp] theorem State.setValve_clock : (s.setValve e v).clock = s.clock := rfl
@[simp] theorem State.setValve_baud : (s.setValve e v).baud = s.baud := rfl
@[simp] theorem State.setValve_eblOpen : (s.setValve e v).eblOpen = s.eblOpen := rfl
@[simp] theorem State.setValve_groundLow : (s.setValve e v).groundLow = s.groundLow := rfl
@[simp] theorem State.setValve_wsc : (s.setValve e v).wsc = s.wsc := rfl
@[simp] theorem State.setValve_ref : (s.setValve e v).ref = s.ref := rfl
@[simp] theorem State.setValve_adh : (s.setValve e v).adh = s.adh := rfl
@[simp] theorem State.setValve_rlq : (s.setValve e v).rlq = s.rlq := rfl
@[simp] theorem State.setValve_bld : (s.setValve e v).bld = s.bld := rfl
@[simp] theorem State.setValve_hhu : (s.setValve e v).hhu = s.hhu := rfl
@[simp] theorem State.setValve_snd : (s.setValve e v).snd
    = { s.snd with valve := s.snd.valve.set e v } := rfl
@[simp] theorem State.setValve_afe : (s.setValve e v).afe = s.afe := rfl
@[simp] theorem State.setValve_stu : (s.setValve e v).stu = s.stu := rfl
@[simp] theorem State.setValve_sfc : (s.setValve e v).sfc = s.sfc := rfl
@[simp] theorem State.setValve_lnk : (s.setValve e v).lnk = s.lnk := rfl
@[simp] theorem State.setValve_free : (s.setValve e v).free = s.free := rfl
@[simp] theorem State.setValve_pending : (s.setValve e v).pending = s.pending := rfl

end

/-! `State.setLevel` -/

section

variable (s : State) (e : Side) (g : Nat)

@[simp] theorem State.setLevel_clock : (s.setLevel e g).clock = s.clock := rfl
@[simp] theorem State.setLevel_baud : (s.setLevel e g).baud = s.baud := rfl
@[simp] theorem State.setLevel_eblOpen : (s.setLevel e g).eblOpen = s.eblOpen := rfl
@[simp] theorem State.setLevel_groundLow : (s.setLevel e g).groundLow = s.groundLow := rfl
@[simp] theorem State.setLevel_wsc : (s.setLevel e g).wsc = s.wsc := rfl
@[simp] theorem State.setLevel_ref : (s.setLevel e g).ref = s.ref := rfl
@[simp] theorem State.setLevel_adh : (s.setLevel e g).adh = s.adh := rfl
@[simp] theorem State.setLevel_rlq : (s.setLevel e g).rlq = s.rlq := rfl
@[simp] theorem State.setLevel_bld : (s.setLevel e g).bld = s.bld := rfl
@[simp] theorem State.setLevel_hhu : (s.setLevel e g).hhu = s.hhu := rfl
@[simp] theorem State.setLevel_snd : (s.setLevel e g).snd
    = { s.snd with level := s.snd.level.set e g } := rfl
@[simp] theorem State.setLevel_afe : (s.setLevel e g).afe = s.afe := rfl
@[simp] theorem State.setLevel_stu : (s.setLevel e g).stu = s.stu := rfl
@[simp] theorem State.setLevel_sfc : (s.setLevel e g).sfc = s.sfc := rfl
@[simp] theorem State.setLevel_lnk : (s.setLevel e g).lnk = s.lnk := rfl
@[simp] theorem State.setLevel_free : (s.setLevel e g).free = s.free := rfl
@[simp] theorem State.setLevel_pending : (s.setLevel e g).pending = s.pending := rfl

end

/-! `State.setStu` -/

section

variable (s : State) (x : Bogie) (v : BogieStu)

@[simp] theorem State.setStu_clock : (s.setStu x v).clock = s.clock := rfl
@[simp] theorem State.setStu_baud : (s.setStu x v).baud = s.baud := rfl
@[simp] theorem State.setStu_eblOpen : (s.setStu x v).eblOpen = s.eblOpen := rfl
@[simp] theorem State.setStu_groundLow : (s.setStu x v).groundLow = s.groundLow := rfl
@[simp] theorem State.setStu_wsc : (s.setStu x v).wsc = s.wsc := rfl
@[simp] theorem State.setStu_ref : (s.setStu x v).ref = s.ref := rfl
@[simp] theorem State.setStu_adh : (s.setStu x v).adh = s.adh := rfl
@[simp] theorem State.setStu_rlq : (s.setStu x v).rlq = s.rlq := rfl
@[simp] theorem State.setStu_bld : (s.setStu x v).bld = s.bld := rfl
@[simp] theorem State.setStu_hhu : (s.setStu x v).hhu = s.hhu := rfl
@[simp] theorem State.setStu_snd : (s.setStu x v).snd = s.snd := rfl
@[simp] theorem State.setStu_afe : (s.setStu x v).afe = s.afe := rfl
@[simp] theorem State.setStu_stu : (s.setStu x v).stu
    = { s.stu with bogie := s.stu.bogie.set x v } := rfl
@[simp] theorem State.setStu_sfc : (s.setStu x v).sfc = s.sfc := rfl
@[simp] theorem State.setStu_lnk : (s.setStu x v).lnk = s.lnk := rfl
@[simp] theorem State.setStu_free : (s.setStu x v).free = s.free := rfl
@[simp] theorem State.setStu_pending : (s.setStu x v).pending = s.pending := rfl

end

/-! `State.setCounter` -/

section

variable (s : State) (x : Axle) (n : Nat)

@[simp] theorem State.setCounter_clock : (s.setCounter x n).clock = s.clock := rfl
@[simp] theorem State.setCounter_baud : (s.setCounter x n).baud = s.baud := rfl
@[simp] theorem State.setCounter_eblOpen : (s.setCounter x n).eblOpen = s.eblOpen := rfl
@[simp] theorem State.setCounter_groundLow : (s.setCounter x n).groundLow = s.groundLow := rfl
@[simp] theorem State.setCounter_wsc : (s.setCounter x n).wsc = s.wsc := rfl
@[simp] theorem State.setCounter_ref : (s.setCounter x n).ref = s.ref := rfl
@[simp] theorem State.setCounter_adh : (s.setCounter x n).adh = s.adh := rfl
@[simp] theorem State.setCounter_rlq : (s.setCounter x n).rlq = s.rlq := rfl
@[simp] theorem State.setCounter_bld : (s.setCounter x n).bld = s.bld := rfl
@[simp] theorem State.setCounter_hhu : (s.setCounter x n).hhu = s.hhu := rfl
@[simp] theorem State.setCounter_snd : (s.setCounter x n).snd = s.snd := rfl
@[simp] theorem State.setCounter_afe : (s.setCounter x n).afe = s.afe := rfl
@[simp] theorem State.setCounter_stu : (s.setCounter x n).stu
    = { s.stu with counter := s.stu.counter.set x n } := rfl
@[simp] theorem State.setCounter_sfc : (s.setCounter x n).sfc = s.sfc := rfl
@[simp] theorem State.setCounter_lnk : (s.setCounter x n).lnk = s.lnk := rfl
@[simp] theorem State.setCounter_free : (s.setCounter x n).free = s.free := rfl
@[simp] theorem State.setCounter_pending : (s.setCounter x n).pending = s.pending := rfl

end

/-! `State.setAxle` -/

section

variable (s : State) (x : Axle) (v : AxleAdh)

@[simp] theorem State.setAxle_clock : (s.setAxle x v).clock = s.clock := rfl
@[simp] theorem State.setAxle_baud : (s.setAxle x v).baud = s.baud := rfl
@[simp] theorem State.setAxle_eblOpen : (s.setAxle x v).eblOpen = s.eblOpen := rfl
@[simp] theorem State.setAxle_groundLow : (s.setAxle x v).groundLow = s.groundLow := rfl
@[simp] theorem State.setAxle_wsc : (s.setAxle x v).wsc = s.wsc := rfl
@[simp] theorem State.setAxle_ref : (s.setAxle x v).ref = s.ref := rfl
@[simp] theorem State.setAxle_adh : (s.setAxle x v).adh
    = { s.adh with axle := s.adh.axle.set x v } := rfl
@[simp] theorem State.setAxle_rlq : (s.setAxle x v).rlq = s.rlq := rfl
@[simp] theorem State.setAxle_bld : (s.setAxle x v).bld = s.bld := rfl
@[simp] theorem State.setAxle_hhu : (s.setAxle x v).hhu = s.hhu := rfl
@[simp] theorem State.setAxle_snd : (s.setAxle x v).snd = s.snd := rfl
@[simp] theorem State.setAxle_afe : (s.setAxle x v).afe = s.afe := rfl
@[simp] theorem State.setAxle_stu : (s.setAxle x v).stu = s.stu := rfl
@[simp] theorem State.setAxle_sfc : (s.setAxle x v).sfc = s.sfc := rfl
@[simp] theorem State.setAxle_lnk : (s.setAxle x v).lnk = s.lnk := rfl
@[simp] theorem State.setAxle_free : (s.setAxle x v).free = s.free := rfl
@[simp] theorem State.setAxle_pending : (s.setAxle x v).pending = s.pending := rfl

end

/-! `State.setBogie` -/

section

variable (s : State) (x : Bogie) (v : BogieAdh)

@[simp] theorem State.setBogie_clock : (s.setBogie x v).clock = s.clock := rfl
@[simp] theorem State.setBogie_baud : (s.setBogie x v).baud = s.baud := rfl
@[simp] theorem State.setBogie_eblOpen : (s.setBogie x v).eblOpen = s.eblOpen := rfl
@[simp] theorem State.setBogie_groundLow : (s.setBogie x v).groundLow = s.groundLow := rfl
@[simp] theorem State.setBogie_wsc : (s.setBogie x v).wsc = s.wsc := rfl
@[simp] theorem State.setBogie_ref : (s.setBogie x v).ref = s.ref := rfl
@[simp] theorem State.setBogie_adh : (s.setBogie x v).adh
    = { s.adh with bogie := s.adh.bogie.set x v } := rfl
@[simp] theorem State.setBogie_rlq : (s.setBogie x v).rlq = s.rlq := rfl
@[simp] theorem State.setBogie_bld : (s.setBogie x v).bld = s.bld := rfl
@[simp] theorem State.setBogie_hhu : (s.setBogie x v).hhu = s.hhu := rfl
@[simp] theorem State.setBogie_snd : (s.setBogie x v).snd = s.snd := rfl
@[simp] theorem State.setBogie_afe : (s.setBogie x v).afe = s.afe := rfl
@[simp] theorem State.setBogie_stu : (s.setBogie x v).stu = s.stu := rfl
@[simp] theorem State.setBogie_sfc : (s.setBogie x v).sfc = s.sfc := rfl
@[simp] theorem State.setBogie_lnk : (s.setBogie x v).lnk = s.lnk := rfl
@[simp] theorem State.setBogie_free : (s.setBogie x v).free = s.free := rfl
@[simp] theorem State.setBogie_pending : (s.setBogie x v).pending = s.pending := rfl

end

/-! `State.setChan` -/

section

variable (s : State) (c : Chan) (v : Channel)

@[simp] theorem State.setChan_clock : (s.setChan c v).clock = s.clock := rfl
@[simp] theorem State.setChan_baud : (s.setChan c v).baud = s.baud := rfl
@[simp] theorem State.setChan_eblOpen : (s.setChan c v).eblOpen = s.eblOpen := rfl
@[simp] theorem State.setChan_groundLow : (s.setChan c v).groundLow = s.groundLow := rfl
@[simp] theorem State.setChan_wsc : (s.setChan c v).wsc = s.wsc.set c v := rfl
@[simp] theorem State.setChan_ref : (s.setChan c v).ref = s.ref := rfl
@[simp] theorem State.setChan_adh : (s.setChan c v).adh = s.adh := rfl
@[simp] theorem State.setChan_rlq : (s.setChan c v).rlq = s.rlq := rfl
@[simp] theorem State.setChan_bld : (s.setChan c v).bld = s.bld := rfl
@[simp] theorem State.setChan_hhu : (s.setChan c v).hhu = s.hhu := rfl
@[simp] theorem State.setChan_snd : (s.setChan c v).snd = s.snd := rfl
@[simp] theorem State.setChan_afe : (s.setChan c v).afe = s.afe := rfl
@[simp] theorem State.setChan_stu : (s.setChan c v).stu = s.stu := rfl
@[simp] theorem State.setChan_sfc : (s.setChan c v).sfc = s.sfc := rfl
@[simp] theorem State.setChan_lnk : (s.setChan c v).lnk = s.lnk := rfl
@[simp] theorem State.setChan_free : (s.setChan c v).free = s.free := rfl
@[simp] theorem State.setChan_pending : (s.setChan c v).pending = s.pending := rfl

end

/-! `State.setOpState` -/

section

variable (s : State) (o : OpState)

@[simp] theorem State.setOpState_clock : (s.setOpState o).clock = s.clock := rfl
@[simp] theorem State.setOpState_baud : (s.setOpState o).baud = s.baud := rfl
@[simp] theorem State.setOpState_eblOpen : (s.setOpState o).eblOpen = s.eblOpen := rfl
@[simp] theorem State.setOpState_groundLow : (s.setOpState o).groundLow = s.groundLow := rfl
@[simp] theorem State.setOpState_wsc : (s.setOpState o).wsc = s.wsc := rfl
@[simp] theorem State.setOpState_ref : (s.setOpState o).ref = s.ref := rfl
@[simp] theorem State.setOpState_adh : (s.setOpState o).adh = s.adh := rfl
@[simp] theorem State.setOpState_rlq : (s.setOpState o).rlq = s.rlq := rfl
@[simp] theorem State.setOpState_bld : (s.setOpState o).bld = s.bld := rfl
@[simp] theorem State.setOpState_hhu : (s.setOpState o).hhu = s.hhu := rfl
@[simp] theorem State.setOpState_snd : (s.setOpState o).snd = s.snd := rfl
@[simp] theorem State.setOpState_afe : (s.setOpState o).afe = s.afe := rfl
@[simp] theorem State.setOpState_stu : (s.setOpState o).stu = s.stu := rfl
@[simp] theorem State.setOpState_sfc : (s.setOpState o).sfc = { s.sfc with opState := o } := rfl
@[simp] theorem State.setOpState_lnk : (s.setOpState o).lnk = s.lnk := rfl
@[simp] theorem State.setOpState_free : (s.setOpState o).free = s.free := rfl
@[simp] theorem State.setOpState_pending : (s.setOpState o).pending = s.pending := rfl

end

/-! `State.setFault` -/

section

variable (s : State) (id : FaultId) (r : FaultRec)

@[simp] theorem State.setFault_clock : (s.setFault id r).clock = s.clock := rfl
@[simp] theorem State.setFault_baud : (s.setFault id r).baud = s.baud := rfl
@[simp] theorem State.setFault_eblOpen : (s.setFault id r).eblOpen = s.eblOpen := rfl
@[simp] theorem State.setFault_groundLow : (s.setFault id r).groundLow = s.groundLow := rfl
@[simp] theorem State.setFault_wsc : (s.setFault id r).wsc = s.wsc := rfl
@[simp] theorem State.setFault_ref : (s.setFault id r).ref = s.ref := rfl
@[simp] theorem State.setFault_adh : (s.setFault id r).adh = s.adh := rfl
@[simp] theorem State.setFault_rlq : (s.setFault id r).rlq = s.rlq := rfl
@[simp] theorem State.setFault_bld : (s.setFault id r).bld = s.bld := rfl
@[simp] theorem State.setFault_hhu : (s.setFault id r).hhu = s.hhu := rfl
@[simp] theorem State.setFault_snd : (s.setFault id r).snd = s.snd := rfl
@[simp] theorem State.setFault_afe : (s.setFault id r).afe = s.afe := rfl
@[simp] theorem State.setFault_stu : (s.setFault id r).stu = s.stu := rfl
@[simp] theorem State.setFault_sfc : (s.setFault id r).sfc
    = { s.sfc with faults := s.sfc.faults.set id r } := rfl
@[simp] theorem State.setFault_lnk : (s.setFault id r).lnk = s.lnk := rfl
@[simp] theorem State.setFault_free : (s.setFault id r).free = s.free := rfl
@[simp] theorem State.setFault_pending : (s.setFault id r).pending = s.pending := rfl

end

end Sys2Proof.Machine
end

