-- ==== Sys2Proof/Laws/View.lean ====
section
/-! SUPPORT. The view of a state: the route queue, the sand requests, the channels, the sections, the fault
table, the link, the pins, the clock and the queue. The operations of the allocation, of the limits, of the
trip records and of the supervision leave it as it is, which is said here once for each. -/

namespace Sys2Proof.Machine

/-- The parts of the state that only named operations change. -/
structure View where
  clock : Nat
  baud : Baud
  eblOpen : Bool
  groundLow : Bool
  wsc : PerChan Channel
  rlq : Rlq
  sandQueue : List SandEntry
  opState : OpState
  restartPending : Bool
  cfg : Sections
  sent : BitVec 24
  faults : FaultTable
  lnk : Lnk
  pending : List Instr

def State.view (s : State) : View where
  clock := s.clock
  baud := s.baud
  eblOpen := s.eblOpen
  groundLow := s.groundLow
  wsc := s.wsc
  rlq := s.rlq
  sandQueue := s.snd.queue
  opState := s.sfc.opState
  restartPending := s.sfc.restartPending
  cfg := s.sfc.cfg
  sent := s.sfc.sent
  faults := s.sfc.faults
  lnk := s.lnk
  pending := s.pending

/-! What equal views share -/

section

variable {s t : State} (h : s.view = t.view)
include h

theorem clock_of_view : s.clock = t.clock := congrArg View.clock h
theorem baud_of_view : s.baud = t.baud := congrArg View.baud h
theorem eblOpen_of_view : s.eblOpen = t.eblOpen := congrArg View.eblOpen h
theorem groundLow_of_view : s.groundLow = t.groundLow := congrArg View.groundLow h
theorem wsc_of_view : s.wsc = t.wsc := congrArg View.wsc h
theorem rlq_of_view : s.rlq = t.rlq := congrArg View.rlq h
theorem sandQueue_of_view : s.snd.queue = t.snd.queue := congrArg View.sandQueue h
theorem opState_of_view : s.sfc.opState = t.sfc.opState := congrArg View.opState h
theorem restartPending_of_view : s.sfc.restartPending = t.sfc.restartPending :=
  congrArg View.restartPending h
theorem cfg_of_view : s.sfc.cfg = t.sfc.cfg := congrArg View.cfg h
theorem sent_of_view : s.sfc.sent = t.sfc.sent := congrArg View.sent h
theorem faults_of_view : s.sfc.faults = t.sfc.faults := congrArg View.faults h
theorem lnk_of_view : s.lnk = t.lnk := congrArg View.lnk h
theorem pending_of_view : s.pending = t.pending := congrArg View.pending h

theorem fault_of_view (id : FaultId) : s.fault id = t.fault id := by
  simp only [State.fault, faults_of_view h]

theorem isActive_of_view : s.isActive = t.isActive := by
  simp only [State.isActive, opState_of_view h]

theorem isFailsafe_of_view : s.isFailsafe = t.isFailsafe := by
  simp only [State.isFailsafe, opState_of_view h]

end

/-! Free choices -/

@[simp] theorem drawFrom_view (past : Nat → Nat) (s : State) : (drawFrom past s).2.view = s.view := by
  unfold drawFrom; split <;> rfl

/-! The allocation and the outputs -/

@[simp] theorem setSup_view (x : Bogie) (v : Supervision) (s : State) : (s.setSup x v).view = s.view := rfl

@[simp] theorem outputMoving_view (x : Bogie) (s : State) : (outputMoving x s).view = s.view := rfl

@[simp] theorem outputSteady_view (x : Bogie) (s : State) : (outputSteady x s).view = s.view := rfl

@[simp] theorem setOutput_view (x : Bogie) (o : Output) (s : State) : (s.setOutput x o).view = s.view := rfl

@[simp] theorem jumpOutput_view (x : Bogie) (v : Nat) (s : State) : (jumpOutput x v s).view = s.view := by
  simp [jumpOutput]

@[simp] theorem stageCaps_view (s : State) : (stageCaps s).view = s.view := rfl

@[simp] theorem followCaps_view (before : PerBogie Nat) (s : State) :
    (followCaps before s).view = s.view := by
  unfold followCaps; split <;> rfl

@[simp] theorem stageInverters_view (s : State) : (stageInverters s).view = s.view := by
  unfold stageInverters; split <;> rfl

@[simp] theorem stageFriction_view (s : State) : (stageFriction s).view = s.view := by
  unfold stageFriction; split <;> rfl

@[simp] theorem trackMode_view (s : State) : (trackMode s).view = s.view := by
  unfold trackMode; split <;> rfl

@[simp] theorem trackTimers_view (s : State) : (trackTimers s).view = s.view := by
  unfold trackTimers; split
  · split <;> rfl
  · rfl

@[simp] theorem aimOutput_view (cause : AimCause) (x : Bogie) (goal : Nat) (s : State) :
    (aimOutput cause x goal s).view = s.view := by
  unfold aimOutput; split
  · rfl
  · dsimp only
    repeat' split
    all_goals simp

@[simp] theorem stagePressures_view (cause : PerBogie AimCause) (s : State) :
    (stagePressures cause s).view = s.view := by
  simp [stagePressures, Bogie.all]

@[simp] theorem rerunWith_view (cause : PerBogie AimCause) (s : State) : (rerunWith cause s).view = s.view := by
  unfold rerunWith; dsimp only; split <;> simp

@[simp] theorem rerun_view (s : State) : (rerun s).view = s.view := rerunWith_view _ s

@[simp] theorem jumpAll_view (v : PerBogie Nat) (s : State) : (jumpAll v s).view = s.view := by
  simp [jumpAll, Bogie.all]

@[simp] theorem parkOutputs_view (s : State) : (parkOutputs s).view = s.view := by
  simp [parkOutputs]

@[simp] theorem dropOutputs_view (s : State) : (dropOutputs s).view = s.view := by
  simp [dropOutputs, Bogie.all]

@[simp] theorem stopBlend_view (s : State) : (stopBlend s).view = s.view := by
  unfold stopBlend; exact (parkOutputs_view _).trans rfl

@[simp] theorem failsafeBlend_view (s : State) : (failsafeBlend s).view = s.view := by
  unfold failsafeBlend; exact (jumpAll_view _ _).trans rfl

@[simp] theorem restartBlend_view (s : State) : (restartBlend s).view = s.view := by
  unfold restartBlend; dsimp only; split
  · exact (dropOutputs_view _).trans rfl
  · exact (parkOutputs_view _).trans rfl

@[simp] theorem releaseTrack_view (s : State) : (releaseTrack s).view = s.view := rfl

@[simp] theorem setDemand_view (d : Demand) (s : State) : (s.setDemand d).view = s.view := rfl

@[simp] theorem completeRamp_view (x : Bogie) (s : State) : (completeRamp x s).view = s.view := rfl

@[simp] theorem trackOn_view (s : State) : (trackOn s).view = s.view := by
  unfold trackOn; exact (rerun_view _).trans rfl

@[simp] theorem trackOff_view (s : State) : (trackOff s).view = s.view := by
  unfold trackOff; exact (rerun_view _).trans rfl

/-! Sanding: valves, levels, the sanded distance -/

@[simp] theorem setValve_view (e : Side) (v : Valve) (s : State) : (s.setValve e v).view = s.view := rfl

@[simp] theorem setLevel_view (e : Side) (g : Nat) (s : State) : (s.setLevel e g).view = s.view := rfl

@[simp] theorem setSanded_view (s : State) : (setSanded s).view = s.view := by
  unfold setSanded; dsimp only; split
  · exact (rerun_view _).trans rfl
  · rfl

@[simp] theorem lowerSanded_view (mm : Nat) (s : State) : (lowerSanded mm s).view = s.view := by
  unfold lowerSanded; dsimp only; split
  · exact (rerun_view _).trans rfl
  · rfl

/-! The slide trip -/

@[simp] theorem setStu_view (x : Bogie) (v : BogieStu) (s : State) : (s.setStu x v).view = s.view := rfl

@[simp] theorem setCounter_view (x : Axle) (n : Nat) (s : State) : (s.setCounter x n).view = s.view := rfl

@[simp] theorem zeroCounters_view (x : Bogie) (s : State) : (zeroCounters x s).view = s.view := rfl

@[simp] theorem freshApplication_view (s : State) : (freshApplication s).view = s.view := rfl

@[simp] theorem leaveTrip_view (s : State) : (leaveTrip s).view = s.view := by
  unfold leaveTrip; dsimp only; split
  · exact (rerun_view _).trans rfl
  · rfl

/-! Hill hold -/

@[simp] theorem computeHold_view (s : State) : (computeHold s).view = s.view := rfl

@[simp] theorem hillDirection_view (s : State) : (hillDirection s).view = s.view := rfl

@[simp] theorem hillUnwatch_view (x : Axle) (s : State) : (hillUnwatch x s).view = s.view := rfl

@[simp] theorem restartHill_view (s : State) : (restartHill s).view = s.view := rfl

/-! Adhesion -/

@[simp] theorem setAxle_view (x : Axle) (v : AxleAdh) (s : State) : (s.setAxle x v).view = s.view := rfl

@[simp] theorem setBogie_view (x : Bogie) (v : BogieAdh) (s : State) : (s.setBogie x v).view = s.view := rfl

@[simp] theorem deliverLimits_view (old s : State) : (deliverLimits old s).view = s.view := by
  unfold deliverLimits; split
  · exact rerun_view s
  · rfl

@[simp] theorem applyHold_view (x : Bogie) (s : State) : (applyHold x s).view = s.view := by
  unfold applyHold; split <;> rfl

@[simp] theorem holdUnsupervised_view (x : Bogie) (s : State) :
    (holdUnsupervised x s).view = s.view := by
  unfold holdUnsupervised; split
  · rfl
  · exact applyHold_view x s

@[simp] theorem unjudgedLimit_view (x : Axle) (p : Sample) (s : State) :
    (unjudgedLimit x p s).view = s.view := by
  unfold unjudgedLimit; split <;> rfl

@[simp] theorem adhModeChange_view (old new : Mode) (s : State) :
    (adhModeChange old new s).view = s.view := by
  unfold adhModeChange; split <;> rfl

@[simp] theorem adhLost_view (s : State) : (adhLost s).view = s.view := by
  unfold adhLost; split
  · exact (deliverLimits_view _ _).trans rfl
  · rfl

@[simp] theorem startAdh_view (s : State) : (startAdh s).view = s.view := by
  simp only [startAdh, deliverLimits_view, Bogie.all, List.foldl, applyHold_view]; rfl

@[simp] theorem leaveAdh_view (s : State) : (leaveAdh s).view = s.view := by
  unfold leaveAdh; exact (deliverLimits_view _ _).trans rfl

@[simp] theorem restartAdh_view (s : State) : (restartAdh s).view = s.view := by
  unfold restartAdh; exact (deliverLimits_view _ _).trans rfl

/-! Reference -/

@[simp] theorem judgeConfirm_view (now : Time) (s : State) : (judgeConfirm now s).view = s.view := rfl

@[simp] theorem holdReference_view (s : State) : (holdReference s).view = s.view := rfl

@[simp] theorem startReference_view (s : State) : (startReference s).view = s.view := rfl

@[simp] theorem restartReference_view (s : State) : (restartReference s).view = s.view := rfl

@[simp] theorem selectReference_view (mode : Byte) (s : State) :
    (selectReference mode s).view = s.view := by
  unfold selectReference; split <;> rfl

/-! Feedback -/

@[simp] theorem setAnalog_view (c : Analog) (v : AnalogChan) (s : State) :
    (s.setAnalog c v).view = s.view := rfl

@[simp] theorem superviseReading_view (x : Bogie) (reading : Int) (s : State) :
    (superviseReading x reading s).view = s.view := by
  unfold superviseReading; dsimp only
  repeat' split
  all_goals rfl

@[simp] theorem analogSection_view (c : Analog) (cfg : AnalogCfg) (s : State) :
    (analogSection c cfg s).view = s.view := rfl

@[simp] theorem steadyExpiry_view (x : Bogie) (s : State) : (steadyExpiry x s).view = s.view := rfl

@[simp] theorem restartAfe_view (s : State) : (restartAfe s).view = s.view := rfl

@[simp] theorem keepMu_view (old s : State) : (keepMu old s).view = s.view := rfl

end Sys2Proof.Machine
end

