-- ==== Sys2Proof/Laws/Link.lean ====
section
/-! SUPPORT. The link's two queues: what a report, a reply and the arbiter can do. -/

namespace Sys2Proof.Machine

/-! Only the link changes -/

theorem arbitrate_eq (s : State) : arbitrate s = { s with lnk := (arbitrate s).lnk } := by
  unfold arbitrate
  repeat' split
  all_goals rfl

theorem sendReport_eq (r : Report) (s : State) :
    sendReport r s = { s with lnk := (sendReport r s).lnk } := by
  unfold sendReport
  split
  · rfl
  · exact arbitrate_eq _

theorem sendReply_eq (r : Reply) (s : State) : sendReply r s = { s with lnk := (sendReply r s).lnk } :=
  arbitrate_eq _

theorem answer_eq (k : ReqKind) (tag : Byte) (r : Result) (s : State) :
    answer k tag r s = { s with lnk := (answer k tag r s).lnk } := sendReply_eq _ s

/-! `arbitrate` -/

section

variable (s : State)

@[simp] theorem arbitrate_clock : (arbitrate s).clock = s.clock := by rw [arbitrate_eq]
@[simp] theorem arbitrate_baud : (arbitrate s).baud = s.baud := by rw [arbitrate_eq]
@[simp] theorem arbitrate_eblOpen : (arbitrate s).eblOpen = s.eblOpen := by rw [arbitrate_eq]
@[simp] theorem arbitrate_groundLow : (arbitrate s).groundLow = s.groundLow := by rw [arbitrate_eq]
@[simp] theorem arbitrate_wsc : (arbitrate s).wsc = s.wsc := by rw [arbitrate_eq]
@[simp] theorem arbitrate_ref : (arbitrate s).ref = s.ref := by rw [arbitrate_eq]
@[simp] theorem arbitrate_adh : (arbitrate s).adh = s.adh := by rw [arbitrate_eq]
@[simp] theorem arbitrate_rlq : (arbitrate s).rlq = s.rlq := by rw [arbitrate_eq]
@[simp] theorem arbitrate_bld : (arbitrate s).bld = s.bld := by rw [arbitrate_eq]
@[simp] theorem arbitrate_hhu : (arbitrate s).hhu = s.hhu := by rw [arbitrate_eq]
@[simp] theorem arbitrate_snd : (arbitrate s).snd = s.snd := by rw [arbitrate_eq]
@[simp] theorem arbitrate_afe : (arbitrate s).afe = s.afe := by rw [arbitrate_eq]
@[simp] theorem arbitrate_stu : (arbitrate s).stu = s.stu := by rw [arbitrate_eq]
@[simp] theorem arbitrate_sfc : (arbitrate s).sfc = s.sfc := by rw [arbitrate_eq]
@[simp] theorem arbitrate_free : (arbitrate s).free = s.free := by rw [arbitrate_eq]
@[simp] theorem arbitrate_pending : (arbitrate s).pending = s.pending := by rw [arbitrate_eq]

end

/-! `sendReport` -/

section

variable (r : Report) (s : State)

@[simp] theorem sendReport_clock : (sendReport r s).clock = s.clock := by rw [sendReport_eq]
@[simp] theorem sendReport_baud : (sendReport r s).baud = s.baud := by rw [sendReport_eq]
@[simp] theorem sendReport_eblOpen : (sendReport r s).eblOpen = s.eblOpen := by rw [sendReport_eq]
@[simp] theorem sendReport_groundLow : (sendReport r s).groundLow = s.groundLow := by rw [sendReport_eq]
@[simp] theorem sendReport_wsc : (sendReport r s).wsc = s.wsc := by rw [sendReport_eq]
@[simp] theorem sendReport_ref : (sendReport r s).ref = s.ref := by rw [sendReport_eq]
@[simp] theorem sendReport_adh : (sendReport r s).adh = s.adh := by rw [sendReport_eq]
@[simp] theorem sendReport_rlq : (sendReport r s).rlq = s.rlq := by rw [sendReport_eq]
@[simp] theorem sendReport_bld : (sendReport r s).bld = s.bld := by rw [sendReport_eq]
@[simp] theorem sendReport_hhu : (sendReport r s).hhu = s.hhu := by rw [sendReport_eq]
@[simp] theorem sendReport_snd : (sendReport r s).snd = s.snd := by rw [sendReport_eq]
@[simp] theorem sendReport_afe : (sendReport r s).afe = s.afe := by rw [sendReport_eq]
@[simp] theorem sendReport_stu : (sendReport r s).stu = s.stu := by rw [sendReport_eq]
@[simp] theorem sendReport_sfc : (sendReport r s).sfc = s.sfc := by rw [sendReport_eq]
@[simp] theorem sendReport_free : (sendReport r s).free = s.free := by rw [sendReport_eq]
@[simp] theorem sendReport_pending : (sendReport r s).pending = s.pending := by rw [sendReport_eq]

end

/-! `sendReply` -/

section

variable (r : Reply) (s : State)

@[simp] theorem sendReply_clock : (sendReply r s).clock = s.clock := by rw [sendReply_eq]
@[simp] theorem sendReply_baud : (sendReply r s).baud = s.baud := by rw [sendReply_eq]
@[simp] theorem sendReply_eblOpen : (sendReply r s).eblOpen = s.eblOpen := by rw [sendReply_eq]
@[simp] theorem sendReply_groundLow : (sendReply r s).groundLow = s.groundLow := by rw [sendReply_eq]
@[simp] theorem sendReply_wsc : (sendReply r s).wsc = s.wsc := by rw [sendReply_eq]
@[simp] theorem sendReply_ref : (sendReply r s).ref = s.ref := by rw [sendReply_eq]
@[simp] theorem sendReply_adh : (sendReply r s).adh = s.adh := by rw [sendReply_eq]
@[simp] theorem sendReply_rlq : (sendReply r s).rlq = s.rlq := by rw [sendReply_eq]
@[simp] theorem sendReply_bld : (sendReply r s).bld = s.bld := by rw [sendReply_eq]
@[simp] theorem sendReply_hhu : (sendReply r s).hhu = s.hhu := by rw [sendReply_eq]
@[simp] theorem sendReply_snd : (sendReply r s).snd = s.snd := by rw [sendReply_eq]
@[simp] theorem sendReply_afe : (sendReply r s).afe = s.afe := by rw [sendReply_eq]
@[simp] theorem sendReply_stu : (sendReply r s).stu = s.stu := by rw [sendReply_eq]
@[simp] theorem sendReply_sfc : (sendReply r s).sfc = s.sfc := by rw [sendReply_eq]
@[simp] theorem sendReply_free : (sendReply r s).free = s.free := by rw [sendReply_eq]
@[simp] theorem sendReply_pending : (sendReply r s).pending = s.pending := by rw [sendReply_eq]

end

/-! `answer` -/

section

variable (k : ReqKind) (tag : Byte) (r : Result) (s : State)

@[simp] theorem answer_clock : (answer k tag r s).clock = s.clock := by rw [answer_eq]
@[simp] theorem answer_baud : (answer k tag r s).baud = s.baud := by rw [answer_eq]
@[simp] theorem answer_eblOpen : (answer k tag r s).eblOpen = s.eblOpen := by rw [answer_eq]
@[simp] theorem answer_groundLow : (answer k tag r s).groundLow = s.groundLow := by rw [answer_eq]
@[simp] theorem answer_wsc : (answer k tag r s).wsc = s.wsc := by rw [answer_eq]
@[simp] theorem answer_ref : (answer k tag r s).ref = s.ref := by rw [answer_eq]
@[simp] theorem answer_adh : (answer k tag r s).adh = s.adh := by rw [answer_eq]
@[simp] theorem answer_rlq : (answer k tag r s).rlq = s.rlq := by rw [answer_eq]
@[simp] theorem answer_bld : (answer k tag r s).bld = s.bld := by rw [answer_eq]
@[simp] theorem answer_hhu : (answer k tag r s).hhu = s.hhu := by rw [answer_eq]
@[simp] theorem answer_snd : (answer k tag r s).snd = s.snd := by rw [answer_eq]
@[simp] theorem answer_afe : (answer k tag r s).afe = s.afe := by rw [answer_eq]
@[simp] theorem answer_stu : (answer k tag r s).stu = s.stu := by rw [answer_eq]
@[simp] theorem answer_sfc : (answer k tag r s).sfc = s.sfc := by rw [answer_eq]
@[simp] theorem answer_free : (answer k tag r s).free = s.free := by rw [answer_eq]
@[simp] theorem answer_pending : (answer k tag r s).pending = s.pending := by rw [answer_eq]

end

/-! The link alone decides -/

theorem arbitrate_lnk_congr {s t : State} (e : s.lnk = t.lnk) : (arbitrate s).lnk = (arbitrate t).lnk := by
  unfold arbitrate
  rw [e]
  repeat' split
  all_goals simp_all

theorem sendReport_lnk_congr (r : Report) {s t : State} (e : s.lnk = t.lnk) :
    (sendReport r s).lnk = (sendReport r t).lnk := by
  unfold sendReport
  rw [e]
  split
  · rfl
  · exact arbitrate_lnk_congr (by rfl)

/-! Bounds and the arbiter's promise -/

theorem arbitrate_linkBounded {s : State} (h : linkBounded s.lnk) : linkBounded (arbitrate s).lnk := by
  obtain ⟨h1, h2, h3⟩ := h
  unfold arbitrate
  split
  · exact ⟨h1, h2, h3⟩
  · split
    · rename_i e; rw [e] at h1; exact ⟨Nat.le_of_succ_le h1, h2, h3⟩
    · split
      · rename_i e; rw [e] at h2; exact ⟨h1, Nat.le_of_succ_le h2, h3⟩
      · exact ⟨h1, h2, h3⟩

theorem arbitrate_busy (s : State) : arbiterBusy (arbitrate s).lnk := by
  unfold arbitrate
  repeat' split
  all_goals simp_all [arbiterBusy]

theorem sendReport_linkBounded (r : Report) {s : State} (h : linkBounded s.lnk) :
    linkBounded (sendReport r s).lnk := by
  unfold sendReport
  split
  · exact h
  · refine arbitrate_linkBounded ⟨h.1, ?_, h.2.2⟩
    simp only [List.length_append, List.length_singleton]; omega

theorem sendReport_busy (r : Report) {s : State} (h : arbiterBusy s.lnk) :
    arbiterBusy (sendReport r s).lnk := by
  unfold sendReport
  split
  · exact h
  · exact arbitrate_busy _

theorem sendReply_linkBounded (r : Reply) {s : State} (h : linkBounded s.lnk)
    (room : s.lnk.replies.length < 4) : linkBounded (sendReply r s).lnk := by
  refine arbitrate_linkBounded ⟨?_, h.2.1, h.2.2⟩
  simp only [List.length_append, List.length_singleton]; omega

theorem sendReply_busy (r : Reply) (s : State) : arbiterBusy (sendReply r s).lnk := arbitrate_busy _

@[simp] theorem arbitrate_discards (s : State) : (arbitrate s).lnk.discards = s.lnk.discards := by
  unfold arbitrate
  repeat' split
  all_goals rfl

@[simp] theorem sendReport_discards (r : Report) (s : State) :
    (sendReport r s).lnk.discards = s.lnk.discards := by
  unfold sendReport
  split
  · rfl
  · exact arbitrate_discards _

@[simp] theorem sendReply_discards (r : Reply) (s : State) :
    (sendReply r s).lnk.discards = s.lnk.discards := arbitrate_discards _

/-! A waiting restart reply is not lost -/

theorem arbitrate_restartWf {s : State} (h : restartWf s = true) : restartWf (arbitrate s) = true := by
  revert h
  unfold arbitrate
  repeat' split
  all_goals simp_all [restartWf]
  rintro (h | h | h)
  · exact Or.inl (Or.inl h)
  · exact Or.inr h
  · exact Or.inl (Or.inr h)

theorem sendReport_restartWf (r : Report) {s : State} (h : restartWf s = true) :
    restartWf (sendReport r s) = true := by
  unfold sendReport
  split
  · exact h
  · exact arbitrate_restartWf h

theorem sendReply_restartWf (r : Reply) {s : State} (h : restartWf s = true) :
    restartWf (sendReply r s) = true := by
  refine arbitrate_restartWf ?_
  simp only [restartWf, Bool.or_eq_true, Bool.not_eq_true', List.any_append, List.any_cons,
    List.any_nil, Bool.or_false] at h ⊢
  tauto

end Sys2Proof.Machine
end

