-- ==== Sys2Proof/Laws/Order.lean ====
section
/-! SUPPORT. Deliveries in an order the manual leaves open: an arrangement holds each delivery once, and what
every delivery keeps, their sequence keeps. -/

namespace Sys2Proof.Machine

theorem arrange_perm {α : Type} : ∀ (n c : Nat) (l : List α), l.length = n → (arrange n c l).Perm l
  | 0, _, l, h => by
    rw [List.length_eq_zero_iff.mp h]; exact List.Perm.nil
  | n + 1, c, l, h => by
    have hlt : c % l.length < l.length := Nat.mod_lt _ (by omega)
    have hperm : (l[c % l.length] :: l.eraseIdx (c % l.length)).Perm l := List.getElem_cons_eraseIdx_perm hlt
    have ih := arrange_perm n (c / l.length) (l.eraseIdx (c % l.length))
      (by rw [List.length_eraseIdx_of_lt hlt]; omega)
    simp only [arrange, List.getElem?_eq_getElem hlt]
    exact (ih.cons _).trans hperm

theorem mem_arrange {α : Type} {l : List α} {c : Nat} {x : α} (h : x ∈ arrange l.length c l) : x ∈ l :=
  (arrange_perm _ _ _ rfl).mem_iff.mp h

theorem inOrder_keeps {P : State → Prop} : ∀ {l : List (State → State)} {s : State},
    (∀ f ∈ l, ∀ t, P t → P (f t)) → P s → P (inOrder l s)
  | [], _, _, hs => hs
  | f :: rest, s, h, hs => by
    show P (inOrder rest (f s))
    exact inOrder_keeps (fun g hg => h g (List.mem_cons_of_mem _ hg))
      (h f List.mem_cons_self s hs)

/-- What a change of the free choices and every delivery keep, the deliveries keep in any order. -/
theorem inSomeOrder_keeps {P : State → Prop} (draws : ∀ {s}, P s → P (drawFrom Config.freeOrder s).2)
    {l : List (State → State)} (h : ∀ f ∈ l, ∀ t, P t → P (f t)) {s : State} (hs : P s) :
    P (inSomeOrder l s) := by
  unfold inSomeOrder
  split
  · exact inOrder_keeps h hs
  · exact inOrder_keeps (fun f hf => h f (mem_arrange hf)) (draws hs)

/-- What every step of a fold keeps, the fold keeps. -/
theorem foldl_keeps {α : Type} {P : State → Prop} {g : State → α → State} : ∀ (l : List α) {s : State},
    (∀ a ∈ l, ∀ t, P t → P (g t a)) → P s → P (l.foldl g s)
  | [], _, _, hs => hs
  | a :: rest, s, h, hs =>
    foldl_keeps rest (fun b hb => h b (List.mem_cons_of_mem _ hb)) (h a List.mem_cons_self s hs)

/-- What one of the deliveries brings about and every one of them keeps, holds after them all, where each of
them keeps a common ground `P`. -/
theorem inOrder_reaches {P Q : State → Prop} {f : State → State} : ∀ {l : List (State → State)} {s : State},
    (∀ g ∈ l, ∀ t, P t → P (g t)) → (∀ g ∈ l, ∀ t, P t → Q t → Q (g t)) → f ∈ l →
    (∀ t, P t → Q (f t)) → P s → Q (inOrder l s)
  | [], _, _, _, hf, _, _ => absurd hf List.not_mem_nil
  | g :: rest, s, ground, keep, hf, est, hs => by
    have tail : ∀ {t : State}, P t → Q t → Q (inOrder rest t) := fun hp hq =>
      (inOrder_keeps (P := fun u => P u ∧ Q u)
        (fun k hk u hu => ⟨ground k (List.mem_cons_of_mem _ hk) u hu.1,
          keep k (List.mem_cons_of_mem _ hk) u hu.1 hu.2⟩) ⟨hp, hq⟩).2
    show Q (inOrder rest (g s))
    rcases List.mem_cons.mp hf with rfl | hf
    · exact tail (ground f List.mem_cons_self s hs) (est s hs)
    · exact inOrder_reaches (fun k hk => ground k (List.mem_cons_of_mem _ hk))
        (fun k hk => keep k (List.mem_cons_of_mem _ hk)) hf est (ground g List.mem_cons_self s hs)

theorem inSomeOrder_reaches {P Q : State → Prop}
    (draws : ∀ {s}, P s → P (drawFrom Config.freeOrder s).2) {l : List (State → State)}
    {f : State → State} (ground : ∀ g ∈ l, ∀ t, P t → P (g t))
    (keep : ∀ g ∈ l, ∀ t, P t → Q t → Q (g t)) (hf : f ∈ l) (est : ∀ t, P t → Q (f t)) {s : State}
    (hs : P s) : Q (inSomeOrder l s) := by
  unfold inSomeOrder
  split
  · exact inOrder_reaches ground keep hf est hs
  · exact inOrder_reaches (fun g hg => ground g (mem_arrange hg)) (fun g hg => keep g (mem_arrange hg))
      ((arrange_perm _ _ _ rfl).mem_iff.mpr hf) est (draws hs)

/-- One delivery is taken as it is. -/
@[simp] theorem inSomeOrder_single (f : State → State) (s : State) : inSomeOrder [f] s = f s := rfl

@[simp] theorem inSomeOrder_nil (s : State) : inSomeOrder [] s = s := rfl

end Sys2Proof.Machine
end

