-- ==== Sys2Proof/Laws/Sand.lean ====
section
/-! SUPPORT. The sand request queue: every way an entry joins, changes or leaves keeps it well formed (R137 to
R144), and a shot's charge (R147, R149). -/

namespace Sys2Proof.Machine

theorem sandWf_nil : sandWf [] := ⟨by simp, List.nodup_nil, by simp⟩

theorem sandWf_sublist {p q : List SandEntry} (h : p.Sublist q) (w : sandWf q) : sandWf p :=
  ⟨h.length_le.trans w.1, w.2.1.sublist (h.map _), fun x hx => w.2.2 x (h.subset hx)⟩

theorem sandWf_filter (f : SandEntry → Bool) {q : List SandEntry} (w : sandWf q) : sandWf (q.filter f) :=
  sandWf_sublist List.filter_sublist w

/-- A change of entries that keeps each one's source, end and a legal number of shots. -/
theorem sandWf_map {f : SandEntry → SandEntry} {q : List SandEntry}
    (key : ∀ x, ((f x).source, (f x).side) = (x.source, x.side))
    (shots : ∀ x, 1 ≤ x.shots → x.shots ≤ 10 → 1 ≤ (f x).shots ∧ (f x).shots ≤ 10)
    (w : sandWf q) : sandWf (q.map f) := by
  refine ⟨by simpa using w.1, ?_, ?_⟩
  · have e : (q.map f).map (fun x => (x.source, x.side)) = q.map fun x => (x.source, x.side) := by
      rw [List.map_map]; exact List.map_congr_left fun x _ => key x
    unfold sourcesDistinct; rw [e]; exact w.2.1
  · intro y hy
    obtain ⟨x, hx, rfl⟩ := List.mem_map.mp hy
    exact shots x (w.2.2 x hx).1 (w.2.2 x hx).2

/-- R147: taking a shot from an entry. -/
theorem sandWf_takeShot (x : SandEntry) : ∀ {q : List SandEntry}, sandWf q → sandWf (takeShot x q)
  | [], _ => sandWf_nil
  | y :: q, w => by
    have wq : sandWf q := sandWf_sublist (List.sublist_cons_self y q) w
    have ih := sandWf_takeShot x wq
    have keys : ∀ z ∈ takeShot x q, (z.source, z.side) ∈ q.map fun x => (x.source, x.side) := by
      intro z hz
      obtain ⟨v, hv, e⟩ := List.mem_filterMap.mp hz
      refine List.mem_map.mpr ⟨v, hv, ?_⟩
      split at e
      · split at e
        · exact absurd e (by simp)
        · cases e; rfl
      · cases e; rfl
    have fresh : (y.source, y.side) ∉ q.map fun x => (x.source, x.side) :=
      (List.nodup_cons.mp w.2.1).1
    have len : (takeShot x q).length ≤ q.length := List.length_filterMap_le _ _
    have lenq : q.length + 1 ≤ 8 := w.1
    have grow : ∀ z : SandEntry, (z.source, z.side) = (y.source, y.side) → 1 ≤ z.shots →
        z.shots ≤ 10 → sandWf (z :: takeShot x q) := by
      intro z hz h1 h10
      refine ⟨by simp only [List.length_cons]; omega, ?_, ?_⟩
      · refine List.nodup_cons.mpr ⟨fun hm => ?_, ih.2.1⟩
        obtain ⟨v, hv, e⟩ := List.mem_map.mp hm
        have hk : (v.source, v.side) = (y.source, y.side) := e.trans hz
        exact fresh (hk ▸ keys v hv)
      · intro v hv
        rcases List.mem_cons.mp hv with rfl | hv
        · exact ⟨h1, h10⟩
        · exact ih.2.2 v hv
    have wy := w.2.2 y List.mem_cons_self
    unfold takeShot
    rw [List.filterMap_cons]
    split
    · exact ih
    · rename_i z e
      split at e
      · split at e
        · exact absurd e (by simp)
        · cases e; exact grow _ rfl (by dsimp only; omega) (by dsimp only; omega)
      · cases e; exact grow _ rfl wy.1 wy.2

/-- R139: a new entry at the tail, of a source and end no entry has. -/
theorem sandWf_append {q : List SandEntry} {x : SandEntry} (w : sandWf q) (room : q.length < 8)
    (fresh : q.any (SandEntry.isFor x.source x.side) = false) (h1 : 1 ≤ x.shots) (h10 : x.shots ≤ 10) :
    sandWf (q ++ [x]) := by
  refine ⟨by simp only [List.length_append, List.length_singleton]; omega, ?_, ?_⟩
  · unfold sourcesDistinct
    rw [List.map_append, List.nodup_append]
    refine ⟨w.2.1, List.nodup_singleton _, ?_⟩
    intro a ha b hb e
    obtain ⟨y, hy, rfl⟩ := List.mem_map.mp ha
    have hb' : b = (x.source, x.side) := by simpa using hb
    rw [hb'] at e
    have := List.any_eq_false.mp fresh y hy
    simp_all [SandEntry.isFor]
  · intro y hy
    rcases List.mem_append.mp hy with hy | hy
    · exact w.2.2 y hy
    · rw [List.mem_singleton.mp hy]; exact ⟨h1, h10⟩

/-! Eviction (R140) -/

theorem evictee_sublist (p : Nat) : ∀ {q : List SandEntry} {y : SandEntry} {r : List SandEntry},
    evictee p q = some (y, r) → r.Sublist q ∧ r.length + 1 = q.length
  | [], _, _, h => by simp [evictee] at h
  | x :: rest, y, r, h => by
    unfold evictee at h
    split at h
    · rename_i z u e
      cases h
      have ih := evictee_sublist p e
      exact ⟨ih.1.cons_cons x, by simp only [List.length_cons]; omega⟩
    · split at h
      · cases h; exact ⟨List.sublist_cons_self _ _, rfl⟩
      · exact absurd h (by simp)

theorem evictee_isSome {p : Nat} : ∀ {q : List SandEntry},
    (∃ x ∈ q, sandPriority x.source = p) → (evictee p q).isSome = true
  | [], h => by simp at h
  | x :: rest, h => by
    unfold evictee
    split
    · rfl
    · rename_i e
      split
      · rfl
      · rename_i hx
        obtain ⟨y, hy, hp⟩ := h
        rcases List.mem_cons.mp hy with rfl | hy
        · exact absurd hp hx
        · have := evictee_isSome ⟨y, hy, hp⟩
          rw [e] at this; exact this

theorem sandPriority_lt (source : SandSource) : sandPriority source < 5 := by cases source <;> decide

theorem lowestPriority_mem : ∀ {q : List SandEntry}, q ≠ [] →
    ∃ x ∈ q, sandPriority x.source = lowestPriority q
  | [], h => absurd rfl h
  | [x], _ => ⟨x, List.mem_singleton.mpr rfl, by
      have := sandPriority_lt x.source; simp only [lowestPriority]; omega⟩
  | x :: y :: rest, _ => by
    obtain ⟨z, hz, e⟩ := lowestPriority_mem (q := y :: rest) (by simp)
    by_cases hx : sandPriority x.source ≤ lowestPriority (y :: rest)
    · exact ⟨x, List.mem_cons_self, by rw [lowestPriority]; omega⟩
    · exact ⟨z, List.mem_cons_of_mem _ hz, by rw [e, lowestPriority.eq_2 x]; omega⟩

/-- R140: a queue that is not empty gives up one entry. -/
theorem evictee_lowest {q : List SandEntry} (h : q ≠ []) :
    ∃ y r, evictee (lowestPriority q) q = some (y, r) := by
  obtain ⟨v, e⟩ := Option.isSome_iff_exists.mp (evictee_isSome (lowestPriority_mem h))
  exact ⟨v.1, v.2, e⟩

theorem any_false_of_sublist {f : SandEntry → Bool} {p q : List SandEntry} (h : p.Sublist q)
    (hq : q.any f = false) : p.any f = false :=
  List.any_eq_false.mpr fun x hx => List.any_eq_false.mp hq x (h.subset hx)

/-! The charge of a shot (R147 to R149) -/

theorem roundUp_le {n d k : Nat} (hd : 0 < d) (h : n ≤ k * d) : roundUp n d ≤ k := by
  unfold roundUp
  have : (n + d - 1) / d < k + 1 := (Nat.div_lt_iff_lt_mul hd).mpr (by rw [Nat.add_mul]; omega)
  omega

/-- R147: the allowed time of a shot is so short that its charge is no more than the level. -/
theorem charge_le_level {level flow allowed : Nat} (h : allowed ≤ level * 1000 / flow) :
    roundUp (flow * allowed) 1000 ≤ level := by
  refine roundUp_le (by decide) ?_
  calc flow * allowed ≤ flow * (level * 1000 / flow) := Nat.mul_le_mul_left _ h
    _ ≤ level * 1000 := Nat.mul_div_le _ _

end Sys2Proof.Machine
end

