-- ==== Sys2Proof/Laws/Route.lean ====
section
/-! SUPPORT. The route queue: the retirement loop, and every way a segment joins or leaves keeps the queue well
formed (R77 to R86). -/

namespace Sys2Proof.Machine

theorem routeWf_powerOn : routeWf Rlq.powerOn := by decide

/-- R79: the loop leaves a tail of the queue. -/
theorem retire_suffix : ∀ (q : List Segment) (p : Nat), (retire q p).queue <:+ q
  | [], _ => List.suffix_refl _
  | g :: rest, p => by
    unfold retire
    split
    · exact (retire_suffix rest _).trans (List.suffix_cons g rest)
    · exact List.suffix_refl _

/-- R79: the position left lies in the segment at the head. -/
theorem retire_pos : ∀ (q : List Segment) (p : Nat) {g : Segment} {rest : List Segment},
    (retire q p).queue = g :: rest → (retire q p).pos < g.length * 1000
  | [], _, _, _, h => by simp [retire] at h
  | x :: q, p, g, rest, h => by
    unfold retire at h ⊢
    split at h
    · rename_i hle
      rw [if_pos hle]
      exact retire_pos q _ h
    · rename_i hle
      rw [if_neg hle]
      simp only [List.cons.injEq] at h
      obtain ⟨rfl, _⟩ := h
      exact Nat.lt_of_not_le hle

/-- R79: each retired segment is one of those that stood before the tail, in order. -/
theorem retire_passed : ∀ (q : List Segment) (p : Nat),
    (retire q p).passed.map Prod.fst ++ (retire q p).queue.map Segment.id = q.map Segment.id
  | [], _ => rfl
  | x :: q, p => by
    unfold retire
    split
    · simp only [List.map_cons, List.cons_append]
      rw [retire_passed q _]
    · rfl

/-- A route queue from which segments have left at the head, with a position in the head left. -/
theorem routeWf_suffix {r : Rlq} {q : List Segment} {p : Nat} (u : Bool) (w : routeWf r)
    (hs : q <:+ r.queue) (hq : q ≠ []) (hp : ∀ g rest, q = g :: rest → p < g.length * 1000) :
    routeWf { r with queue := q, pos := some p, uncertain := u } := by
  obtain ⟨h1, h2, h3, _, h5, _⟩ := w
  refine ⟨hs.length_le.trans h1, h2.sublist (hs.sublist.map _), fun g hg => h3 g (hs.subset hg),
    by simp [hq], ?_, ?_⟩
  · have : r.queue ≠ [] := fun e => hq (List.suffix_nil.mp (e ▸ hs))
    simp only [hq, ne_eq, not_false_eq_true, iff_true]
    exact h5.mpr this
  · cases q with
    | nil => exact absurd rfl hq
    | cons g rest => exact decide_eq_true (hp g rest rfl)

/-- R81: the position at the head's start. -/
theorem routeWf_clamp {r : Rlq} (w : routeWf r) (hq : r.queue ≠ []) :
    routeWf { r with pos := some 0, uncertain := true } := by
  refine routeWf_suffix true w (List.suffix_refl _) hq fun g rest e => ?_
  have := (w.2.2.1 g (by rw [e]; exact List.mem_cons_self)).2.2.1
  omega

/-! SEGMENT APPEND (R77, R78) -/

/-- No check fails just where every one of them holds. -/
theorem firstFailing_eq_none : ∀ {l : List Bool}, firstFailing l = none ↔ ∀ x ∈ l, x = true
  | [] => by simp [firstFailing]
  | true :: _ => by simp [firstFailing, firstFailing_eq_none]
  | false :: _ => by simp [firstFailing]

theorem firstFailing_none {l : List Bool} (h : firstFailing l = none) : ∀ x ∈ l, x = true :=
  firstFailing_eq_none.mp h

/-- `firstFailing` gives the place, counted from 1, of the check that fails after ones that hold. -/
theorem firstFailing_eq_some : ∀ {l : List Bool} {i : Nat}, firstFailing l = some i ↔
    1 ≤ i ∧ i ≤ l.length ∧ l.getD (i - 1) true = false ∧ ∀ j < i - 1, l.getD j true = true
  | [], i => by simp [firstFailing]
  | false :: rest, i => by
    simp only [firstFailing, Option.some.injEq, List.length_cons]
    constructor
    · rintro rfl
      simp
    · rintro ⟨h1, -, -, h4⟩
      by_contra hne
      exact absurd (h4 0 (by omega)) (by simp)
  | true :: rest, i => by
    simp only [firstFailing, Option.map_eq_some_iff, firstFailing_eq_some, List.length_cons]
    constructor
    · rintro ⟨k, ⟨h1, h2, h3, h4⟩, rfl⟩
      obtain ⟨m, rfl⟩ := Nat.exists_eq_add_of_le' h1
      refine ⟨by omega, by omega, by simpa using h3, fun j hj => ?_⟩
      cases j with
      | zero => rfl
      | succ j => simpa using h4 j (by omega)
    · rintro ⟨h1, h2, h3, h4⟩
      have hi : i ≠ 1 := by
        rintro rfl
        simp at h3
      obtain ⟨m, rfl⟩ := Nat.exists_eq_add_of_le' (show 2 ≤ i by omega)
      exact ⟨m + 1, ⟨by omega, by omega, by simpa using h3,
        fun j hj => by simpa using h4 (j + 1) (by omega)⟩, rfl⟩

/-- The same of checks that decide the propositions of a list, one by one. -/
theorem firstFailing_of_forall₂ {l : List Bool} {ps : List Prop}
    (h : List.Forall₂ (fun b p => b = true ↔ p) l ps) :
    (firstFailing l = none ↔ ∀ p ∈ ps, p)
    ∧ ∀ i, firstFailing l = some i ↔ 1 ≤ i ∧ i ≤ ps.length
      ∧ ¬ ps.getD (i - 1) True ∧ ∀ j < i - 1, ps.getD j True := by
  have get : ∀ j, ps.getD j True ↔ l.getD j true = true := by
    induction h with
    | nil => simp
    | cons a _ ih => exact fun j => match j with
      | 0 => by simpa using a.symm
      | j + 1 => by simpa using ih j
  constructor
  · rw [firstFailing_eq_none]
    clear get
    induction h with
    | nil => simp
    | cons a _ ih => rw [List.forall_mem_cons, List.forall_mem_cons, a, ih]
  · intro i
    have before : (∀ j < i - 1, ps.getD j True) ↔ ∀ j < i - 1, l.getD j true = true :=
      forall_congr' fun j => imp_congr_right fun _ => get j
    rw [firstFailing_eq_some, h.length_eq, get, before, Bool.not_eq_true]

/-- R77, check 2: the first record with a field out of range, after records in range, gives its index. -/
theorem badSegmentField_append : ∀ {good : List SegmentWord} {r : SegmentWord} {f : Nat} (k : Nat)
    (rest : List SegmentWord), (∀ g ∈ good, firstFailing (segmentChecks g) = none) →
    firstFailing (segmentChecks r) = some f →
    badSegmentField k (good ++ r :: rest) = some (1 + 6 * (k + good.length) + f)
  | [], r, f, k, rest, _, h => by simp [badSegmentField, h]
  | g :: good, r, f, k, rest, hg, h => by
    have next := badSegmentField_append (k + 1) rest (fun x hx => hg x (List.mem_cons_of_mem _ hx)) h
    simp only [List.cons_append, badSegmentField, hg g List.mem_cons_self, next, List.length_cons,
      Option.some.injEq]
    omega

theorem badSegmentField_of_none : ∀ {l : List SegmentWord} (k : Nat),
    (∀ r ∈ l, firstFailing (segmentChecks r) = none) → badSegmentField k l = none
  | [], _, _ => rfl
  | g :: l, k, h => by
    simp only [badSegmentField, h g List.mem_cons_self]
    exact badSegmentField_of_none (k + 1) fun x hx => h x (List.mem_cons_of_mem _ hx)

/-- R77, check 2: a message whose fields pass holds well-formed segments. -/
theorem badSegmentField_none : ∀ {k : Nat} {l : List SegmentWord}, badSegmentField k l = none →
    ∀ r ∈ l, segmentWf (segmentOf r)
  | _, [], _, _, hr => by simp at hr
  | k, x :: rest, h, r, hr => by
    unfold badSegmentField at h
    split at h
    · exact absurd h (by simp)
    · rename_i e
      rcases List.mem_cons.mp hr with rfl | hr
      · have c1 := firstFailing_none e _ (List.mem_cons_self)
        have c2 := firstFailing_none e _ (List.mem_cons_of_mem _ List.mem_cons_self)
        simp only [Bool.and_eq_true, decide_eq_true_eq] at c1 c2
        have : r.id.toNat < 65536 := r.id.isLt
        exact ⟨c1, by show r.id.toNat ≤ 65535; omega, c2.1, c2.2⟩
      · exact badSegmentField_none h r hr

/-- R77, check 3: the first id that is known, or stands in the message before, is given. -/
theorem duplicateId_append : ∀ {good : List SegmentWord} {r : SegmentWord} {known : List Nat}
    (rest : List SegmentWord), (∀ g ∈ good, g.id.toNat ∉ known) → (good.map SegmentWord.id).Nodup →
    r.id.toNat ∈ known ∨ r.id ∈ good.map SegmentWord.id →
    duplicateId known (good ++ r :: rest) = some r.id.toNat
  | [], r, known, rest, _, _, h => by
    have : r.id.toNat ∈ known := by simpa using h
    simp [duplicateId, this]
  | g :: good, r, known, rest, fresh, distinct, h => by
    rw [List.map_cons, List.nodup_cons] at distinct
    simp only [List.cons_append, duplicateId]
    rw [if_neg (by simpa using fresh g List.mem_cons_self)]
    refine duplicateId_append rest (fun x hx => ?_) distinct.2 ?_
    · rw [List.mem_cons, not_or]
      exact ⟨fun e => distinct.1 (BitVec.eq_of_toNat_eq e ▸ List.mem_map_of_mem hx),
        fresh x (List.mem_cons_of_mem _ hx)⟩
    · rw [List.map_cons, List.mem_cons] at h
      rcases h with h | h | h
      · exact .inl (List.mem_cons_of_mem _ h)
      · exact .inl (h ▸ List.mem_cons_self)
      · exact .inr h

theorem duplicateId_of_fresh : ∀ {l : List SegmentWord} {known : List Nat},
    (∀ g ∈ l, g.id.toNat ∉ known) → (l.map SegmentWord.id).Nodup → duplicateId known l = none
  | [], _, _, _ => rfl
  | g :: l, known, fresh, distinct => by
    rw [List.map_cons, List.nodup_cons] at distinct
    unfold duplicateId
    rw [if_neg (by simpa using fresh g List.mem_cons_self)]
    refine duplicateId_of_fresh (fun x hx => ?_) distinct.2
    rw [List.mem_cons, not_or]
    exact ⟨fun e => distinct.1 (BitVec.eq_of_toNat_eq e ▸ List.mem_map_of_mem hx),
      fresh x (List.mem_cons_of_mem _ hx)⟩

/-- R77, check 3: a message that passes brings ids that are new and distinct. -/
theorem duplicateId_none : ∀ {known : List Nat} {l : List SegmentWord}, duplicateId known l = none →
    (l.map fun r => r.id.toNat).Nodup ∧ ∀ r ∈ l, r.id.toNat ∉ known
  | _, [], _ => ⟨List.nodup_nil, by simp⟩
  | known, x :: rest, h => by
    unfold duplicateId at h
    split at h
    · exact absurd h (by simp)
    · rename_i hx
      obtain ⟨d, n⟩ := duplicateId_none h
      refine ⟨List.nodup_cons.mpr ⟨fun hm => ?_, d⟩, fun r hr => ?_⟩
      · obtain ⟨r, hr, e⟩ := List.mem_map.mp hm
        exact n r hr (by rw [e]; exact List.mem_cons_self)
      · rcases List.mem_cons.mp hr with rfl | hr
        · simpa using hx
        · exact fun hm => n r hr (List.mem_cons_of_mem _ hm)

/-- What an OK answer to a SEGMENT APPEND says of its records. -/
theorem appendResult_ok {count : Byte} {l : List SegmentWord} {s : State} {body : List Byte}
    (h : appendResult count l s = .ok body) :
    1 ≤ count.toNat ∧ s.rlq.queue.length + l.length ≤ 32 ∧ (∀ r ∈ l, segmentWf (segmentOf r))
      ∧ (l.map fun r => r.id.toNat).Nodup ∧ ∀ r ∈ l, r.id.toNat ∉ s.rlq.queue.map Segment.id := by
  unfold appendResult at h
  split at h
  · exact absurd h (by simp)
  · rename_i hc
    split at h
    · exact absurd h (by simp)
    · rename_i hb
      split at h
      · exact absurd h (by simp)
      · rename_i hd
        split at h
        · exact absurd h (by simp)
        · rename_i hl
          have := duplicateId_none hd
          exact ⟨by omega, by omega, badSegmentField_none hb, this.1, this.2⟩

/-- R78: the queue with the records of a message that passes at its tail. -/
theorem routeWf_append {r : Rlq} {l : List SegmentWord} (p : Nat) (d : Direction) (u : Bool)
    (w : routeWf r) (len : r.queue.length + l.length ≤ 32) (some : r.queue ++ l.map segmentOf ≠ [])
    (wf : ∀ x ∈ l, segmentWf (segmentOf x)) (distinct : (l.map fun x => x.id.toNat).Nodup)
    (fresh : ∀ x ∈ l, x.id.toNat ∉ r.queue.map Segment.id)
    (hp : ∀ g rest, r.queue ++ l.map segmentOf = g :: rest → p < g.length * 1000) :
    routeWf ⟨r.queue ++ l.map segmentOf, Option.some p, Option.some d, u⟩ := by
  have ids : (r.queue ++ l.map segmentOf).map Segment.id
      = r.queue.map Segment.id ++ l.map fun x => x.id.toNat := by
    rw [List.map_append, List.map_map]; rfl
  refine ⟨by simpa using len, ?_, ?_, by simp only [Option.isSome_some, true_iff]; exact some,
    by simp only [Option.isSome_some, true_iff]; exact some, ?_⟩
  · show ((r.queue ++ l.map segmentOf).map Segment.id).Nodup
    rw [ids, List.nodup_append]
    refine ⟨w.2.1, distinct, fun a ha b hb e => ?_⟩
    obtain ⟨x, hx, rfl⟩ := List.mem_map.mp hb
    exact fresh x hx (e ▸ ha)
  · intro g hg
    rcases List.mem_append.mp hg with hg | hg
    · exact w.2.2.1 g hg
    · obtain ⟨x, hx, rfl⟩ := List.mem_map.mp hg
      exact wf x hx
  · generalize hq : r.queue ++ l.map segmentOf = q at some hp ⊢
    cases q with
    | nil => exact absurd rfl some
    | cons g rest => exact decide_eq_true (hp g rest rfl)

end Sys2Proof.Machine
end

