-- ==== Sys2Proof/Laws/Stable.lean ====
section
/-! SUPPORT. What the deliveries of one event keep. A predicate that is `Stable` is kept by every delivery the
blocks make to one another: a report, a change of a fault record, a move of the sand or the route queue, entry
to FAILSAFE, and whatever leaves the view as it is. One lemma for each operation. -/

namespace Sys2Proof.Machine

structure Stable (P : State → Prop) : Prop where
  view : ∀ {s t : State}, t.view = s.view → P s → P t
  report : ∀ (r : Report) {s : State}, P s → P (sendReport r s)
  fault : ∀ (id : FaultId) (r : FaultRec) {s : State}, id ≠ .link →
    (recordWf (s.fault id) → recordWf r) → P s → P (s.setFault id r)
  sand : ∀ (q : List SandEntry) {s : State}, (sandWf s.snd.queue → sandWf q) → P s →
    P (s.setSandQueue q)
  route : ∀ (r : Rlq) {s : State}, (routeWf s.rlq → routeWf r) → P s → P { s with rlq := r }
  failsafe : ∀ {s : State}, s.isActive = true → P s → P (s.setOpState .failsafe)

theorem Stable.same {P : State → Prop} (h : Stable P) {s t : State} (hs : P s)
    (e : t.view = s.view) : P t := h.view e hs

/-! Fault records (R185 to R187) -/

theorem recordWf_clear : recordWf FaultRec.clear := by decide

theorem recordWf_raised (r : FaultRec) (now : Time) : recordWf (r.raised now) :=
  ⟨Nat.min_le_right _ _, fun _ => rfl, fun _ => by show 1 ≤ min (r.count + 1) 255; omega⟩

theorem recordWf_ended {r : FaultRec} (w : recordWf r) : recordWf { r with active := false } :=
  ⟨w.1, by simp, w.2.2⟩

theorem recordWf_unlatched {r : FaultRec} (h : r.active = false) (w : recordWf r) :
    recordWf { r with latched := false } := ⟨w.1, by simp [h], by simp⟩

section

variable {P : State → Prop} (h : Stable P)
include h

theorem draw_keeps (past : Nat → Nat) {s : State} (hs : P s) : P (drawFrom past s).2 :=
  h.view (drawFrom_view past s) hs

theorem someOrder_keeps {l : List (State → State)} (hl : ∀ f ∈ l, ∀ t, P t → P (f t)) {s : State}
    (hs : P s) : P (inSomeOrder l s) := inSomeOrder_keeps (draw_keeps h _) hl hs

theorem raiseFault_keeps {id : FaultId} (hid : id ≠ .link) {s : State} (hs : P s) :
    P (raiseFault id s) := by
  unfold raiseFault
  split
  · exact hs
  · exact h.report _ (h.fault id _ hid (fun _ => recordWf_raised _ _) hs)

theorem endFault_keeps {id : FaultId} (hid : id ≠ .link) {s : State} (hs : P s) :
    P (endFault id s) := h.fault id _ hid recordWf_ended hs

theorem unlatchFault_keeps {id : FaultId} (hid : id ≠ .link) {s : State}
    (ha : (s.fault id).active = false) (hs : P s) : P (unlatchFault id s) :=
  h.fault id _ hid (recordWf_unlatched ha) hs

theorem rerun_keeps {s : State} (hs : P s) : P (rerun s) := h.view (rerun_view s) hs

/-! Sanding -/

theorem grant_keeps (x : SandEntry) {s : State} (hs : P s) : P (grant x s) :=
  h.view (setSanded_view _) (h.report _ (h.view (setValve_view _ _ _)
    (h.sand _ (sandWf_takeShot x) hs)))

theorem judgeEnd_keeps (e : Side) {s : State} (hs : P s) : P (judgeEnd e s) := by
  unfold judgeEnd
  split
  · exact hs
  · exact grant_keeps h _ hs

theorem judgeEnds_keeps {s : State} (hs : P s) : P (judgeEnds s) :=
  someOrder_keeps h (fun f hf t ht => by
    obtain ⟨e, _, rfl⟩ := List.mem_map.mp hf
    exact judgeEnd_keeps h e ht) hs

/-- R139: the tail of a queue with room, of a source and end no entry has. -/
theorem joinTail_keeps (source : SandSource) (e : Side) (leading : Bool) {shots : Nat} {s : State}
    (room : sandWf s.snd.queue → s.snd.queue.length < 8)
    (fresh : s.snd.queue.any (SandEntry.isFor source e) = false) (h1 : 1 ≤ shots) (h10 : shots ≤ 10)
    (hs : P s) : P (joinTail source e leading shots s) := by
  refine h.view (s := s.setSandQueue _) rfl (h.sand (s := s) _ (fun w => ?_) hs)
  exact sandWf_append w (room w) fresh h1 h10

/-- R140: an eviction and the join that follows it, as one move of the queue. -/
theorem evictJoin_keeps (source : SandSource) (e : Side) (leading : Bool) {shots : Nat} {s : State}
    (full : s.snd.queue ≠ []) (fresh : s.snd.queue.any (SandEntry.isFor source e) = false)
    (h1 : 1 ≤ shots) (h10 : shots ≤ 10) (hs : P s) :
    P (joinTail source e leading shots (evict s)) := by
  obtain ⟨y, q, he⟩ := evictee_lowest full
  have sub := evictee_sublist _ he
  unfold evict
  rw [he]
  dsimp only
  let x : SandEntry := ⟨source, e, leading, shots, ageOf s source, s.snd.arrivals⟩
  refine h.view (s := sendReport (.sand .evicted y.side y.source y.arrival y.shots
    (s.snd.level.get y.side) s.nowMs) (s.setSandQueue (q ++ [x]))) ?_
    (h.report _ (h.sand (q ++ [x]) (fun w => ?_) hs))
  · have lnk := sendReport_lnk_congr (.sand .evicted y.side y.source y.arrival y.shots
      (s.snd.level.get y.side) s.nowMs) (s := s.setSandQueue q) (t := s.setSandQueue (q ++ [x])) rfl
    simp only [State.view, joinTail, sendReport_snd, sendReport_sfc, sendReport_rlq, sendReport_wsc,
      sendReport_clock, sendReport_baud, sendReport_eblOpen, sendReport_groundLow, sendReport_pending,
      lnk]
    simp [x, ageOf, State.timer]
  · refine sandWf_append (sandWf_sublist sub.1 w) ?_ (any_false_of_sublist sub.1 fresh) h1 h10
    have := w.1
    omega

theorem enqueueSand_keeps (source : SandSource) (e : Side) (leading : Bool) {shots : Nat}
    (h1 : 1 ≤ shots) (h10 : shots ≤ 10) {s : State} (hs : P s) :
    P (enqueueSand source e leading shots s) := by
  unfold enqueueSand
  split
  · refine h.sand _ (fun w => sandWf_map (fun x => ?_) (fun x a b => ?_) w) hs
    · split <;> rfl
    · split
      · exact ⟨by show 1 ≤ min 10 (x.shots + shots); omega, Nat.min_le_left _ _⟩
      · exact ⟨a, b⟩
  · rename_i hm
    split
    · rename_i hl
      exact joinTail_keeps h _ _ _ (fun _ => hl) (by simpa using hm) h1 h10 hs
    · rename_i hl
      split
      · have hq : s.snd.queue ≠ [] := fun e => by rw [e] at hl; exact hl (by decide)
        exact evictJoin_keeps h _ _ _ hq (by simpa using hm) h1 h10 hs
      · split
        · exact hs
        · exact h.report _ hs

theorem joinNext_keeps (source : SandSource) (e : Side) (leading : Bool) {shots : Nat} (more : Bool)
    (h1 : 1 ≤ shots) (h10 : shots ≤ 10) {s : State} (hs : P s) :
    P (joinNext source e leading shots more s) := by
  have hf := enqueueSand_keeps h source e leading h1 h10 hs
  unfold joinNext
  dsimp only
  split
  · exact judgeEnd_keeps h e hf
  · exact hf

theorem joinAll_keeps (source : SandSource) (e : Side) (leading : Bool) {shots : List Nat}
    (ok : ∀ n ∈ shots, 1 ≤ n ∧ n ≤ 10) {s : State} (hs : P s) :
    P (joinAll source e leading shots s) := by
  induction shots generalizing s with
  | nil => exact hs
  | cons n rest ih =>
    have hn := ok n List.mem_cons_self
    exact ih (fun m hm => ok m (List.mem_cons_of_mem _ hm)) (joinNext_keeps h _ _ _ _ hn.1 hn.2 hs)

theorem joinSand_keeps (source : SandSource) (e : Side) (leading : Bool) {shots : Nat}
    (h1 : 1 ≤ shots) (h10 : shots ≤ 10) {s : State} (hs : P s) :
    P (joinSand source e leading shots s) :=
  joinAll_keeps h _ _ _ (fun n hn => by rw [List.mem_singleton.mp hn]; exact ⟨h1, h10⟩) hs

theorem requestLeadingAll_keeps (source : SandSource) {shots : List Nat}
    (ok : ∀ n ∈ shots, 1 ≤ n ∧ n ≤ 10) {s : State} (hs : P s) :
    P (requestLeadingAll source shots s) := by
  unfold requestLeadingAll
  split
  · exact joinAll_keeps h _ _ _ ok hs
  · exact hs

theorem requestLeading_keeps (source : SandSource) {shots : Nat} (h1 : 1 ≤ shots) (h10 : shots ≤ 10)
    {s : State} (hs : P s) : P (requestLeading source shots s) :=
  requestLeadingAll_keeps h _ (fun n hn => by rw [List.mem_singleton.mp hn]; exact ⟨h1, h10⟩) hs

theorem requestRollback_keeps (e : Side) {s : State} (hs : P s) : P (requestRollback e s) := by
  unfold requestRollback
  split
  · exact joinSand_keeps h _ _ _ (by decide) (by decide) hs
  · exact hs

theorem dropEntries_keeps (gone : SandEntry → Bool) {s : State} (hs : P s) : P (dropEntries gone s) :=
  h.sand _ (sandWf_filter _) hs

theorem emergencySand_keeps {s : State} (hs : P s) : P (emergencySand s) :=
  requestLeading_keeps h _ (by decide) (by decide) (h.view (s := s) rfl hs)

theorem sandModeChange_keeps (old new : Mode) {s : State} (hs : P s) : P (sandModeChange old new s) := by
  unfold sandModeChange
  repeat' split
  · exact emergencySand_keeps h hs
  · exact hs
  · exact dropEntries_keeps h _ (h.view (s := s) rfl hs)
  · exact hs

theorem sandHoldChange_keeps (old new : Hold) {s : State} (hs : P s) : P (sandHoldChange old new s) := by
  unfold sandHoldChange
  repeat' split
  · exact dropEntries_keeps h _ hs
  · exact dropEntries_keeps h _ hs
  · exact hs

theorem sandDirection_keeps {s : State} (hs : P s) : P (sandDirection s) := dropEntries_keeps h _ hs

theorem raiseIfEmpty_keeps (e : Side) {s : State} (hs : P s) : P (raiseIfEmpty e s) := by
  unfold raiseIfEmpty
  split
  · exact raiseFault_keeps h (by simp) hs
  · exact hs

theorem closeShot_keeps (cause : ShotCause) (e : Side) {s : State} (hs : P s) :
    P (closeShot cause e s) := by
  unfold closeShot
  split
  · exact raiseIfEmpty_keeps h e (h.report _ (h.view (s := s) rfl hs))
  · exact hs
  · exact hs

theorem closeForFill_keeps (e : Side) {s : State} (hs : P s) : P (closeForFill e s) := by
  unfold closeForFill
  split
  · exact h.report _ (h.view (s := s) rfl hs)
  · exact hs
  · exact hs

theorem fillSand_keeps (e : Side) (level : Nat) {s : State} (hs : P s) : P (fillSand e level s) := by
  have ht : P ((closeForFill e s).setLevel e level) :=
    h.view (setLevel_view _ _ _) (closeForFill_keeps h e hs)
  unfold fillSand
  dsimp only
  split
  · exact judgeEnd_keeps h e (endFault_keeps h (by simp) ht)
  · exact judgeEnd_keeps h e ht

theorem sandSegmentChange_keeps {s : State} (hs : P s) : P (sandSegmentChange s) :=
  judgeEnds_keeps h (someOrder_keeps h (fun f hf t ht => by
    obtain ⟨e, _, rfl⟩ := List.mem_map.mp hf
    exact closeShot_keeps h _ e ht) hs)

theorem sandDistance_keeps (mm : Nat) {s : State} (hs : P s) : P (sandDistance mm s) := by
  unfold sandDistance
  refine someOrder_keeps h (fun f hf t ht => ?_) hs
  split at hf
  · rcases List.mem_cons.mp hf with rfl | hf
    · exact h.view (lowerSanded_view mm t) ht
    · rw [List.mem_singleton.mp hf]; exact judgeEnds_keeps h ht
  · rw [List.mem_singleton.mp hf]; exact h.view (lowerSanded_view mm t) ht

theorem abandonShot_keeps (e : Side) {s : State} (hs : P s) : P (abandonShot e s) := by
  unfold abandonShot
  split
  · exact raiseIfEmpty_keeps h e (h.view (s := s) rfl hs)
  · exact hs
  · exact hs

theorem leaveSand_keeps {s : State} (hs : P s) : P (leaveSand s) := by
  have ht := someOrder_keeps h (l := (Side.all.filter (isPouring s)).map abandonShot)
    (fun f hf t ht => by
      obtain ⟨e, _, rfl⟩ := List.mem_map.mp hf
      exact abandonShot_keeps h e ht) hs
  unfold leaveSand
  dsimp only
  exact h.same (h.sand [] (fun _ => sandWf_nil) ht) rfl

theorem restartSand_keeps {s : State} (hs : P s) : P (restartSand s) :=
  h.same (leaveSand_keeps h hs) rfl

/-! The slide trip -/

theorem tripReport_keeps (x : Bogie) (axle : Axle) (action : TripAction) (slip accel : Int)
    (openTime : Time) {s : State} (hs : P s) : P (tripReport x axle action slip accel openTime s) :=
  h.report _ hs

theorem closeDump_keeps (cause : CloseCause) (slip accel : Int) (floors : PerBogie AimCause) (x : Bogie)
    {s : State} (hs : P s) : P (closeDump cause slip accel floors x s) := by
  unfold closeDump
  dsimp only
  split
  · exact hs
  · exact tripReport_keeps h _ _ _ _ _ _
      (h.view ((rerunWith_view _ _).trans ((zeroCounters_view _ _).trans (setStu_view _ _ _))) hs)

theorem openDump_keeps (x : Axle) (p : Sample) {s : State} (hs : P s) : P (openDump x p s) := by
  unfold openDump
  exact tripReport_keeps h _ _ _ _ _ _ (h.view ((zeroCounters_view _ _).trans
    ((rerun_view _).trans ((jumpOutput_view _ _ _).trans (setStu_view _ _ _)))) hs)

theorem suppressTrip_keeps (x : Axle) (p : Sample) {s : State} (hs : P s) : P (suppressTrip x p s) := by
  unfold suppressTrip
  dsimp only
  split
  · exact hs
  · exact tripReport_keeps h _ _ _ _ _ _ (h.view (setStu_view _ _ _) hs)

theorem fireTrip_keeps (x : Axle) (p : Sample) {s : State} (hs : P s) : P (fireTrip x p s) := by
  unfold fireTrip
  split
  · exact suppressTrip_keeps h x p hs
  · split
    · exact openDump_keeps h x p hs
    · exact tripReport_keeps h _ _ _ _ _ _ hs

theorem filterArrival_keeps (x : Axle) (p : Sample) {s : State} (hs : P s) :
    P (filterArrival x p s) := by
  unfold filterArrival
  dsimp only
  repeat' split
  · exact hs
  · exact fireTrip_keeps h x p (h.view (setCounter_view _ _ _) hs)
  · exact h.view (setCounter_view _ _ _) hs
  · exact h.view (setCounter_view _ _ _) hs

theorem episodeArrival_keeps (x : Axle) (p : Sample) {s : State} (hs : P s) :
    P (episodeArrival x p s) := by
  unfold episodeArrival
  dsimp only
  repeat' split
  · exact closeDump_keeps h _ _ _ _ _ hs
  · exact hs
  · exact closeDump_keeps h _ _ _ _ _ hs
  · exact hs

theorem tripArrival_keeps (x : Axle) (p : Sample) {s : State} (hs : P s) : P (tripArrival x p s) := by
  unfold tripArrival
  repeat' split
  · exact filterArrival_keeps h x p hs
  · exact episodeArrival_keeps h x p hs
  · exact hs

theorem freshApplication_keeps {s : State} (hs : P s) : P (freshApplication s) :=
  h.view (freshApplication_view s) hs

theorem closeDumps_keeps (cause : CloseCause) (floors : PerBogie AimCause) (which : List Bogie) {s : State}
    (hs : P s) : P (closeDumps cause floors which s) :=
  someOrder_keeps h (fun f hf t ht => by
    obtain ⟨x, _, rfl⟩ := List.mem_map.mp hf
    exact closeDump_keeps h _ _ _ _ x ht) hs

theorem tripModeChange_keeps (old new : Mode) {s : State} (hs : P s) : P (tripModeChange old new s) := by
  unfold tripModeChange
  repeat' split
  · exact closeDumps_keeps h _ _ _ (freshApplication_keeps h hs)
  · exact freshApplication_keeps h hs
  · exact hs
  · exact hs

theorem tripFloorRise_keeps (rose : PerBogie Bool) (floors : PerBogie AimCause) {s : State} (hs : P s) :
    P (tripFloorRise rose floors s) := closeDumps_keeps h _ _ _ hs

theorem leaveTrip_keeps {s : State} (hs : P s) : P (leaveTrip s) := h.view (leaveTrip_view s) hs

/-! Hill hold -/

theorem hillPublish_keeps (old : State) (caught force : Bool) {also : List (State → State)}
    (ha : ∀ f ∈ also, ∀ t, P t → P (f t)) {s : State} (hs : P s) :
    P (hillPublish old caught force also s) := by
  unfold hillPublish
  dsimp only
  refine someOrder_keeps h (fun f hf t ht => ?_) hs
  simp only [List.mem_append] at hf
  rcases hf with ((hf | hf) | hf) | hf
  · split at hf
    · rw [List.mem_singleton.mp hf]; exact h.view (rerunWith_view _ t) ht
    · exact absurd hf List.not_mem_nil
  · split at hf
    · rw [List.mem_singleton.mp hf]; exact tripFloorRise_keeps h _ _ ht
    · exact absurd hf List.not_mem_nil
  · split at hf
    · rw [List.mem_singleton.mp hf]; exact sandHoldChange_keeps h _ _ ht
    · exact absurd hf List.not_mem_nil
  · exact ha f hf t ht

theorem moveHold_keeps (reason : HoldReason) {also : List (State → State)}
    (ha : ∀ f ∈ also, ∀ t, P t → P (f t)) (next : Hhu) {s : State} (hs : P s) :
    P (moveHold reason also next s) := by
  unfold moveHold
  refine hillPublish_keeps h s _ _ (fun f hf t ht => ?_) (h.view (s := s) rfl hs)
  rcases List.mem_cons.mp hf with rfl | hf
  · exact h.report _ ht
  · exact ha f hf t ht

theorem enterTakeUp_keeps {s : State} (hs : P s) : P (enterTakeUp s) := by
  unfold enterTakeUp
  refine moveHold_keeps h _ (fun f hf t ht => ?_) _ hs
  split at hf
  · rw [List.mem_singleton.mp hf]; exact requestLeading_keeps h _ (by decide) (by decide) ht
  · exact absurd hf List.not_mem_nil

theorem judgeTakeUp_keeps {s : State} (hs : P s) : P (judgeTakeUp s) := by
  unfold judgeTakeUp
  split
  · exact enterTakeUp_keeps h hs
  · exact hs

theorem enterHolding_keeps (reason : HoldReason) {s : State} (hs : P s) : P (enterHolding reason s) :=
  judgeTakeUp_keeps h (moveHold_keeps h _ (by simp) _ hs)

theorem enterReleased_keeps {s : State} (hs : P s) : P (enterReleased s) := by
  unfold enterReleased
  refine hillPublish_keeps h _ _ _ (fun f hf t ht => ?_) (h.view (s := s) rfl hs)
  rw [List.mem_singleton.mp hf]; exact h.report _ ht

theorem enterReleasing_keeps {s : State} (hs : P s) : P (enterReleasing s) := by
  unfold enterReleasing
  dsimp only
  have : ∀ {t : State} (r : Report), P t → P (hillPublish s false true [sendReport r] t) := by
    intro t r ht
    refine hillPublish_keeps h _ _ _ (fun f hf u hu => ?_) ht
    rw [List.mem_singleton.mp hf]; exact h.report _ hu
  split
  · exact enterReleased_keeps h (this _ (h.view (s := s) rfl hs))
  · exact this _ (h.view (s := s) rfl hs)

theorem returnToTakeUp_keeps {s : State} (hs : P s) : P (returnToTakeUp s) :=
  moveHold_keeps h _ (by simp) _ hs

theorem judgeDrive_keeps {s : State} (hs : P s) : P (judgeDrive s) := by
  unfold judgeDrive
  dsimp only
  split
  · split
    · exact enterReleasing_keeps h (h.view (s := s) rfl hs)
    · exact h.view (s := s) rfl hs
  · split
    · exact returnToTakeUp_keeps h (h.view (s := s) rfl hs)
    · exact hillPublish_keeps h _ _ _ (by simp) (h.view (s := s) rfl hs)
  · exact hs
  · exact hs
  · exact hs

theorem hillReading_keeps {s : State} (hs : P s) : P (hillReading s) := by
  unfold hillReading
  split
  · exact judgeTakeUp_keeps h hs
  · exact judgeDrive_keeps h hs
  · exact judgeDrive_keeps h hs
  · exact hs
  · exact hs

theorem confirmComplete_keeps {s : State} (hs : P s) : P (confirmComplete s) := by
  unfold confirmComplete
  dsimp only
  repeat' split
  · exact enterReleasing_keeps h (h.view (s := s) rfl hs)
  · exact h.view (s := s) rfl hs
  · exact h.report _ (h.view (s := s) rfl hs)

theorem takeUpTimeout_keeps {s : State} (hs : P s) : P (takeUpTimeout s) :=
  enterHolding_keeps h _ (h.view (s := s) rfl hs)

theorem releaseRampDone_keeps (x : Bogie) {s : State} (hs : P s) : P (releaseRampDone x s) := by
  unfold releaseRampDone
  dsimp only
  split
  · exact enterReleased_keeps h (h.view (s := s) rfl hs)
  · exact hillPublish_keeps h _ _ _ (by simp) (h.view (s := s) rfl hs)

theorem hillModeChange_keeps (old new : Mode) {s : State} (hs : P s) : P (hillModeChange old new s) := by
  unfold hillModeChange
  dsimp only
  split
  · split
    · split
      · exact enterHolding_keeps h _ (h.view (s := s) rfl hs)
      · exact enterHolding_keeps h _ (h.view (s := s) rfl hs)
      · split
        · exact enterHolding_keeps h _ (h.view (s := s) rfl hs)
        · exact h.view (s := s) rfl hs
      · exact judgeTakeUp_keeps h (h.view (s := s) rfl hs)
      · exact h.view (s := s) rfl hs
    · exact judgeTakeUp_keeps h hs
  · exact hs

theorem hillStandstill_keeps {s : State} (hs : P s) : P (hillStandstill s) := by
  unfold hillStandstill
  split
  · split
    · exact enterHolding_keeps h _ hs
    · exact enterHolding_keeps h _ hs
    · exact hs
    · exact hs
    · exact hs
  · exact hs

theorem hillDirection_keeps {s : State} (hs : P s) : P (hillDirection s) := h.view (s := s) rfl hs

theorem startHill_keeps {s : State} (hs : P s) : P (startHill s) :=
  enterHolding_keeps h _ (h.view (s := s) rfl hs)

theorem leaveHill_keeps {s : State} (hs : P s) : P (leaveHill s) :=
  hillPublish_keeps h _ _ _ (by simp) (h.view (s := s) rfl hs)

theorem enterCatch_keeps {s : State} (hs : P s) : P (enterCatch s) := by
  unfold enterCatch
  dsimp only
  refine hillPublish_keeps h _ _ _ (fun f hf t ht => ?_) (h.view (s := s) rfl hs)
  rcases List.mem_cons.mp hf with rfl | hf
  · exact requestRollback_keeps h _ ht
  · rw [List.mem_singleton.mp hf]; exact h.report _ ht

theorem watchArrival_keeps (x : Axle) (p : Sample) {s : State} (hs : P s) : P (watchArrival x p s) := by
  unfold watchArrival
  dsimp only
  repeat' split
  · exact enterCatch_keeps h (h.view (s := s) rfl hs)
  · exact h.view (s := s) rfl hs
  · exact h.view (s := s) rfl hs

theorem hillArrival_keeps (x : Axle) (p : Sample) {s : State} (hs : P s) : P (hillArrival x p s) := by
  unfold hillArrival
  repeat' split
  · exact hs
  · exact enterHolding_keeps h _ hs
  · exact hs
  · exact watchArrival_keeps h x p hs
  · exact hs

/-! Adhesion -/

theorem axleReport_keeps (x : Axle) (cause : AxleCause) (left : AdhState) (slip : Int) {s : State}
    (hs : P s) : P (axleReport x cause left slip s) := h.report _ hs

theorem lowReport_keeps (x : Bogie) (cause : AxleCause) (state : AdhState) (slip : Int) {s : State}
    (hs : P s) : P (lowReport x cause state slip s) := h.report _ hs

theorem withdrawAxle_keeps (x : Axle) (state : AdhState) (cause : AxleCause) {act : State → State}
    (ha : ∀ t, (act t).view = t.view) {s : State} (hs : P s) : P (withdrawAxle x state cause act s) := by
  unfold withdrawAxle
  exact h.view ((hillUnwatch_view _ _).trans (deliverLimits_view _ _)) (axleReport_keeps h _ _ _ _
    (h.view ((ha _).trans ((holdUnsupervised_view _ _).trans (setAxle_view _ _ _))) hs))

theorem faultAxle_keeps (x : Axle) (p : Sample) {s : State} (hs : P s) : P (faultAxle x p s) :=
  withdrawAxle_keeps h _ _ _ (unjudgedLimit_view x p) hs

theorem restoreAxle_keeps (x : Axle) {s : State} (hs : P s) : P (restoreAxle x s) :=
  axleReport_keeps h _ _ _ _ (h.view (setAxle_view _ _ _) hs)

theorem completeSlip_keeps (x : Axle) (left : AdhState) (slip : Int) {s : State} (hs : P s) :
    P (completeSlip x left slip s).2 := by
  unfold completeSlip
  dsimp only
  split
  · exact lowReport_keeps h _ _ _ _ (axleReport_keeps h _ _ _ _ (h.view (setBogie_view _ _ _) hs))
  · exact axleReport_keeps h _ _ _ _ (h.view (setBogie_view _ _ _) hs)

theorem slipSand_keeps (x : Axle) (sets : Bool) {s : State} (hs : P s) : P (slipSand x sets s) :=
  requestLeadingAll_keeps h _ (fun n hn => by
    unfold slipShots at hn
    cases x.isMotor <;> cases sets <;> simp at hn <;> omega) hs

theorem judgeArrival_keeps (x : Axle) (p : Sample) (judged : Bool) {s : State} (hs : P s) :
    P (judgeArrival x p judged s) := by
  unfold judgeArrival
  dsimp only
  have hu : P (if judged = true then s.setAxle x (judgeAxle x p s) else s) := by
    split
    · exact h.view (setAxle_view _ _ _) hs
    · exact hs
  generalize (if judged = true then s.setAxle x (judgeAxle x p s) else s) = u at hu
  have ht : ∀ v, P (u.setBogie x.bogie v) := fun v => h.view (setBogie_view _ _ _) hu
  split
  · refine someOrder_keeps h (fun f hf t ht => ?_) (completeSlip_keeps h _ _ _ (ht _))
    rcases List.mem_cons.mp hf with rfl | hf
    · exact h.view (deliverLimits_view _ _) ht
    · rw [List.mem_singleton.mp hf]; exact slipSand_keeps h _ _ ht
  · refine h.view (deliverLimits_view _ _) ?_
    split
    · exact axleReport_keeps h _ _ _ _ (ht _)
    · exact ht _

theorem adhArrival_keeps (x : Axle) (p : Sample) (raised : Bool) {s : State} (hs : P s) :
    P (adhArrival x p raised s) := by
  unfold adhArrival
  repeat' split
  · exact faultAxle_keeps h x p hs
  · exact judgeArrival_keeps h x p _ hs
  · exact hs

theorem lowExpiry_keeps (x : Bogie) {s : State} (hs : P s) : P (lowExpiry x s) := by
  unfold lowExpiry
  dsimp only
  split
  · exact lowReport_keeps h _ _ _ _ (h.view (setBogie_view _ _ _) hs)
  · exact h.view (setBogie_view _ _ _) hs

/-! Route -/

theorem segmentChange_keeps {s : State} (hs : P s) : P (segmentChange s) :=
  someOrder_keeps h (fun f hf t ht => by
    rcases List.mem_cons.mp hf with rfl | hf
    · exact rerun_keeps h ht
    · rw [List.mem_singleton.mp hf]; exact sandSegmentChange_keeps h ht) hs

theorem beyondRoute_keeps {s : State} (hs : P s) : P s.beyondRoute :=
  h.route _ (fun _ => routeWf_powerOn) hs

theorem emptyRoute_keeps (reason : RouteReason) {s : State} (hs : P s) : P (emptyRoute reason s) := by
  unfold emptyRoute
  split
  · exact hs
  · exact segmentChange_keeps h (h.report _ (beyondRoute_keeps h hs))

theorem routeDirection_keeps {s : State} (hs : P s) : P (routeDirection s) := emptyRoute_keeps h _ hs

theorem reportPassed_keeps (l : List (Nat × Nat)) {s : State} (hs : P s) : P (reportPassed l s) := by
  unfold reportPassed
  generalize s.rlq.uncertain = u
  generalize s.nowMs = now
  induction l generalizing s with
  | nil => exact hs
  | cons g rest ih => exact ih (h.report _ hs)

omit h in
theorem reportPassed_rlq (l : List (Nat × Nat)) (s : State) : (reportPassed l s).rlq = s.rlq := by
  unfold reportPassed
  generalize s.rlq.uncertain = u
  generalize s.nowMs = now
  induction l generalizing s with
  | nil => rfl
  | cons g rest ih => exact (ih _).trans (sendReport_rlq _ s)

theorem advance_keeps (p : Nat) {s : State} (hs : P s) : P (advance p s) := by
  unfold advance
  dsimp only
  split
  · exact segmentChange_keeps h (h.report _ (beyondRoute_keeps h (reportPassed_keeps h _ hs)))
  · rename_i hq
    have hr : P { reportPassed (retire s.rlq.queue p).passed s with
        rlq := { (reportPassed (retire s.rlq.queue p).passed s).rlq with
          queue := (retire s.rlq.queue p).queue, pos := some (retire s.rlq.queue p).pos } } := by
      refine h.route _ (fun w => ?_) (reportPassed_keeps h _ hs)
      rw [reportPassed_rlq] at w ⊢
      exact routeWf_suffix s.rlq.uncertain w (retire_suffix _ _) hq fun g rest e => retire_pos _ _ e
    split
    · exact hr
    · exact segmentChange_keeps h hr

theorem routeDistance_keeps (m : Int) {s : State} (hs : P s) : P (routeDistance m s) := by
  unfold routeDistance
  dsimp only
  split
  · exact hs
  · rename_i hq
    split
    · exact h.route _ (fun w => routeWf_clamp w hq) hs
    · exact advance_keeps h _ hs

/-! Reference -/

theorem distance_keeps (m : Int) {s : State} (hs : P s) : P (distance m s) := by
  unfold distance
  split
  · exact hs
  · refine someOrder_keeps h (fun f hf t ht => ?_) hs
    rcases List.mem_cons.mp hf with rfl | hf
    · exact routeDistance_keeps h m ht
    · rw [List.mem_singleton.mp hf]; exact sandDistance_keeps h _ ht

theorem odometry_keeps (dt : Nat) {s : State} (hs : P s) : P (odometry dt s) :=
  distance_keeps h _ (h.view (s := s) rfl hs)

theorem refReport_keeps (left : RefMode) {s : State} (hs : P s) : P (refReport left s) := h.report _ hs

theorem update_keeps (now : Time) (f : Nat → Ref → Ref) {s : State} (hs : P s) : P (update now f s) := by
  unfold update
  dsimp only
  refine odometry_keeps h _ ?_
  split
  · exact h.view (s := s) rfl hs
  · exact refReport_keeps h _ (h.view (s := s) rfl hs)

theorem leaveLost_keeps {s : State} (hs : P s) : P (leaveLost s) :=
  h.same (endFault_keeps h (id := .referenceLost) (by simp) hs) rfl

theorem enterStandstill_keeps {s : State} (hs : P s) : P (enterStandstill s) := by
  unfold enterStandstill
  dsimp only
  have ht : P (if s.ref.active = .lost then leaveLost s else s) := by
    split
    · exact leaveLost_keeps h hs
    · exact hs
  exact hillStandstill_keeps h (refReport_keeps h _ (h.same ht rfl))

theorem judgeStandstill_keeps {s : State} (hs : P s) : P (judgeStandstill s) := by
  unfold judgeStandstill
  split
  · exact enterStandstill_keeps h hs
  · exact hs

theorem lostUpdate_keeps (x : Axle) (p : Sample) {s : State} (hs : P s) : P (lostUpdate x p s) := by
  unfold lostUpdate
  dsimp only
  split
  · exact update_keeps h _ _ (leaveLost_keeps h hs)
  · exact update_keeps h _ _ hs

theorem enterFused_keeps (left : RefMode) (p : Sample) {s : State} (hs : P s) :
    P (enterFused left p s) := by
  have moved : ∀ r : Ref, P { s with ref := r } := fun _ => h.view (s := s) rfl hs
  unfold enterFused
  dsimp only
  split
  · exact odometry_keeps h _ (refReport_keeps h _ (moved _))
  · refine odometry_keeps h _ (refReport_keeps h _ ?_)
    exact h.same (refReport_keeps h left (moved _)) rfl

theorem standstillArrival_keeps (x : Axle) (p : Sample) {s : State} (hs : P s) :
    P (standstillArrival x p s) := by
  unfold standstillArrival
  repeat' split
  · exact update_keeps h _ _ hs
  · exact enterFused_keeps h _ p hs
  · exact update_keeps h _ _ hs

theorem movingArrival_keeps (x : Axle) (p : Sample) {s : State} (hs : P s) : P (movingArrival x p s) := by
  have ht := h.view (judgeConfirm_view p.endTime s) hs
  unfold movingArrival
  dsimp only
  repeat' split
  · exact judgeStandstill_keeps h (enterFused_keeps h _ p ht)
  · exact judgeStandstill_keeps h (update_keeps h _ _ ht)
  · exact judgeStandstill_keeps h (update_keeps h _ _ ht)
  · exact judgeStandstill_keeps h (lostUpdate_keeps h x p ht)
  · exact ht
  · exact ht

theorem refArrival_keeps (x : Axle) (p : Sample) {s : State} (hs : P s) : P (refArrival x p s) := by
  unfold refArrival
  repeat' split
  · exact hs
  · exact standstillArrival_keeps h x p hs
  · exact movingArrival_keeps h x p hs

theorem disengage_keeps {s : State} (hs : P s) : P (disengage s) :=
  refReport_keeps h _ (h.view (s := s) rfl hs)

theorem refGround_keeps (p : Sample) {s : State} (hs : P s) : P (refGround p s) := by
  have ht : P { s with ref.engage := engageCount s.ref p } := h.view (s := s) rfl hs
  unfold refGround
  dsimp only
  repeat' split
  · exact hs
  · exact disengage_keeps h hs
  · exact judgeStandstill_keeps h (update_keeps h _ _ ht)
  · exact disengage_keeps h ht
  · exact ht
  · exact judgeStandstill_keeps h (update_keeps h _ _ ht)
  all_goals exact ht

theorem heldExpiry_keeps {s : State} (hs : P s) : P (heldExpiry s) := by
  unfold heldExpiry
  dsimp only
  have h1 := raiseFault_keeps h (id := .referenceLost) (by simp)
    (s := { s with ref := { s.ref with
      active := .lost, heldTimer := none, resync := PerAxle.of fun _ => 0 } })
    (h.view (s := s) rfl hs)
  generalize raiseFault .referenceLost { s with ref := { s.ref with
    active := .lost, heldTimer := none, resync := PerAxle.of fun _ => 0 } } = u at h1
  have h2 : P (if s.isActive = true then { u with sfc.refLostTimer := s.timer 5000 } else u) := by
    split
    · exact h.view (s := u) rfl h1
    · exact h1
  refine someOrder_keeps h (fun f hf t ht => ?_) (refReport_keeps h _ h2)
  have : f = adhLost ∨ f = requestLeading .adhesion 3 := by
    split at hf
    · simpa using hf
    · exact Or.inl (by simpa using hf)
  rcases this with rfl | rfl
  · exact h.view (adhLost_view t) ht
  · exact requestLeading_keeps h _ (by decide) (by decide) ht

theorem confirmExpiry_keeps {s : State} (hs : P s) : P (confirmExpiry s) :=
  judgeStandstill_keeps h (h.view (s := s) rfl hs)

/-! Demand -/

theorem deliverDemand_keeps (old : Demand) {also : List (State → State)}
    (ha : ∀ f ∈ also, ∀ t, P t → P (f t)) {s : State} (hs : P s) : P (deliverDemand old also s) := by
  unfold deliverDemand
  refine someOrder_keeps h (fun f hf t ht => ?_) hs
  simp only [List.mem_append, List.mem_cons] at hf
  rcases hf with (hf | hf) | hf | hf
  · split at hf
    · exact absurd hf List.not_mem_nil
    · simp only [directionDeliveries, List.mem_cons, List.not_mem_nil, or_false] at hf
      rcases hf with rfl | rfl | rfl
      · exact routeDirection_keeps h ht
      · exact hillDirection_keeps h ht
      · exact sandDirection_keeps h ht
  · split at hf
    · exact absurd hf List.not_mem_nil
    · simp only [modeDeliveries, List.mem_cons, List.not_mem_nil, or_false] at hf
      rcases hf with rfl | rfl | rfl | rfl
      · exact h.view (adhModeChange_view _ _ t) ht
      · exact hillModeChange_keeps h _ _ ht
      · exact tripModeChange_keeps h _ _ ht
      · exact sandModeChange_keeps h _ _ ht
  · rw [hf]; exact rerun_keeps h ht
  · exact ha f hf t ht

theorem endStale_keeps {s : State} (hs : P s) : P (endStale s) := by
  unfold endStale
  split
  · exact endFault_keeps h (by simp) hs
  · exact hs

theorem deliverTaken_keeps (f : DemandFields) {s : State} (hs : P s) : P (deliverTaken f s) :=
  deliverDemand_keeps h _ (by simp) (endStale_keeps h (h.view (setDemand_view _ _) hs))

theorem applyDemand_keeps (f : DemandFields) {s : State} (hs : P s) : P (applyDemand f s) := by
  unfold applyDemand
  split
  · exact h.view (releaseTrack_view _) (deliverTaken_keeps h f (h.view (releaseTrack_view s) hs))
  · exact deliverTaken_keeps h f hs

theorem reportStale_keeps (mode : Mode) (effort : Nat) {s : State} (hs : P s) :
    P (reportStale mode effort s) := h.report _ (raiseFault_keeps h (by simp) hs)

theorem demandTimeout_keeps {s : State} (hs : P s) : P (demandTimeout s) := by
  unfold demandTimeout
  refine deliverDemand_keeps h _ (fun f hf t ht => ?_) (h.view (setDemand_view _ _) hs)
  rw [List.mem_singleton.mp hf]; exact reportStale_keeps h _ _ ht

theorem startBlend_keeps {s : State} (hs : P s) : P (startBlend s) :=
  deliverDemand_keeps h _ (by simp) (h.view (setDemand_view _ _) hs)

/-! Operating states -/

theorem stateReport_keeps (left : OpState) (cause : StateCause) {s : State} (hs : P s) :
    P (stateReport left cause s) := h.report _ hs

theorem changeState_keeps (new : OpState) (cause : StateCause) {blocks : List (State → State)}
    (hb : ∀ f ∈ blocks, ∀ t, P t → P (f t)) {s : State} (hs : P (s.setOpState new)) :
    P (changeState new cause blocks s) := by
  unfold changeState
  refine someOrder_keeps h (fun f hf t ht => ?_) hs
  rcases List.mem_cons.mp hf with rfl | hf
  · exact stateReport_keeps h _ _ ht
  · exact hb f hf t ht

theorem enterFailsafe_keeps (cause : StateCause) {s : State} (hs : P s) : P (enterFailsafe cause s) := by
  unfold enterFailsafe
  split
  · rename_i ha
    refine changeState_keeps h _ _ (fun f hf t ht => ?_)
      (h.failsafe ha (s := { s with sfc.refLostTimer := none }) (h.view (s := s) rfl hs))
    simp only [List.mem_cons, List.not_mem_nil, or_false] at hf
    rcases hf with rfl | rfl | rfl | rfl | rfl
    · exact h.view (leaveAdh_view t) ht
    · exact leaveHill_keeps h ht
    · exact leaveSand_keeps h ht
    · exact leaveTrip_keeps h ht
    · exact h.view (failsafeBlend_view t) ht
  · exact hs

theorem judgeAxles_keeps {s : State} (hs : P s) : P (judgeAxles s) := by
  unfold judgeAxles
  split
  · exact enterFailsafe_keeps h _ hs
  · exact hs

theorem judgePressures_keeps {s : State} (hs : P s) : P (judgePressures s) := by
  unfold judgePressures
  split
  · exact enterFailsafe_keeps h _ hs
  · exact hs

theorem referenceLostExpiry_keeps {s : State} (hs : P s) : P (referenceLostExpiry s) :=
  enterFailsafe_keeps h _ (h.view (s := s) rfl hs)

/-! Feedback -/

theorem raisePressure_keeps (x : Bogie) {s : State} (hs : P s) : P (raisePressure x s) := by
  unfold raisePressure
  split
  · exact hs
  · exact judgePressures_keeps h (rerun_keeps h (raiseFault_keeps h (by simp) hs))

theorem endPressure_keeps (x : Bogie) {s : State} (hs : P s) : P (endPressure x s) := by
  unfold endPressure
  split
  · exact hs
  · exact endFault_keeps h (by simp) hs

theorem saturationSet_keeps (c : Analog) {s : State} (hs : P s) : P (saturationSet c s) := by
  unfold saturationSet
  split
  · exact raisePressure_keeps h _ hs
  · split
    · exact hs
    · exact rerun_keeps h (raiseFault_keeps h (by simp) hs)

theorem saturationCleared_keeps (c : Analog) {s : State} (hs : P s) : P (saturationCleared c s) := by
  unfold saturationCleared
  split
  · exact endPressure_keeps h _ hs
  · exact rerun_keeps h (endFault_keeps h (by simp) hs)

theorem deliverReading_keeps (c : Analog) {s : State} (hs : P s) : P (deliverReading c s) := by
  unfold deliverReading
  split
  · exact h.view (superviseReading_view _ _ s) hs
  · refine someOrder_keeps h (fun f hf t ht => ?_) hs
    rcases List.mem_cons.mp hf with rfl | hf
    · exact rerun_keeps h ht
    · rw [List.mem_singleton.mp hf]; exact hillReading_keeps h ht

theorem deliverCause_keeps (c : Analog) (v : Conversion) {s : State} (hs : P s) :
    P (deliverCause c v s) := by
  unfold deliverCause
  repeat' split
  · exact saturationSet_keeps h c hs
  · exact saturationCleared_keeps h c hs
  · exact hs

theorem afterConversion_keeps (c : Analog) (v : Conversion) {s : State} (hs : P s) :
    P (afterConversion c v s) := by
  have pub : ∀ {t : State}, P t → P (if v.publishes = true then deliverReading c t else t) := by
    intro t ht
    split
    · exact deliverReading_keeps h c ht
    · exact ht
  unfold afterConversion
  dsimp only
  split
  · exact pub (deliverCause_keeps h _ v hs)
  · exact deliverCause_keeps h _ v (pub hs)

theorem takeConversion_keeps (c : Analog) (code : BitVec 12) {s : State} (hs : P s) :
    P (takeConversion c code s) := by
  unfold takeConversion
  dsimp only
  repeat' split
  · exact h.view (setAnalog_view _ _ s) hs
  · exact afterConversion_keeps h c _ (h.view (setAnalog_view _ _ s) hs)
  · exact hs

theorem disagreementExpiry_keeps (x : Bogie) {s : State} (hs : P s) : P (disagreementExpiry x s) :=
  raisePressure_keeps h x (h.view (setSup_view _ _ s) hs)

theorem agreementExpiry_keeps (x : Bogie) {s : State} (hs : P s) : P (agreementExpiry x s) :=
  endPressure_keeps h x (h.view (setSup_view _ _ s) hs)

/-! Sample arrivals (R15) -/

theorem adhArrivalJudged_keeps (x : Axle) (p : Sample) (raised : Bool) {s : State} (hs : P s) :
    P (adhArrivalJudged x p raised s) := by
  unfold adhArrivalJudged
  dsimp only
  split
  · exact judgeAxles_keeps h (adhArrival_keeps h x p _ hs)
  · exact adhArrival_keeps h x p _ hs

theorem deliverSample_keeps (c : Chan) (p : Sample) (raised : Bool) {s : State} (hs : P s) :
    P (deliverSample c p raised s) := by
  unfold deliverSample
  split
  · refine someOrder_keeps h (fun f hf t ht => ?_) hs
    simp only [List.mem_cons, List.not_mem_nil, or_false] at hf
    rcases hf with rfl | rfl | rfl | rfl
    · exact refArrival_keeps h _ p ht
    · exact adhArrivalJudged_keeps h _ p raised ht
    · exact tripArrival_keeps h _ p ht
    · exact hillArrival_keeps h _ p ht
  · exact refGround_keeps h p hs

end

end Sys2Proof.Machine
end

