-- ==== Sys2Proof/Laws/Commands.lean ====
section
/-! SUPPORT. What a command keeps. A predicate that is `Kept` is kept by every command: what the deliveries do
(`Stable`), and the few changes that only a command makes of itself. `exec_keeps` and `step_keeps` say it. -/

namespace Sys2Proof.Machine

structure Kept (P : State → Prop) : Prop extends Stable P where
  chans : ∀ (w : PerChan Channel) {s : State}, P s → P { s with wsc := w }
  ebl : ∀ (x : Bool) {s : State}, P s → P { s with eblOpen := x }
  valid : ∀ (x : Bool) {s : State}, P s → P { s with groundLow := x }
  reply : ∀ (r : Reply) {s : State}, s.lnk.replies.length < 4 → P s → P (sendReply r s)
  notices : ∀ (x y : Bool) {s : State}, P s →
    P { s with lnk := { s.lnk with reportsLost := x, requestsDiscarded := y } }
  framer : ∀ (f : Framer) (t : Timer) {s : State}, P s →
    P { s with lnk := { s.lnk with framer := f, gapTimer := t } }
  discard : ∀ {s : State}, P s → P (discardFrame s)
  good : ∀ {s : State}, P s → P (countGood s)
  freed : ∀ {s : State}, restartReplyInFlight s = false → P s → P (arbitrate { s with lnk.inFlight := none })
  clear : ∀ (id : FaultId) {s : State}, (s.fault id).active = false → P s → P (clearFault id s)
  section_ : ∀ (id : SectionId) (sec : Nat) (fields : List Nat) {s : State},
    SectionId.ofNumber? sec = some id → fieldOutOfRange sec fields = none → P s →
    P { s with sfc := { s.sfc with
      cfg := storeSection id fields s.sfc.cfg, sent := markSent sec s.sfc.sent } }
  ready : ∀ {s : State}, s.sfc.opState = .unconfigured → allRequiredSent s.sfc.sent = true → P s →
    P (s.setOpState .ready)
  active : ∀ {s : State}, s.sfc.opState = .ready → P s → P (s.setOpState .active)
  stopped : ∀ {s : State}, s.isActive = true → P s → P (s.setOpState .ready)
  restart : ∀ (tag : Byte) {s : State}, s.sfc.restartPending = false → s.lnk.replies.length < 4 → P s →
    P (answer .restart tag (.ok []) { s with sfc.restartPending := true })
  effect : ∀ {s : State}, restartReplyInFlight s = true → P s → P (restartEffect s)

section

variable {P : State → Prop} (h : Kept P)
include h

theorem setChan_keeps (c : Chan) (v : Channel) {s : State} (hs : P s) : P (s.setChan c v) :=
  h.chans _ hs

theorem answer_keeps (k : ReqKind) (tag : Byte) (r : Result) {s : State}
    (room : s.lnk.replies.length < 4) (hs : P s) : P (answer k tag r s) := h.reply _ room hs

/-! Channels -/

theorem openWindow_keeps (c : Chan) {s : State} (hs : P s) : P (openWindow c s) := setChan_keeps h _ _ hs

omit h in
theorem countEdge_view (n : Nat) (s : State) : (countEdge n s).2.view = s.view := by
  unfold countEdge
  split
  · rfl
  · exact drawFrom_view _ _

omit h in
theorem edgeInWindow_view (dir : Direction) (w : Window) (s : State) :
    (edgeInWindow dir w s).2.view = s.view := by
  unfold edgeInWindow
  dsimp only
  split
  · exact countEdge_view _ s
  · exact countEdge_view _ s

theorem takeEdge_keeps (c : Chan) (dir : Direction) {s : State} (hs : P s) : P (takeEdge c dir s) := by
  unfold takeEdge
  dsimp only
  split
  · exact hs
  · exact setChan_keeps h _ _ (h.view (edgeInWindow_view _ _ s) hs)

theorem dropGround_keeps (low : Bool) {s : State} (hs : P s) : P (dropGround low s) := by
  unfold dropGround
  dsimp only
  split
  · exact h.valid _ hs
  · exact setChan_keeps h _ _ (h.valid _ hs)

omit h in
theorem chanFault_ne (c : Chan) : chanFault c ≠ .link := by cases c <;> simp [chanFault]

theorem followCounts_keeps (c : Chan) {s : State} (hs : P s) : P (followCounts c s) := by
  unfold followCounts
  repeat' split
  · exact raiseFault_keeps h.toStable (chanFault_ne c) hs
  · exact endFault_keeps h.toStable (chanFault_ne c) hs
  · exact hs

theorem closeWindow_keeps (c : Chan) (w : Window) (outcome : WindowOutcome) {s : State} (hs : P s) :
    P (closeWindow c w outcome s).2.2 := by
  unfold closeWindow
  exact openWindow_keeps h c (followCounts_keeps h c (setChan_keeps h _ _ hs))

theorem windowExpiry_keeps (c : Chan) (w : Window) {s : State} (hs : P s) :
    P (windowExpiry c w s) := by
  unfold windowExpiry
  dsimp only
  split
  · exact setChan_keeps h _ _ hs
  · exact deliverSample_keeps h.toStable c _ _ (closeWindow_keeps h c w _ hs)

theorem windowPeriodEnd_keeps (c : Chan) {s : State} (hs : P s) : P (windowPeriodEnd c s) := by
  unfold windowPeriodEnd
  split
  · exact hs
  · exact windowExpiry_keeps h c _ hs

theorem channelSection_keeps (c : Chan) (d : Option Nat) {s : State} (hs : P s) :
    P (channelSection c d s) := openWindow_keeps h c (setChan_keeps h _ _ hs)

theorem startChannels_keeps {s : State} (hs : P s) : P (startChannels s) := h.chans _ hs

/-! Requests: each answers once, then acts -/

theorem takeWheelTrim_keeps (tag axle : Byte) (d : BitVec 16) {s : State}
    (room : s.lnk.replies.length < 4) (hs : P s) : P (takeWheelTrim tag axle d s) := by
  unfold takeWheelTrim
  dsimp only
  split
  · exact setChan_keeps h _ _ (answer_keeps h _ _ _ room hs)
  · exact answer_keeps h _ _ _ room hs

theorem applyIsolate_keeps (x : Axle) {s : State} (hs : P s) : P (applyIsolate x s) := by
  unfold applyIsolate
  split
  · exact hs
  · exact judgeAxles_keeps h.toStable (withdrawAxle_keeps h.toStable _ _ _ (fun _ => rfl) (setChan_keeps h _ _ hs))

theorem takeAxleIsolate_keeps (tag axle : Byte) {s : State} (room : s.lnk.replies.length < 4)
    (hs : P s) : P (takeAxleIsolate tag axle s) := by
  unfold takeAxleIsolate
  split
  · exact answer_keeps h _ _ _ room hs
  · exact applyIsolate_keeps h _ (answer_keeps h _ _ _ room hs)

theorem applyRestore_keeps (x : Axle) {s : State} (ha : (s.fault (.sensor x)).active = false)
    (hs : P s) : P (applyRestore x s) := by
  unfold applyRestore
  split
  · exact restoreAxle_keeps h.toStable x (unlatchFault_keeps h.toStable (by simp) ha (setChan_keeps h _ _ hs))
  · exact hs

theorem takeAxleRestore_keeps (tag axle : Byte) {s : State} (room : s.lnk.replies.length < 4)
    (hs : P s) : P (takeAxleRestore tag axle s) := by
  unfold takeAxleRestore
  split
  · exact answer_keeps h _ _ _ room hs
  · split
    · exact answer_keeps h _ _ _ room hs
    · rename_i x _ ha
      refine applyRestore_keeps h x ?_ (answer_keeps h _ _ _ room hs)
      simpa [State.fault] using ha

theorem takeSegmentAppend_keeps (tag count : Byte) (records : List SegmentWord) {s : State}
    (room : s.lnk.replies.length < 4) (hs : P s) : P (takeSegmentAppend tag count records s) := by
  unfold takeSegmentAppend
  dsimp only
  split
  · exact answer_keeps h _ _ _ room hs
  · rename_i hc
    split
    · rename_i body hr
      have ok := appendResult_ok hr
      have ht : P (answer .segmentAppend tag (appendResult count records s) s) :=
        answer_keeps h _ _ _ room hs
      have hlen : 1 ≤ records.length := by
        have : records.length = count.toNat := by simpa [countFits] using hc
        omega
      have nonempty : ∀ q : List Segment, q ++ records.map segmentOf ≠ [] := by
        intro q e
        have := congrArg List.length e
        simp only [List.length_append, List.length_map, List.length_nil] at this
        omega
      have ne : ∀ g rest, s.rlq.queue ++ records.map segmentOf = g :: rest →
          (∀ x ∈ s.rlq.queue, segmentWf x) → 0 < g.length * 1000 := by
        intro g rest e w
        have hg : g ∈ s.rlq.queue ++ records.map segmentOf := by rw [e]; exact List.mem_cons_self
        rcases List.mem_append.mp hg with hg | hg
        · have := (w g hg).2.2.1; omega
        · obtain ⟨x, hx, rfl⟩ := List.mem_map.mp hg
          have := (ok.2.2.1 x hx).2.2.1; omega
      unfold appendSegments
      dsimp only
      rw [answer_rlq]
      split
      · rename_i hq
        refine segmentChange_keeps h.toStable (h.route _ (fun w => ?_) ht)
        rw [answer_rlq] at w
        exact routeWf_append 0 _ true w ok.2.1 (nonempty _) ok.2.2.1 ok.2.2.2.1
          ok.2.2.2.2 fun g rest e => ne g rest e w.2.2.1
      · rename_i hq
        refine h.route _ (fun w => ?_) ht
        rw [answer_rlq] at w
        have hp := w.2.2.2.1.mpr hq
        have hd := w.2.2.2.2.1.mpr hq
        obtain ⟨p, ep⟩ := Option.isSome_iff_exists.mp hp
        obtain ⟨d, ed⟩ := Option.isSome_iff_exists.mp hd
        have := routeWf_append p d s.rlq.uncertain w ok.2.1 (nonempty _) ok.2.2.1
          ok.2.2.2.1 ok.2.2.2.2 (fun g rest e => by
            have pin := w.2.2.2.2.2
            revert pin e
            unfold positionInHead
            cases hqq : s.rlq.queue with
            | nil => exact absurd hqq hq
            | cons g' r' =>
              rw [ep]
              intro e pin
              simp only [List.cons_append, List.cons.injEq] at e
              rw [← e.1]; exact of_decide_eq_true pin)
        rw [← ep, ← ed] at this
        exact this
    · exact answer_keeps h _ _ _ room hs

theorem takeRouteFlush_keeps (tag : Byte) {s : State} (room : s.lnk.replies.length < 4) (hs : P s) :
    P (takeRouteFlush tag s) := emptyRoute_keeps h.toStable _ (answer_keeps h _ _ _ room hs)

omit h in
/-- What an OK answer to a POSITION FIX says. -/
theorem fixResult_ok {id offset : Nat} {s : State} {body : List Byte}
    (e : fixResult id offset s = .ok body) :
    ∃ n g, segmentPlace id s.rlq.queue = some n ∧ s.rlq.queue[n]? = some g ∧ offset < g.length * 10 := by
  unfold fixResult at e
  split at e
  · exact absurd e (by simp)
  · split at e
    · exact absurd e (by simp)
    · rename_i n hn
      split at e
      · exact absurd e (by simp)
      · rename_i g hg
        split at e
        · exact absurd e (by simp)
        · exact ⟨n, g, hn, hg, by omega⟩

theorem takePositionFix_keeps (tag : Byte) (id : BitVec 16) (offset : BitVec 32) {s : State}
    (room : s.lnk.replies.length < 4) (hs : P s) : P (takePositionFix tag id offset s) := by
  unfold takePositionFix
  dsimp only
  have ht : P (answer .positionFix tag (fixResult id.toNat offset.toNat s) s) :=
    answer_keeps h _ _ _ room hs
  split
  · rename_i body hr
    obtain ⟨n, g, hn, hg, hl⟩ := fixResult_ok hr
    have hlt : n < s.rlq.queue.length := (List.getElem?_eq_some_iff.mp hg).1
    have hd : s.rlq.queue.drop n = g :: s.rlq.queue.drop (n + 1) := by
      rw [List.drop_eq_getElem_cons hlt, (List.getElem?_eq_some_iff.mp hg).2]
    rw [hn]
    unfold fixPosition
    dsimp only [Option.getD_some]
    have hr' : P { answer .positionFix tag (fixResult id.toNat offset.toNat s) s with
        rlq := { (answer .positionFix tag (fixResult id.toNat offset.toNat s) s).rlq with
          queue := (answer .positionFix tag (fixResult id.toNat offset.toNat s) s).rlq.queue.drop n
          pos := some (offset.toNat * 100), uncertain := false } } := by
      refine h.route _ (fun w => ?_) ht
      rw [answer_rlq] at w ⊢
      refine routeWf_suffix false w (List.drop_suffix _ _) (by rw [hd]; simp) fun g' rest e => ?_
      rw [hd] at e
      rw [← (List.cons.inj e).1]
      omega
    split
    · exact hr'
    · exact segmentChange_keeps h.toStable hr'
  · exact ht

theorem takeReferenceSelect_keeps (tag mode : Byte) {s : State} (room : s.lnk.replies.length < 4)
    (hs : P s) : P (takeReferenceSelect tag mode s) :=
  h.view (selectReference_view _ _) (answer_keeps h _ _ _ room hs)

theorem takeDemand_keeps (tag mode dir : Byte) (effort : BitVec 16) (permitted : Byte) {s : State}
    (room : s.lnk.replies.length < 4) (hs : P s) : P (takeDemand tag mode dir effort permitted s) := by
  unfold takeDemand
  dsimp only
  repeat' split
  · exact answer_keeps h _ _ _ room hs
  · exact applyDemand_keeps h.toStable _ (answer_keeps h _ _ _ room hs)
  · exact answer_keeps h _ _ _ room hs

theorem enterActive_keeps {s : State} (hr : s.sfc.opState = .ready) (hs : P s) : P (enterActive s) := by
  unfold enterActive
  refine judgeAxles_keeps h.toStable (changeState_keeps h.toStable _ _ (fun f hf t ht => ?_)
    (h.active hr hs))
  simp only [List.mem_cons, List.not_mem_nil, or_false] at hf
  rcases hf with rfl | rfl | rfl | rfl | rfl | rfl
  · exact startChannels_keeps h ht
  · exact h.view (startReference_view t) ht
  · exact h.view (startAdh_view t) ht
  · exact startBlend_keeps h.toStable ht
  · exact startHill_keeps h.toStable ht
  · exact freshApplication_keeps h.toStable ht

theorem takeStart_keeps (tag : Byte) {s : State} (room : s.lnk.replies.length < 4) (hs : P s) :
    P (takeStart tag s) := by
  unfold takeStart
  split
  · exact answer_keeps h _ _ _ room hs
  · rename_i hr
    refine enterActive_keeps h ?_ (answer_keeps h _ _ _ room hs)
    rw [answer_sfc]
    unfold startRefusal at hr
    split at hr
    · exact absurd hr (by simp)
    · rename_i hn; exact Decidable.of_not_not hn

theorem leaveActive_keeps {s : State} (ha : s.isActive = true) (hs : P s) : P (leaveActive s) := by
  unfold leaveActive
  refine endStale_keeps h.toStable (changeState_keeps h.toStable _ _ (fun f hf t ht => ?_)
    (h.stopped (s := { s with sfc.refLostTimer := none }) ha (h.view (s := s) rfl hs)))
  simp only [List.mem_cons, List.not_mem_nil, or_false] at hf
  rcases hf with rfl | rfl | rfl | rfl | rfl | rfl
  · exact h.view (leaveAdh_view t) ht
  · exact leaveHill_keeps h.toStable ht
  · exact leaveSand_keeps h.toStable ht
  · exact leaveTrip_keeps h.toStable ht
  · exact h.view (stopBlend_view t) ht
  · exact h.view (holdReference_view t) ht

theorem takeStop_keeps (tag : Byte) {s : State} (room : s.lnk.replies.length < 4) (hs : P s) :
    P (takeStop tag s) := by
  unfold takeStop
  split
  · rename_i hst
    refine leaveActive_keeps h ?_ (answer_keeps h _ _ _ room hs)
    have : s.isActive = true := by
      unfold stopTaken at hst
      exact (Bool.and_eq_true_iff.mp hst).1
    rw [← this]
    simp only [State.isActive, answer_sfc]
  · exact answer_keeps h _ _ _ room hs

theorem takeRestart_keeps (tag : Byte) {s : State} (np : s.sfc.restartPending = false)
    (room : s.lnk.replies.length < 4) (hs : P s) : P (takeRestart tag s) := by
  unfold takeRestart
  split
  · exact h.restart tag np room hs
  · exact answer_keeps h _ _ _ room hs

theorem sectionEffect_keeps (id : SectionId) (fields : List Nat) {s : State} (hs : P s) :
    P (sectionEffect id fields s) := by
  unfold sectionEffect
  split
  · exact rerun_keeps h.toStable hs
  · exact channelSection_keeps h _ _ hs
  · exact channelSection_keeps h _ _ hs
  · exact h.view (analogSection_view _ _ s) hs
  · split
    · exact h.view (parkOutputs_view s) hs
    · exact hs
  · exact hs
  · exact hs
  · exact judgeEnds_keeps h.toStable hs
  · exact h.view (zeroCounters_view _ s) hs

theorem judgeConfigured_keeps {s : State} (hs : P s) : P (judgeConfigured s) := by
  unfold judgeConfigured
  split
  · rename_i hc
    refine changeState_keeps h.toStable _ _ (fun f hf t ht => ?_) (h.ready hc.1 hc.2 hs)
    rw [List.mem_singleton.mp hf]; exact h.view (parkOutputs_view t) ht
  · exact hs

omit h in
/-- What an OK answer to a CONFIGURE says. -/
theorem configureResult_ok {sec : Nat} {fields : List Nat} {s : State} {body : List Byte}
    (e : configureResult sec fields s = .ok body) : fieldOutOfRange sec fields = none := by
  unfold configureResult at e
  split at e
  · exact absurd e (by simp)
  · split at e
    · exact absurd e (by simp)
    · split at e
      · exact absurd e (by simp)
      · split at e
        · exact absurd e (by simp)
        · assumption

theorem takeConfigure_keeps (tag sec : Byte) (fields : List Nat) {s : State}
    (room : s.lnk.replies.length < 4) (hs : P s) : P (takeConfigure tag sec fields s) := by
  unfold takeConfigure
  dsimp only
  split
  · exact answer_keeps h _ _ _ room hs
  · split
    · rename_i id body hid hr
      exact judgeConfigured_keeps h (sectionEffect_keeps h _ _
        (h.section_ id _ fields hid (configureResult_ok hr) (answer_keeps h _ _ _ room hs)))
    · exact answer_keeps h _ _ _ room hs

theorem clearInactive_keeps (id : FaultId) {s : State} (hs : P s) : P (clearInactive id s) := by
  unfold clearInactive
  split
  · exact hs
  · rename_i ha; exact h.clear id (by simpa using ha) hs

theorem clearFaults_keeps (kind number : Byte) {s : State} (hs : P s) :
    P (clearFaults kind number s) := by
  have all : ∀ (l : List FaultId) {t : State}, P t → P (l.foldl (fun t id => clearInactive id t) t) :=
    fun l _ ht => foldl_keeps l (fun id _ _ => clearInactive_keeps h id) ht
  unfold clearFaults deliverUnlatch
  have ht : P (if kind = 255 then FaultId.all.foldl (fun t id => clearInactive id t) s
      else match clearTarget kind number with
        | .error _ => s
        | .ok id => clearInactive id s) := by
    split
    · exact all _ hs
    · split
      · exact hs
      · exact clearInactive_keeps h _ hs
  generalize (if kind = 255 then FaultId.all.foldl (fun t id => clearInactive id t) s
      else match clearTarget kind number with
        | .error _ => s
        | .ok id => clearInactive id s) = t at ht ⊢
  split
  · exact rerun_keeps h.toStable ht
  · exact ht

theorem takeFaultClear_keeps (tag kind number : Byte) {s : State} (room : s.lnk.replies.length < 4)
    (hs : P s) : P (takeFaultClear tag kind number s) :=
  clearFaults_keeps h _ _ (answer_keeps h _ _ _ room hs)

theorem takeStatusQuery_keeps (tag group : Byte) {s : State} (room : s.lnk.replies.length < 4)
    (hs : P s) : P (takeStatusQuery tag group s) := by
  unfold takeStatusQuery
  split
  · exact answer_keeps h _ _ _ room hs
  · exact answer_keeps h _ _ _
      (s := { s with lnk := { s.lnk with reportsLost := false, requestsDiscarded := false } }) room
      (h.notices false false hs)

omit h in
/-- What an OK answer to a SAND REQUEST says. -/
theorem sandRequestResult_ok {side shots : Byte} {s : State} {body : List Byte}
    (e : sandRequestResult side shots s = .ok body) : 1 ≤ shots.toNat ∧ shots.toNat ≤ 10 := by
  unfold sandRequestResult at e
  split at e
  · exact absurd e (by simp)
  · split at e
    · exact absurd e (by simp)
    · omega

theorem takeSandRequest_keeps (tag side shots : Byte) {s : State} (room : s.lnk.replies.length < 4)
    (hs : P s) : P (takeSandRequest tag side shots s) := by
  unfold takeSandRequest
  dsimp only
  split
  · rename_i hr
    have ok := sandRequestResult_ok hr
    exact joinSand_keeps h.toStable _ _ _ ok.1 ok.2 (answer_keeps h _ _ _ room hs)
  · exact answer_keeps h _ _ _ room hs

theorem takeSandFill_keeps (tag side : Byte) (level : BitVec 16) {s : State}
    (room : s.lnk.replies.length < 4) (hs : P s) : P (takeSandFill tag side level s) := by
  unfold takeSandFill
  dsimp only
  split
  · exact fillSand_keeps h.toStable _ _ (answer_keeps h _ _ _ room hs)
  · exact answer_keeps h _ _ _ room hs

/-- R193, cases 1 and 2: what every owner keeps where it may answer, a request keeps. -/
theorem asRequest_keeps {owner : State → State} {s : State}
    (ho : s.sfc.restartPending = false → s.lnk.replies.length < 4 → P (owner s)) (hs : P s) :
    P (asRequest owner s) := by
  unfold asRequest
  split
  · exact hs
  · split
    · exact h.notices s.lnk.reportsLost true hs
    · rename_i np nr
      exact ho (by simpa using np) (by omega)

theorem passToOwner_keeps (i : Instr) {s : State} (np : s.sfc.restartPending = false)
    (room : s.lnk.replies.length < 4) (hs : P s) : P (passToOwner i s) := by
  unfold passToOwner
  split
  · exact answer_keeps h _ _ _ room hs
  · exact takeConfigure_keeps h _ _ _ room hs
  · exact takeStart_keeps h _ room hs
  · exact takeStop_keeps h _ room hs
  · exact takeRestart_keeps h _ np room hs
  · exact takeDemand_keeps h _ _ _ _ _ room hs
  · exact takeReferenceSelect_keeps h _ _ room hs
  · exact takeAxleIsolate_keeps h _ _ room hs
  · exact takeAxleRestore_keeps h _ _ room hs
  · exact takeWheelTrim_keeps h _ _ _ room hs
  · exact takeSegmentAppend_keeps h _ _ _ room hs
  · exact takeRouteFlush_keeps h _ room hs
  · exact takePositionFix_keeps h _ _ _ room hs
  · exact takeSandRequest_keeps h _ _ _ room hs
  · exact takeSandFill_keeps h _ _ _ room hs
  · exact takeStatusQuery_keeps h _ _ room hs
  · exact answer_keeps h _ _ _ room hs
  · exact takeFaultClear_keeps h _ _ _ room hs
  · exact hs

/-! The link -/

theorem hunt_keeps {s : State} (hs : P s) : P (hunt s) := h.framer _ _ hs

theorem dispose_keeps (kind tag : Byte) (body : List Byte) {s : State}
    (np : s.sfc.restartPending = false) (room : s.lnk.replies.length < 4) (hs : P s) :
    P (dispose kind tag body s) := by
  unfold dispose
  split
  · exact h.reply _ room hs
  · split
    · exact h.reply _ room hs
    · exact passToOwner_keeps h _ np room hs

theorem completeFrame_keeps (kind tag : Byte) (body : List Byte) (crc : BitVec 16) {s : State}
    (hs : P s) : P (completeFrame kind tag body crc s) := by
  unfold completeFrame
  repeat' split
  · exact hs
  · exact asRequest_keeps h (fun np room => dispose_keeps h _ _ _ np room (h.good hs)) (h.good hs)
  · exact h.discard hs

theorem takeFrame_keeps (f : RxFrame) {s : State} (hs : P s) : P (takeFrame f s) := by
  unfold takeFrame
  split
  · exact h.discard (hunt_keeps h hs)
  · exact completeFrame_keeps h _ _ _ _ (hunt_keeps h hs)

theorem takeByte_keeps (x : Byte) (fe : Bool) {s : State} (hs : P s) : P (takeByte x fe s) := by
  unfold takeByte
  split
  · split
    · exact h.framer _ _ hs
    · exact hs
  · split
    · exact h.discard (hunt_keeps h hs)
    · unfold byteInFrame
      dsimp only
      repeat' split
      · exact h.discard (hunt_keeps h hs)
      · exact completeFrame_keeps h _ _ _ _ (hunt_keeps h hs)
      · exact h.framer _ _ hs

theorem frameSent_keeps {s : State} (hs : P s) : P (frameSent s) := by
  unfold frameSent
  repeat' split
  · exact hs
  · rename_i hr; exact h.effect hr hs
  · rename_i hr; exact h.freed (by simpa using hr) hs

omit h in
theorem whenDue_keeps (i : Instr) {f : State → State} {s : State} (hf : P s → P (f s)) (hs : P s) :
    P (whenDue i f s) := by
  unfold whenDue
  split
  · exact hf hs
  · exact hs

/-! Every command -/

omit h in
/-- Each command answers a next state. -/
theorem exec_next (i : Instr) (s : State) : ∃ t, exec i s = .next t := by
  cases i <;> exact ⟨_, rfl⟩

/-- What the changes of a command keep, every command keeps; what it takes of power-on reset is said apart. -/
theorem exec_keeps {i : Instr} {s t : State} (e : exec i s = .next t)
    (reset : ∀ x y, i = .powerOnReset x y → P (powerOn x y s)) (hs : P s) : P t := by
  have S := h.toStable
  cases i <;> (obtain rfl := Host.Outcome.next.inj e)
  case powerOnReset x y => exact reset x y rfl
  case frameReceived f => exact takeFrame_keeps h f hs
  case gapTimerExpiry => exact whenDue_keeps _ (fun hs => h.discard (hunt_keeps h hs)) hs
  case frameTransmitted => exact frameSent_keeps h hs
  case restartTakesEffect =>
    show P (if restartReplyInFlight s = true then restartEffect s else s)
    split
    · rename_i hr; exact h.effect hr hs
    · exact hs
  case identify => exact asRequest_keeps h (fun np r => passToOwner_keeps h (.identify _) np r hs) hs
  case configure =>
    exact asRequest_keeps h (fun np r => passToOwner_keeps h (.configure _ _ _) np r hs) hs
  case start => exact asRequest_keeps h (fun np r => passToOwner_keeps h (.start _) np r hs) hs
  case stop => exact asRequest_keeps h (fun np r => passToOwner_keeps h (.stop _) np r hs) hs
  case restart => exact asRequest_keeps h (fun np r => passToOwner_keeps h (.restart _) np r hs) hs
  case demand =>
    exact asRequest_keeps h (fun np r => passToOwner_keeps h (.demand _ _ _ _ _) np r hs) hs
  case referenceSelect =>
    exact asRequest_keeps h (fun np r => passToOwner_keeps h (.referenceSelect _ _) np r hs) hs
  case axleIsolate =>
    exact asRequest_keeps h (fun np r => passToOwner_keeps h (.axleIsolate _ _) np r hs) hs
  case axleRestore =>
    exact asRequest_keeps h (fun np r => passToOwner_keeps h (.axleRestore _ _) np r hs) hs
  case wheelTrim =>
    exact asRequest_keeps h (fun np r => passToOwner_keeps h (.wheelTrim _ _ _) np r hs) hs
  case segmentAppend =>
    exact asRequest_keeps h (fun np r => passToOwner_keeps h (.segmentAppend _ _ _) np r hs) hs
  case routeFlush =>
    exact asRequest_keeps h (fun np r => passToOwner_keeps h (.routeFlush _) np r hs) hs
  case positionFix =>
    exact asRequest_keeps h (fun np r => passToOwner_keeps h (.positionFix _ _ _) np r hs) hs
  case sandRequest =>
    exact asRequest_keeps h (fun np r => passToOwner_keeps h (.sandRequest _ _ _) np r hs) hs
  case sandFill =>
    exact asRequest_keeps h (fun np r => passToOwner_keeps h (.sandFill _ _ _) np r hs) hs
  case statusQuery =>
    exact asRequest_keeps h (fun np r => passToOwner_keeps h (.statusQuery _ _) np r hs) hs
  case faultQuery =>
    exact asRequest_keeps h (fun np r => passToOwner_keeps h (.faultQuery _) np r hs) hs
  case faultClear =>
    exact asRequest_keeps h (fun np r => passToOwner_keeps h (.faultClear _ _ _) np r hs) hs
  case speedSensorEdge l e => exact takeEdge_keeps h _ _ hs
  case groundValidLineDrop low => exact dropGround_keeps h low hs
  case windowPeriodExpiry c => exact whenDue_keeps _ (windowPeriodEnd_keeps h c) hs
  case heldTimerExpiry => exact whenDue_keeps _ (heldExpiry_keeps S) hs
  case standstillConfirmExpiry => exact whenDue_keeps _ (confirmExpiry_keeps S) hs
  case lowAdhesionTimerExpiry x => exact whenDue_keeps _ (lowExpiry_keeps S x) hs
  case demandTimerExpiry => exact whenDue_keeps _ (demandTimeout_keeps S) hs
  case eblOpen =>
    show P (openLoop s)
    unfold openLoop
    dsimp only
    repeat' split
    · exact hs
    · exact deliverDemand_keeps S _ (by simp) (h.view (setDemand_view _ _) (h.ebl true hs))
    · exact h.ebl true hs
  case eblClose => exact h.ebl false hs
  case trackBrakeOnTimerExpiry => exact whenDue_keeps _ (h.view (trackOn_view s)) hs
  case trackBrakeOffTimerExpiry => exact whenDue_keeps _ (h.view (trackOff_view s)) hs
  case pressureRampCompletion x => exact whenDue_keeps _ (h.view (completeRamp_view x s)) hs
  case releaseConfirmExpiry => exact whenDue_keeps _ (confirmComplete_keeps S) hs
  case takeUpTimerExpiry => exact whenDue_keeps _ (takeUpTimeout_keeps S) hs
  case releaseRampCompletion x => exact whenDue_keeps _ (releaseRampDone_keeps S x) hs
  case shotTimerExpiry x => exact whenDue_keeps _ (closeShot_keeps S _ x) hs
  case recoveryTimerExpiry x =>
    exact whenDue_keeps _ (fun hs => judgeEnd_keeps S x (h.view (setValve_view _ _ s) hs)) hs
  case ageTimerExpiry => exact whenDue_keeps _ (dropEntries_keeps S _) hs
  case emergencyRepeatTimerExpiry => exact whenDue_keeps _ (emergencySand_keeps S) hs
  case analogConversion c code => exact takeConversion_keeps S c code hs
  case steadyTimerExpiry x => exact whenDue_keeps _ (h.view (steadyExpiry_view x s)) hs
  case disagreementTimerExpiry x => exact whenDue_keeps _ (disagreementExpiry_keeps S x) hs
  case agreementTimerExpiry x => exact whenDue_keeps _ (agreementExpiry_keeps S x) hs
  case dumpLimitTimerExpiry x => exact whenDue_keeps _ (closeDump_keeps S _ _ _ _ x) hs
  case referenceLostTimerExpiry => exact whenDue_keeps _ (referenceLostExpiry_keeps S) hs
  case receivedByte x fe => exact takeByte_keeps h x fe hs

/-- What every command, power-on reset and the passing of time keep, every step keeps. -/
theorem step_keeps (reset : ∀ (x y : Bool) {s : State}, P s → P (powerOn x y s)) (time : ∀ (c : Nat) (q : List Instr) {s : State}, P s →
    P { s with clock := c, pending := q }) {s t : State} (e : step s = .next t) (hs : P s) : P t := by
  unfold step at e
  split at e
  · obtain rfl := Host.Outcome.next.inj e
    unfold tick
    dsimp only
    split
    · exact time _ _ hs
    · exact time _ _ (draw_keeps h.toStable Config.freeOrder (time (s.clock + 1) s.pending hs))
  · exact exec_keeps h e (fun x y _ => reset x y (time s.clock _ hs)) (time s.clock _ hs)

end

end Sys2Proof.Machine
end

