-- ==== Sys2Proof/Laws/Restart.lean ====
section
/-! SUPPORT. What the deliveries of an event never touch, and what a RESTART that takes effect leaves in the
view of the state (R182). -/

namespace Sys2Proof.Machine

/-- The clock, the straps, the pins, the channels, the sections with their marks, the restart mark and the
queue of commands are as in `s`. -/
structure Still (s t : State) : Prop where
  clock : t.clock = s.clock
  baud : t.baud = s.baud
  eblOpen : t.eblOpen = s.eblOpen
  groundLow : t.groundLow = s.groundLow
  wsc : t.wsc = s.wsc
  restartPending : t.sfc.restartPending = s.sfc.restartPending
  cfg : t.sfc.cfg = s.sfc.cfg
  sent : t.sfc.sent = s.sfc.sent
  pending : t.pending = s.pending

theorem Still.refl (s : State) : Still s s := ⟨rfl, rfl, rfl, rfl, rfl, rfl, rfl, rfl, rfl⟩

theorem Still.trans {s t u : State} (a : Still s t) (c : Still t u) : Still s u :=
  ⟨c.clock.trans a.clock, c.baud.trans a.baud, c.eblOpen.trans a.eblOpen,
    c.groundLow.trans a.groundLow, c.wsc.trans a.wsc, c.restartPending.trans a.restartPending,
    c.cfg.trans a.cfg, c.sent.trans a.sent, c.pending.trans a.pending⟩

/-- R15, R94, R119, R175: no delivery of one block to another touches them. -/
theorem stable_still (s : State) : Stable (Still s) where
  view e hs := hs.trans ⟨clock_of_view e, baud_of_view e, eblOpen_of_view e, groundLow_of_view e,
    wsc_of_view e, restartPending_of_view e, cfg_of_view e, sent_of_view e, pending_of_view e⟩
  report r t hs := hs.trans ⟨by simp, by simp, by simp, by simp, by simp, by simp, by simp, by simp,
    by simp⟩
  fault _ _ t _ _ hs := hs.trans ⟨rfl, rfl, rfl, rfl, rfl, rfl, rfl, rfl, rfl⟩
  sand _ t _ hs := hs.trans ⟨rfl, rfl, rfl, rfl, rfl, rfl, rfl, rfl, rfl⟩
  route _ t _ hs := hs.trans ⟨rfl, rfl, rfl, rfl, rfl, rfl, rfl, rfl, rfl⟩
  failsafe _ hs := hs.trans ⟨rfl, rfl, rfl, rfl, rfl, rfl, rfl, rfl, rfl⟩

/-! RESTART -/

theorem leaveSand_queue (s : State) : (leaveSand s).snd.queue = [] := rfl

theorem restartChannels_eq (s : State) :
    restartChannels s = { s with wsc := (restartChannels s).wsc } := by
  have one : ∀ (c : Chan) (t : State), restartChannel c t = { t with wsc := (restartChannel c t).wsc } := by
    intro c t
    unfold restartChannel
    dsimp only
    split <;> rfl
  unfold restartChannels
  generalize Chan.all = l
  induction l generalizing s with
  | nil => rfl
  | cons c rest ih =>
    rw [List.foldl_cons, ih (restartChannel c s), one c s]

/-- R182: the blocks' RESTART values leave the still parts but for the channels, and empty both queues. -/
theorem restartBlocks_facts (s : State) :
    (restartBlocks s).clock = s.clock ∧ (restartBlocks s).baud = s.baud
      ∧ (restartBlocks s).eblOpen = s.eblOpen ∧ (restartBlocks s).groundLow = s.groundLow
      ∧ (restartBlocks s).pending = s.pending ∧ (restartBlocks s).sfc.cfg = s.sfc.cfg
      ∧ (restartBlocks s).sfc.sent = s.sfc.sent ∧ (restartBlocks s).rlq = Rlq.powerOn
      ∧ (restartBlocks s).snd.queue = [] := by
  have st : Still s (restartSand s) := restartSand_keeps (stable_still s) (Still.refl s)
  have v : (restartReference (restartHill (restartAdh (leaveTrip (restartSand s))))).view
      = (restartSand s).view := by simp
  have sq := (sandQueue_of_view v).trans (show (restartSand s).snd.queue = [] from rfl)
  have su := (stable_still s).view v st
  unfold restartBlocks
  generalize restartReference (restartHill (restartAdh (leaveTrip (restartSand s)))) = u at su sq
  rw [restartChannels_eq]
  exact ⟨su.clock, su.baud, su.eblOpen, su.groundLow, su.pending, su.cfg, su.sent, rfl, sq⟩

/-- R197: a report raised on an idle link is in flight at once. -/
theorem sendReport_idle (r : Report) {s : State} (h1 : s.lnk.inFlight = none) (h2 : s.lnk.replies = [])
    (h3 : s.lnk.reports = []) : (sendReport r s).lnk = { s.lnk with inFlight := some (.report r) } := by
  unfold sendReport
  rw [if_neg (by rw [h3]; decide), h3]
  unfold arbitrate
  simp [h1, h2, h3]

/-- The state a RESTART leaves before its report. -/
def restarted (s : State) : State :=
  restartLink (keepMu s (restartBlend (restartFaults (restartBlocks (s.setOpState (restartState s))))))

theorem restartEffect_eq (s : State) :
    restartEffect s = stateReport s.sfc.opState .restart (restarted s) := by
  unfold restartEffect restarted; rfl

theorem restarted_lnk (s : State) : (restarted s).lnk = { Lnk.powerOn with inFlight := none } := by
  unfold restarted restartLink; rfl

theorem jumpAll_sfc (v : PerBogie Nat) (s : State) : (jumpAll v s).sfc = s.sfc := by
  simp [jumpAll, Bogie.all, jumpOutput, outputSteady, outputMoving]

theorem dropOutputs_sfc (s : State) : (dropOutputs s).sfc = s.sfc := by
  simp [dropOutputs, Bogie.all, outputMoving]

theorem restartBlend_sfc (s : State) : (restartBlend s).sfc = s.sfc := by
  unfold restartBlend
  dsimp only
  split
  · exact dropOutputs_sfc _
  · exact jumpAll_sfc _ _

theorem restartFaults_sfc (s : State) : (restartFaults s).sfc =
    { s.sfc with opState := restartState s, faults := FaultTable.clear, refLostTimer := none, restartPending := false } := rfl

/-- R182: the sections, the marks, the straps, the pins, the clock and the queue of commands are kept; the
fault table is cleared, the route and sand queues are empty, and the link holds the one report. -/
theorem restarted_facts (s : State) :
    (restarted s).clock = s.clock ∧ (restarted s).baud = s.baud
      ∧ (restarted s).eblOpen = s.eblOpen ∧ (restarted s).groundLow = s.groundLow
      ∧ (restarted s).pending = s.pending ∧ (restarted s).rlq = Rlq.powerOn
      ∧ (restarted s).snd.queue = []
      ∧ (restarted s).sfc = { s.sfc with
          opState := restartState s, faults := FaultTable.clear, refLostTimer := none
          restartPending := false } := by
  obtain ⟨b1, b2, b3, b4, b5, b6, b7, b8, b9⟩ := restartBlocks_facts (s.setOpState (restartState s))
  have e : restartState (restartBlocks (s.setOpState (restartState s))) = restartState s := by
    unfold restartState at b7 ⊢; rw [b7]; rfl
  have v : (keepMu s (restartBlend (restartFaults (restartBlocks (s.setOpState (restartState s)))))).view
      = (restartFaults (restartBlocks (s.setOpState (restartState s)))).view := by simp
  unfold restarted
  generalize restartBlocks (s.setOpState (restartState s)) = u at *
  refine ⟨(clock_of_view v).trans b1, (baud_of_view v).trans b2, (eblOpen_of_view v).trans b3,
    (groundLow_of_view v).trans b4, (pending_of_view v).trans b5, (rlq_of_view v).trans b8,
    (sandQueue_of_view v).trans b9, ?_⟩
  show (restartBlend (restartFaults u)).sfc = _
  rw [restartBlend_sfc, restartFaults_sfc, e]
  dsimp only
  rw [b6, b7]
  rfl

/-- R182, R200: what a RESTART that takes effect leaves; the report names the state left. -/
theorem restartEffect_facts (s : State) :
    (restartEffect s).clock = s.clock ∧ (restartEffect s).baud = s.baud
      ∧ (restartEffect s).eblOpen = s.eblOpen ∧ (restartEffect s).groundLow = s.groundLow
      ∧ (restartEffect s).pending = s.pending ∧ (restartEffect s).rlq = Rlq.powerOn
      ∧ (restartEffect s).snd.queue = []
      ∧ (restartEffect s).sfc = { s.sfc with
          opState := restartState s, faults := FaultTable.clear, refLostTimer := none
          restartPending := false }
      ∧ (restartEffect s).lnk = { Lnk.powerOn with inFlight := some (.report
          (.operatingState (restartState s) s.sfc.opState .restart s.sfc.sent s.nowMs)) } := by
  obtain ⟨a1, a2, a3, a4, a5, a6, a7, a8⟩ := restarted_facts s
  have l := restarted_lnk s
  rw [restartEffect_eq]
  generalize restarted s = t at *
  unfold stateReport
  refine ⟨by simpa using a1, by simpa using a2, by simpa using a3, by simpa using a4, by simpa using a5,
    by simpa using a6, by simpa using a7, by simpa using a8, ?_⟩
  rw [sendReport_idle _ (by rw [l]) (by rw [l]; rfl) (by rw [l]; rfl), l, a8]
  simp [State.nowMs, a1]

end Sys2Proof.Machine
end

