-- ==== Sys2Proof/Laws/Core.lean ====
section
/-! SUPPORT. What the allocation, sanding, the slide trip and the route leave alone in the other blocks: the
channels, REF, ADH, HHU, AFE's channels, the demand record but for its effort (R97), the operating state, the
sections and every fault record but SAND_EMPTY. -/

namespace Sys2Proof.Machine

structure CoreView where
  clock : Nat
  baud : Baud
  eblOpen : Bool
  groundLow : Bool
  wsc : PerChan Channel
  ref : Ref
  adh : Adh
  hhu : Hhu
  chan : PerAnalog AnalogChan
  demand : Demand
  causes : PerBogie Bool
  opState : OpState
  cfg : Sections
  sent : BitVec 24
  faults : FaultTable
  refLostTimer : Timer
  restartPending : Bool
  pending : List Instr

/-- The demand record, without the effort that follows the caps while the loop stays open (R97). -/
def State.ownDemand (s : State) : Demand :=
  if s.eblOpen ∧ s.bld.demand.latch = some .loop then { s.bld.demand with effort := 0 } else s.bld.demand

def State.core (s : State) : CoreView where
  clock := s.clock
  baud := s.baud
  eblOpen := s.eblOpen
  groundLow := s.groundLow
  wsc := s.wsc
  ref := s.ref
  adh := s.adh
  hhu := s.hhu
  chan := s.afe.chan
  demand := s.ownDemand
  causes := PerBogie.of fun x => (s.afe.sup.get x).cause
  opState := s.sfc.opState
  cfg := s.sfc.cfg
  sent := s.sfc.sent
  faults := { s.sfc.faults with sandEmpty := ⟨FaultRec.clear, FaultRec.clear⟩ }
  refLostTimer := s.sfc.refLostTimer
  restartPending := s.sfc.restartPending
  pending := s.pending

section

variable {s t : State} (h : s.core = t.core)
include h

theorem clock_of_core : s.clock = t.clock := congrArg CoreView.clock h
theorem baud_of_core : s.baud = t.baud := congrArg CoreView.baud h
theorem eblOpen_of_core : s.eblOpen = t.eblOpen := congrArg CoreView.eblOpen h
theorem groundLow_of_core : s.groundLow = t.groundLow := congrArg CoreView.groundLow h
theorem wsc_of_core : s.wsc = t.wsc := congrArg CoreView.wsc h
theorem ref_of_core : s.ref = t.ref := congrArg CoreView.ref h
theorem adh_of_core : s.adh = t.adh := congrArg CoreView.adh h
theorem hhu_of_core : s.hhu = t.hhu := congrArg CoreView.hhu h
theorem chan_of_core : s.afe.chan = t.afe.chan := congrArg CoreView.chan h
theorem opState_of_core : s.sfc.opState = t.sfc.opState := congrArg CoreView.opState h
theorem cfg_of_core : s.sfc.cfg = t.sfc.cfg := congrArg CoreView.cfg h
theorem sent_of_core : s.sfc.sent = t.sfc.sent := congrArg CoreView.sent h
theorem refLostTimer_of_core : s.sfc.refLostTimer = t.sfc.refLostTimer :=
  congrArg CoreView.refLostTimer h
theorem restartPending_of_core : s.sfc.restartPending = t.sfc.restartPending :=
  congrArg CoreView.restartPending h
theorem pending_of_core : s.pending = t.pending := congrArg CoreView.pending h

theorem ownDemand_of_core : s.ownDemand = t.ownDemand := congrArg CoreView.demand h

theorem cause_of_core (x : Bogie) : (s.afe.sup.get x).cause = (t.afe.sup.get x).cause := by
  have e := congrArg (fun c => c.causes.get x) h
  simpa [State.core] using e

omit h in
theorem ownDemand_parts (s : State) : s.ownDemand.mode = s.mode ∧ s.ownDemand.dir = s.travel
    ∧ s.ownDemand.permitted = s.bld.demand.permitted ∧ s.ownDemand.stale = s.bld.demand.stale
    ∧ s.ownDemand.latch = s.bld.demand.latch ∧ s.ownDemand.timer = s.bld.demand.timer := by
  unfold State.ownDemand
  split <;> exact ⟨rfl, rfl, rfl, rfl, rfl, rfl⟩

theorem mode_of_core : s.mode = t.mode := by
  rw [← (ownDemand_parts s).1, ← (ownDemand_parts t).1, ownDemand_of_core h]

theorem travel_of_core : s.travel = t.travel := by
  rw [← (ownDemand_parts s).2.1, ← (ownDemand_parts t).2.1, ownDemand_of_core h]

theorem permitted_of_core : s.bld.demand.permitted = t.bld.demand.permitted := by
  rw [← (ownDemand_parts s).2.2.1, ← (ownDemand_parts t).2.2.1, ownDemand_of_core h]

theorem stale_of_core : s.bld.demand.stale = t.bld.demand.stale := by
  rw [← (ownDemand_parts s).2.2.2.1, ← (ownDemand_parts t).2.2.2.1, ownDemand_of_core h]

theorem latch_of_core : s.bld.demand.latch = t.bld.demand.latch := by
  rw [← (ownDemand_parts s).2.2.2.2.1, ← (ownDemand_parts t).2.2.2.2.1, ownDemand_of_core h]

theorem demandTimer_of_core : s.bld.demand.timer = t.bld.demand.timer := by
  rw [← (ownDemand_parts s).2.2.2.2.2, ← (ownDemand_parts t).2.2.2.2.2, ownDemand_of_core h]

/-- Where the effort does not follow the caps, the whole record is the same. -/
theorem demand_of_core (free : ¬(t.eblOpen = true ∧ t.bld.demand.latch = some .loop)) :
    s.bld.demand = t.bld.demand := by
  have e := ownDemand_of_core h
  have hl := latch_of_core h
  have he := eblOpen_of_core h
  unfold State.ownDemand at e
  rw [if_neg free, if_neg (by rw [hl, he]; exact free)] at e
  exact e

theorem isActive_of_core : s.isActive = t.isActive := by
  simp only [State.isActive, opState_of_core h]

theorem fault_of_core {id : FaultId} (hid : ∀ e, id ≠ .sandEmpty e) : s.fault id = t.fault id := by
  have e := congrArg (fun c => c.faults.get id) h
  cases id <;> first | exact absurd rfl (hid _) | exact e

end

/-! Reports, choices and SAND_EMPTY -/

@[simp] theorem drawFrom_core (past : Nat → Nat) (s : State) : (drawFrom past s).2.core = s.core := by
  unfold drawFrom; split <;> rfl

@[simp] theorem sendReport_core (r : Report) (s : State) : (sendReport r s).core = s.core := by
  rw [sendReport_eq]; rfl

@[simp] theorem sendReply_core (r : Reply) (s : State) : (sendReply r s).core = s.core := by
  rw [sendReply_eq]; rfl

@[simp] theorem answer_core (k : ReqKind) (tag : Byte) (r : Result) (s : State) :
    (answer k tag r s).core = s.core := sendReply_core _ s

theorem setSandEmpty_core (e : Side) (r : FaultRec) (s : State) :
    (s.setFault (.sandEmpty e) r).core = s.core := rfl

/-- What every delivery leaves in the core, their sequence leaves, in any order. -/
theorem inSomeOrder_core {l : List (State → State)} (h : ∀ f ∈ l, ∀ t, (f t).core = t.core) (s : State) :
    (inSomeOrder l s).core = s.core :=
  inSomeOrder_keeps (P := fun t => t.core = s.core) (fun hs => (drawFrom_core _ _).trans hs)
    (fun f hf t ht => (h f hf t).trans ht) rfl

/-! The allocation -/

@[simp] theorem outputMoving_core (x : Bogie) (s : State) : (outputMoving x s).core = s.core := by
  cases x <;> rfl

@[simp] theorem outputSteady_core (x : Bogie) (s : State) : (outputSteady x s).core = s.core := by
  cases x <;> rfl

@[simp] theorem setOutput_core (x : Bogie) (o : Output) (s : State) : (s.setOutput x o).core = s.core := rfl

@[simp] theorem jumpOutput_core (x : Bogie) (v : Nat) (s : State) : (jumpOutput x v s).core = s.core := by
  simp [jumpOutput]

@[simp] theorem stageCaps_core (s : State) : (stageCaps s).core = s.core := rfl

@[simp] theorem followCaps_core (before : PerBogie Nat) (s : State) :
    (followCaps before s).core = s.core := by
  unfold followCaps
  split
  · rename_i h
    simp only [State.core, State.ownDemand, h.1, h.2.1, and_self, if_true]
  · rfl

@[simp] theorem stageInverters_core (s : State) : (stageInverters s).core = s.core := by
  unfold stageInverters; split <;> rfl

@[simp] theorem stageFriction_core (s : State) : (stageFriction s).core = s.core := by
  unfold stageFriction; split <;> rfl

@[simp] theorem trackMode_core (s : State) : (trackMode s).core = s.core := by
  unfold trackMode; split <;> rfl

@[simp] theorem trackTimers_core (s : State) : (trackTimers s).core = s.core := by
  unfold trackTimers; split
  · split <;> rfl
  · rfl

@[simp] theorem aimOutput_core (cause : AimCause) (x : Bogie) (goal : Nat) (s : State) :
    (aimOutput cause x goal s).core = s.core := by
  unfold aimOutput; split
  · rfl
  · dsimp only
    repeat' split
    all_goals simp

@[simp] theorem stagePressures_core (cause : PerBogie AimCause) (s : State) :
    (stagePressures cause s).core = s.core := by
  simp [stagePressures, Bogie.all]

@[simp] theorem rerunWith_core (cause : PerBogie AimCause) (s : State) : (rerunWith cause s).core = s.core := by
  unfold rerunWith; dsimp only; split <;> simp

@[simp] theorem rerun_core (s : State) : (rerun s).core = s.core := rerunWith_core _ s

@[simp] theorem jumpAll_core (v : PerBogie Nat) (s : State) : (jumpAll v s).core = s.core := by
  simp [jumpAll, Bogie.all]

@[simp] theorem parkOutputs_core (s : State) : (parkOutputs s).core = s.core := jumpAll_core _ s

@[simp] theorem dropOutputs_core (s : State) : (dropOutputs s).core = s.core := by
  simp [dropOutputs, Bogie.all]

/-- A re-run changes BLD and AFE's output conditions, and nothing else. -/
abbrev OnlyBlend (s t : State) : Prop := t = { s with bld := t.bld, afe := t.afe }

theorem onlyBlend_trans {s t u : State} (h1 : OnlyBlend s t) (h2 : OnlyBlend t u) : OnlyBlend s u := by
  unfold OnlyBlend at *
  rw [h2, h1]

theorem aimOutput_onlyBlend (cause : AimCause) (x : Bogie) (goal : Nat) (s : State) :
    OnlyBlend s (aimOutput cause x goal s) := by
  unfold aimOutput OnlyBlend
  split
  · rfl
  · dsimp only
    repeat' split
    all_goals rfl

theorem rerunWith_onlyBlend (cause : PerBogie AimCause) (s : State) : OnlyBlend s (rerunWith cause s) := by
  have h1 : OnlyBlend s (stageCaps s) := rfl
  have h2 : ∀ c t, OnlyBlend t (followCaps c t) := fun c t => by unfold followCaps; split <;> rfl
  have h3 : ∀ t, OnlyBlend t (trackMode t) := fun t => by unfold trackMode; split <;> rfl
  have h4 : ∀ t, OnlyBlend t (stageInverters t) := fun t => by unfold stageInverters; split <;> rfl
  have h5 : ∀ t, OnlyBlend t (stageFriction t) := fun t => by unfold stageFriction; split <;> rfl
  have h6 : ∀ t, OnlyBlend t (trackTimers t) := fun t => by
    unfold trackTimers; split
    · split <;> rfl
    · rfl
  have h7 : ∀ t, OnlyBlend t (stagePressures cause t) := fun t => by
    simp only [stagePressures, Bogie.all, List.foldl]
    exact onlyBlend_trans (aimOutput_onlyBlend _ _ _ _)
      (onlyBlend_trans (aimOutput_onlyBlend _ _ _ _) (aimOutput_onlyBlend _ _ _ _))
  unfold rerunWith
  dsimp only
  split
  · exact onlyBlend_trans h1 (onlyBlend_trans (h2 _ _) (onlyBlend_trans (h3 _) (onlyBlend_trans (h4 _)
      (onlyBlend_trans (h5 _) (onlyBlend_trans (h6 _) (h7 _))))))
  · exact h1

theorem rerun_onlyBlend (s : State) : OnlyBlend s (rerun s) := rerunWith_onlyBlend _ s

@[simp] theorem rerunWith_snd (cause : PerBogie AimCause) (s : State) : (rerunWith cause s).snd = s.snd := by
  rw [rerunWith_onlyBlend cause s]

@[simp] theorem rerunWith_stu (cause : PerBogie AimCause) (s : State) : (rerunWith cause s).stu = s.stu := by
  rw [rerunWith_onlyBlend cause s]

@[simp] theorem rerun_snd (s : State) : (rerun s).snd = s.snd := rerunWith_snd _ s

@[simp] theorem rerun_stu (s : State) : (rerun s).stu = s.stu := rerunWith_stu _ s

/-! Sanding -/

@[simp] theorem setSandQueue_core (q : List SandEntry) (s : State) : (s.setSandQueue q).core = s.core := rfl

@[simp] theorem setValve_core (e : Side) (v : Valve) (s : State) : (s.setValve e v).core = s.core := rfl

@[simp] theorem setLevel_core (e : Side) (g : Nat) (s : State) : (s.setLevel e g).core = s.core := rfl

@[simp] theorem setSanded_core (s : State) : (setSanded s).core = s.core := by
  unfold setSanded; dsimp only; split
  · exact (rerun_core _).trans rfl
  · rfl

@[simp] theorem lowerSanded_core (mm : Nat) (s : State) : (lowerSanded mm s).core = s.core := by
  unfold lowerSanded; dsimp only; split
  · exact (rerun_core _).trans rfl
  · rfl

@[simp] theorem grant_core (x : SandEntry) (s : State) : (grant x s).core = s.core := by
  unfold grant; dsimp only; simp

@[simp] theorem judgeEnd_core (e : Side) (s : State) : (judgeEnd e s).core = s.core := by
  unfold judgeEnd; split <;> simp

@[simp] theorem judgeEnds_core (s : State) : (judgeEnds s).core = s.core :=
  inSomeOrder_core (fun f hf t => by
    obtain ⟨e, _, rfl⟩ := List.mem_map.mp hf
    exact judgeEnd_core e t) s

@[simp] theorem joinTail_core (source : SandSource) (e : Side) (leading : Bool) (shots : Nat) (s : State) :
    (joinTail source e leading shots s).core = s.core := rfl

@[simp] theorem evict_core (s : State) : (evict s).core = s.core := by
  unfold evict; split <;> simp

@[simp] theorem enqueueSand_core (source : SandSource) (e : Side) (leading : Bool) (shots : Nat)
    (s : State) : (enqueueSand source e leading shots s).core = s.core := by
  unfold enqueueSand
  repeat' split
  all_goals simp

@[simp] theorem joinNext_core (source : SandSource) (e : Side) (leading : Bool) (shots : Nat) (more : Bool)
    (s : State) : (joinNext source e leading shots more s).core = s.core := by
  unfold joinNext; dsimp only; split <;> simp

@[simp] theorem joinAll_core (source : SandSource) (e : Side) (leading : Bool) (shots : List Nat)
    (s : State) : (joinAll source e leading shots s).core = s.core := by
  induction shots generalizing s with
  | nil => rfl
  | cons n rest ih => exact (ih _).trans (joinNext_core _ _ _ _ _ _)

@[simp] theorem joinSand_core (source : SandSource) (e : Side) (leading : Bool) (shots : Nat) (s : State) :
    (joinSand source e leading shots s).core = s.core := joinAll_core _ _ _ _ _

@[simp] theorem requestLeadingAll_core (source : SandSource) (shots : List Nat) (s : State) :
    (requestLeadingAll source shots s).core = s.core := by
  unfold requestLeadingAll; split <;> simp

@[simp] theorem requestLeading_core (source : SandSource) (shots : Nat) (s : State) :
    (requestLeading source shots s).core = s.core := requestLeadingAll_core _ _ _

@[simp] theorem requestRollback_core (e : Side) (s : State) : (requestRollback e s).core = s.core := by
  unfold requestRollback; split <;> simp

@[simp] theorem dropEntries_core (gone : SandEntry → Bool) (s : State) :
    (dropEntries gone s).core = s.core := rfl

@[simp] theorem emergencySand_core (s : State) : (emergencySand s).core = s.core := by
  unfold emergencySand; exact (requestLeading_core _ _ _).trans rfl

@[simp] theorem sandModeChange_core (old new : Mode) (s : State) :
    (sandModeChange old new s).core = s.core := by
  unfold sandModeChange
  repeat' split
  all_goals first | rfl | simp

@[simp] theorem sandHoldChange_core (old new : Hold) (s : State) :
    (sandHoldChange old new s).core = s.core := by
  unfold sandHoldChange
  repeat' split
  all_goals rfl

@[simp] theorem sandDirection_core (s : State) : (sandDirection s).core = s.core := rfl

@[simp] theorem raiseIfEmpty_core (e : Side) (s : State) : (raiseIfEmpty e s).core = s.core := by
  unfold raiseIfEmpty raiseFault
  repeat' split
  · rfl
  · exact (sendReport_core _ _).trans (setSandEmpty_core _ _ _)
  · rfl

@[simp] theorem closeShot_core (cause : ShotCause) (e : Side) (s : State) :
    (closeShot cause e s).core = s.core := by
  unfold closeShot; split
  · dsimp only; simp
  · rfl
  · rfl

@[simp] theorem closeForFill_core (e : Side) (s : State) : (closeForFill e s).core = s.core := by
  unfold closeForFill; split
  · simp
  · rfl
  · rfl

@[simp] theorem fillSand_core (e : Side) (level : Nat) (s : State) :
    (fillSand e level s).core = s.core := by
  unfold fillSand; dsimp only; split
  · rw [judgeEnd_core, endFault, setSandEmpty_core]; simp
  · simp

@[simp] theorem sandSegmentChange_core (s : State) : (sandSegmentChange s).core = s.core := by
  unfold sandSegmentChange
  rw [judgeEnds_core]
  exact inSomeOrder_core (fun f hf t => by
    obtain ⟨e, _, rfl⟩ := List.mem_map.mp hf
    exact closeShot_core _ e t) s

@[simp] theorem sandDistance_core (mm : Nat) (s : State) : (sandDistance mm s).core = s.core := by
  unfold sandDistance
  refine inSomeOrder_core (fun f hf t => ?_) s
  split at hf
  · rcases List.mem_cons.mp hf with rfl | hf
    · exact lowerSanded_core mm t
    · rw [List.mem_singleton.mp hf]; exact judgeEnds_core t
  · rw [List.mem_singleton.mp hf]; exact lowerSanded_core mm t

@[simp] theorem abandonShot_core (e : Side) (s : State) : (abandonShot e s).core = s.core := by
  unfold abandonShot; split
  · simp
  · rfl
  · rfl

@[simp] theorem leaveSand_core (s : State) : (leaveSand s).core = s.core := by
  unfold leaveSand; dsimp only
  exact inSomeOrder_core (fun f hf t => by
    obtain ⟨e, _, rfl⟩ := List.mem_map.mp hf
    exact abandonShot_core e t) s

/-! The slide trip -/

@[simp] theorem setStu_core (x : Bogie) (v : BogieStu) (s : State) : (s.setStu x v).core = s.core := rfl

@[simp] theorem setCounter_core (x : Axle) (n : Nat) (s : State) : (s.setCounter x n).core = s.core := rfl

@[simp] theorem zeroCounters_core (x : Bogie) (s : State) : (zeroCounters x s).core = s.core := rfl

@[simp] theorem tripReport_core (x : Bogie) (axle : Axle) (action : TripAction) (slip accel : Int)
    (openTime : Time) (s : State) : (tripReport x axle action slip accel openTime s).core = s.core :=
  sendReport_core _ s

@[simp] theorem closeDump_core (cause : CloseCause) (slip accel : Int) (floors : PerBogie AimCause) (x : Bogie)
    (s : State) : (closeDump cause slip accel floors x s).core = s.core := by
  unfold closeDump; dsimp only; split
  · rfl
  · simp

@[simp] theorem openDump_core (x : Axle) (p : Sample) (s : State) : (openDump x p s).core = s.core := by
  unfold openDump; simp

@[simp] theorem suppressTrip_core (x : Axle) (p : Sample) (s : State) :
    (suppressTrip x p s).core = s.core := by
  unfold suppressTrip; dsimp only; split
  · rfl
  · simp

@[simp] theorem fireTrip_core (x : Axle) (p : Sample) (s : State) : (fireTrip x p s).core = s.core := by
  unfold fireTrip
  repeat' split
  all_goals simp

@[simp] theorem tripArrival_core (x : Axle) (p : Sample) (s : State) :
    (tripArrival x p s).core = s.core := by
  unfold tripArrival filterArrival episodeArrival
  repeat' split
  all_goals (try dsimp only)
  all_goals repeat' split
  all_goals simp

@[simp] theorem freshApplication_core (s : State) : (freshApplication s).core = s.core := rfl

@[simp] theorem closeDumps_core (cause : CloseCause) (floors : PerBogie AimCause) (which : List Bogie)
    (s : State) : (closeDumps cause floors which s).core = s.core :=
  inSomeOrder_core (fun f hf t => by
    obtain ⟨x, _, rfl⟩ := List.mem_map.mp hf
    exact closeDump_core _ _ _ _ x t) s

@[simp] theorem tripModeChange_core (old new : Mode) (s : State) :
    (tripModeChange old new s).core = s.core := by
  unfold tripModeChange
  repeat' split
  all_goals simp

@[simp] theorem tripFloorRise_core (rose : PerBogie Bool) (floors : PerBogie AimCause) (s : State) :
    (tripFloorRise rose floors s).core = s.core := closeDumps_core _ _ _ s

@[simp] theorem leaveTrip_core (s : State) : (leaveTrip s).core = s.core := by
  unfold leaveTrip; dsimp only; split
  · exact (rerun_core _).trans rfl
  · rfl

/-! The route -/

@[simp] theorem segmentChange_core (s : State) : (segmentChange s).core = s.core :=
  inSomeOrder_core (fun f hf t => by
    rcases List.mem_cons.mp hf with rfl | hf
    · exact rerun_core t
    · rw [List.mem_singleton.mp hf]; exact sandSegmentChange_core t) s

/-! Sanding leaves the route as it is -/

theorem inSomeOrder_rlq {l : List (State → State)} (h : ∀ f ∈ l, ∀ t, (f t).rlq = t.rlq) (s : State) :
    (inSomeOrder l s).rlq = s.rlq :=
  inSomeOrder_keeps (P := fun t => t.rlq = s.rlq)
    (fun hs => (rlq_of_view (drawFrom_view _ _)).trans hs) (fun f hf t ht => (h f hf t).trans ht) rfl

@[simp] theorem rerun_rlq (s : State) : (rerun s).rlq = s.rlq := rlq_of_view (rerun_view s)

@[simp] theorem grant_rlq (x : SandEntry) (s : State) : (grant x s).rlq = s.rlq := by
  unfold grant; dsimp only
  rw [rlq_of_view (setSanded_view _), sendReport_rlq]; rfl

@[simp] theorem judgeEnd_rlq (e : Side) (s : State) : (judgeEnd e s).rlq = s.rlq := by
  unfold judgeEnd; split
  · rfl
  · exact grant_rlq _ s

@[simp] theorem closeShot_rlq (cause : ShotCause) (e : Side) (s : State) :
    (closeShot cause e s).rlq = s.rlq := by
  unfold closeShot raiseIfEmpty raiseFault
  split
  · dsimp only
    repeat' split
    all_goals simp
  · rfl
  · rfl

@[simp] theorem segmentChange_rlq (s : State) : (segmentChange s).rlq = s.rlq := by
  refine inSomeOrder_rlq (fun f hf t => ?_) s
  rcases List.mem_cons.mp hf with rfl | hf
  · exact rerun_rlq t
  · rw [List.mem_singleton.mp hf]
    unfold sandSegmentChange judgeEnds
    refine (inSomeOrder_rlq (fun g hg u => ?_) _).trans (inSomeOrder_rlq (fun g hg u => ?_) t)
    · obtain ⟨e, _, rfl⟩ := List.mem_map.mp hg
      exact judgeEnd_rlq e u
    · obtain ⟨e, _, rfl⟩ := List.mem_map.mp hg
      exact closeShot_rlq _ e u

@[simp] theorem emptyRoute_core (reason : RouteReason) (s : State) :
    (emptyRoute reason s).core = s.core := by
  unfold emptyRoute; split
  · rfl
  · rw [segmentChange_core, sendReport_core]; rfl

@[simp] theorem routeDirection_core (s : State) : (routeDirection s).core = s.core := emptyRoute_core _ s

@[simp] theorem reportPassed_core (l : List (Nat × Nat)) (s : State) :
    (reportPassed l s).core = s.core := by
  unfold reportPassed
  generalize s.rlq.uncertain = u
  generalize s.nowMs = now
  induction l generalizing s with
  | nil => rfl
  | cons g rest ih => exact (ih _).trans (sendReport_core _ s)

@[simp] theorem advance_core (p : Nat) (s : State) : (advance p s).core = s.core := by
  unfold advance; dsimp only
  repeat' split
  · rw [segmentChange_core, sendReport_core]; exact (reportPassed_core _ s).trans rfl
  · exact (reportPassed_core _ s).trans rfl
  · rw [segmentChange_core]; exact (reportPassed_core _ s).trans rfl

@[simp] theorem routeDistance_core (m : Int) (s : State) : (routeDistance m s).core = s.core := by
  unfold routeDistance; dsimp only
  repeat' split
  · rfl
  · rfl
  · exact advance_core _ s

/-- R43: an increment at the route and at sanding. -/
@[simp] theorem distance_core (m : Int) (s : State) : (distance m s).core = s.core := by
  unfold distance; split
  · rfl
  · refine inSomeOrder_core (fun f hf t => ?_) s
    rcases List.mem_cons.mp hf with rfl | hf
    · exact routeDistance_core m t
    · rw [List.mem_singleton.mp hf]; exact sandDistance_core _ t

/-! Hill hold: the deliveries of a move leave HHU as the move made it (R119) -/

theorem hillPublish_core (old : State) (caught force : Bool) {also : List (State → State)}
    (ha : ∀ f ∈ also, ∀ t, (f t).core = t.core) (s : State) :
    (hillPublish old caught force also s).core = s.core := by
  unfold hillPublish
  dsimp only
  refine inSomeOrder_core (fun f hf t => ?_) s
  simp only [List.mem_append] at hf
  rcases hf with ((hf | hf) | hf) | hf
  · split at hf
    · rw [List.mem_singleton.mp hf]; exact rerunWith_core _ t
    · exact absurd hf List.not_mem_nil
  · split at hf
    · rw [List.mem_singleton.mp hf]; exact tripFloorRise_core _ _ t
    · exact absurd hf List.not_mem_nil
  · split at hf
    · rw [List.mem_singleton.mp hf]; exact sandHoldChange_core _ _ t
    · exact absurd hf List.not_mem_nil
  · exact ha f hf t

theorem moveHold_core (reason : HoldReason) {also : List (State → State)}
    (ha : ∀ f ∈ also, ∀ t, (f t).core = t.core) (next : Hhu) (s : State) :
    (moveHold reason also next s).core = { s.core with hhu := next } := by
  unfold moveHold
  refine (hillPublish_core s _ _ (fun f hf t => ?_) _).trans rfl
  rcases List.mem_cons.mp hf with rfl | hf
  · exact sendReport_core _ t
  · exact ha f hf t

/-- A change of HHU and of nothing else of the core. -/
abbrev OnlyHhu (s t : State) : Prop := t.core = { s.core with hhu := t.hhu }

theorem onlyHhu_trans {s t u : State} (h1 : OnlyHhu s t) (h2 : OnlyHhu t u) : OnlyHhu s u := by
  unfold OnlyHhu at *
  rw [h2, h1]

theorem onlyHhu_of_core {s t : State} {n : Hhu} (e : t.core = { s.core with hhu := n }) : OnlyHhu s t := by
  have : t.hhu = n := congrArg CoreView.hhu e
  unfold OnlyHhu
  rw [this, e]

theorem onlyHhu_of_same {s t : State} (e : t.core = s.core) : OnlyHhu s t := by
  have : t.hhu = s.hhu := congrArg CoreView.hhu e
  unfold OnlyHhu
  rw [this, e]; rfl

theorem enterTakeUp_core (s : State) : (enterTakeUp s).core = { s.core with
    hhu := { s.hhu with
      state := .takeUp, takeUp := s.timer s.sfc.cfg.hold.takeUp, confirm := .stopped
      blocked := false } } := by
  unfold enterTakeUp
  refine moveHold_core _ (fun f hf t => ?_) _ s
  split at hf
  · rw [List.mem_singleton.mp hf]; exact requestLeading_core _ _ t
  · exact absurd hf List.not_mem_nil

theorem judgeTakeUp_onlyHhu (s : State) : OnlyHhu s (judgeTakeUp s) := by
  unfold judgeTakeUp
  split
  · exact onlyHhu_of_core (enterTakeUp_core s)
  · exact onlyHhu_of_same rfl

theorem enterHolding_onlyHhu (reason : HoldReason) (s : State) : OnlyHhu s (enterHolding reason s) :=
  onlyHhu_trans (onlyHhu_of_core (moveHold_core reason (by simp) _ s)) (judgeTakeUp_onlyHhu _)

theorem enterReleased_onlyHhu (s : State) : OnlyHhu s (enterReleased s) := by
  unfold enterReleased
  refine onlyHhu_of_core ((hillPublish_core _ _ _ (fun f hf t => ?_) _).trans rfl)
  rw [List.mem_singleton.mp hf]; exact sendReport_core _ t

theorem setHhu_core (s : State) (n : Hhu) : ({ s with hhu := n } : State).core = { s.core with hhu := n } :=
  rfl

theorem enterReleasing_onlyHhu (s : State) : OnlyHhu s (enterReleasing s) := by
  unfold enterReleasing
  dsimp only
  generalize HoldReason.release = reason
  generalize Hhu.mk _ _ _ _ _ _ _ _ _ _ _ _ _ = n
  have one : (hillPublish s false true [sendReport (holdReport s.hhu.state reason { s with hhu := n })]
      { s with hhu := n }).core = ({ s with hhu := n } : State).core :=
    hillPublish_core _ _ _ (fun f hf u => by
      rw [List.mem_singleton.mp hf]; exact sendReport_core _ u) _
  have first := onlyHhu_of_core (one.trans (setHhu_core s n))
  split
  · exact onlyHhu_trans first (enterReleased_onlyHhu _)
  · exact first

theorem hillModeChange_onlyHhu (old new : Mode) (s : State) : OnlyHhu s (hillModeChange old new s) := by
  have rearmed : OnlyHhu s { s with hhu.rearm := true } := rfl
  unfold hillModeChange
  dsimp only
  split
  · split
    · split
      · exact onlyHhu_trans rearmed (enterHolding_onlyHhu _ _)
      · exact onlyHhu_trans rearmed (enterHolding_onlyHhu _ _)
      · split
        · exact onlyHhu_trans rearmed (enterHolding_onlyHhu _ _)
        · exact rearmed
      · exact onlyHhu_trans rearmed (judgeTakeUp_onlyHhu _)
      · exact rearmed
    · exact judgeTakeUp_onlyHhu s
  · exact onlyHhu_of_same rfl

theorem hillStandstill_onlyHhu (s : State) : OnlyHhu s (hillStandstill s) := by
  unfold hillStandstill
  repeat' split
  · exact enterHolding_onlyHhu _ s
  · exact enterHolding_onlyHhu _ s
  all_goals exact onlyHhu_of_same rfl

theorem startHill_onlyHhu (s : State) : OnlyHhu s (startHill s) :=
  onlyHhu_trans (t := { s with hhu.rearm := true }) rfl (enterHolding_onlyHhu _ _)

theorem leaveHill_onlyHhu (s : State) : OnlyHhu s (leaveHill s) := by
  unfold leaveHill
  exact onlyHhu_of_core ((hillPublish_core _ _ _ (by simp) _).trans rfl)

end Sys2Proof.Machine
end

