-- ==== Sys2Proof/Laws/PerInstr.lean ====
section
/-! SUPPORT. The family `Bytes`: for each request, the body the line carries for it is read back as that
request (R193, R194, Table 10-5). A command that is no request has no body. -/

namespace Sys2Proof.Laws

open Sys2Proof.Machine

/-- Table 10-7: the ten bytes of a segment record. -/
def segmentRecord (r : SegmentWord) : List Byte :=
  bytesOf 2 r.id.toNat ++ bytesOf 2 r.length.toNat ++ bytesOf 2 r.grade.toNat
    ++ [r.condition, r.sanding] ++ bytesOf 2 r.override.toNat

/-- R194: the fields of a section, each in its width; past the known widths, one byte each. -/
def fieldBytes : List Nat → List Nat → List Byte
  | w :: ws, v :: vs => bytesOf w v ++ fieldBytes ws vs
  | [], v :: vs => BitVec.ofNat 8 v :: fieldBytes [] vs
  | _, [] => []

/-- Table 10-5: the kind, the tag and the body of a request; none for a command that is no request. -/
def requestBody : Instr → Option (ReqKind × Byte × List Byte)
  | .identify tag => some (.identify, tag, [])
  | .configure tag sec f =>
      some (.configure, tag, sec :: fieldBytes ((sectionWidths sec.toNat).getD []) f)
  | .start tag => some (.start, tag, [])
  | .stop tag => some (.stop, tag, [])
  | .restart tag => some (.restart, tag, [])
  | .demand tag mode dir effort permitted =>
      some (.demand, tag, [mode, dir] ++ bytesOf 2 effort.toNat ++ [permitted])
  | .referenceSelect tag mode => some (.referenceSelect, tag, [mode])
  | .axleIsolate tag axle => some (.axleIsolate, tag, [axle])
  | .axleRestore tag axle => some (.axleRestore, tag, [axle])
  | .wheelTrim tag axle d => some (.wheelTrim, tag, axle :: bytesOf 2 d.toNat)
  | .segmentAppend tag count l => some (.segmentAppend, tag, count :: l.flatMap segmentRecord)
  | .routeFlush tag => some (.routeFlush, tag, [])
  | .positionFix tag id offset =>
      some (.positionFix, tag, bytesOf 2 id.toNat ++ bytesOf 4 offset.toNat)
  | .sandRequest tag side shots => some (.sandRequest, tag, [side, shots])
  | .sandFill tag side level => some (.sandFill, tag, side :: bytesOf 2 level.toNat)
  | .statusQuery tag group => some (.statusQuery, tag, [group])
  | .faultQuery tag => some (.faultQuery, tag, [])
  | .faultClear tag kind number => some (.faultClear, tag, [kind, number])
  | _ => none

/-- R193, case 4: the length fits what the body carries. -/
def lengthFits : Instr → Bool
  | .configure _ sec f => fieldsFit sec f
  | .segmentAppend _ count l => countFits count l
  | _ => true

/-- A request the line can carry is read back from its body. -/
def Bytes.Statement (i : Instr) : Prop :=
  i.wf = true → lengthFits i = true → ∀ k tag body, requestBody i = some (k, tag, body) →
    requestOf k tag body = some i

/-! Words and their bytes -/

theorem bytesOf_one (n : Nat) : bytesOf 1 n = [BitVec.ofNat 8 n] := by simp [bytesOf, List.range_succ]

theorem bytesOf_two (n : Nat) : bytesOf 2 n = [BitVec.ofNat 8 (n / 256), BitVec.ofNat 8 n] := by
  simp [bytesOf, List.range_succ]

theorem bytesOf_four (n : Nat) : bytesOf 4 n = [BitVec.ofNat 8 (n / 16777216),
    BitVec.ofNat 8 (n / 65536), BitVec.ofNat 8 (n / 256), BitVec.ofNat 8 n] := by
  simp [bytesOf, List.range_succ]

theorem word16_bytes (x : BitVec 16) :
    word16 (BitVec.ofNat 8 (x.toNat / 256)) (BitVec.ofNat 8 x.toNat) = x := by
  apply BitVec.eq_of_toNat_eq
  simp only [word16, BitVec.toNat_append, BitVec.toNat_ofNat, Nat.shiftLeft_eq]
  rw [← Nat.shiftLeft_eq, Nat.shiftLeft_add_eq_or_of_lt (by omega : x.toNat % 2 ^ 8 < 2 ^ 8) _ |>.symm,
    Nat.shiftLeft_eq]
  have := x.isLt
  omega

theorem word32_bytes (x : BitVec 32) :
    word32 (BitVec.ofNat 8 (x.toNat / 16777216)) (BitVec.ofNat 8 (x.toNat / 65536))
      (BitVec.ofNat 8 (x.toNat / 256)) (BitVec.ofNat 8 x.toNat) = x := by
  apply BitVec.eq_of_toNat_eq
  have := x.isLt
  simp only [word32, BitVec.toNat_append, BitVec.toNat_ofNat]
  rw [← Nat.shiftLeft_add_eq_or_of_lt (by omega), ← Nat.shiftLeft_add_eq_or_of_lt (by omega),
    ← Nat.shiftLeft_add_eq_or_of_lt (by omega)]
  simp only [Nat.shiftLeft_eq]
  omega

theorem number_of_two (n : Nat) (h : n < 65536) : numberOf (bytesOf 2 n) = n := by
  rw [bytesOf_two]
  simp [numberOf]
  omega

theorem number_of_one (n : Nat) (h : n < 256) : numberOf (bytesOf 1 n) = n := by
  rw [bytesOf_one]
  simp [numberOf]
  omega

/-! Segment records -/

theorem segmentWordOf_record (r : SegmentWord) (rest : List Byte) :
    segmentWordOf (segmentRecord r ++ rest) = r := by
  have e1 : ∀ x : BitVec 16, BitVec.ofNat 16 (numberOf (bytesOf 2 x.toNat)) = x := by
    intro x; rw [number_of_two _ x.isLt]; simp
  have h := e1
  simp only [bytesOf_two] at h
  cases r
  simp [segmentWordOf, segmentRecord, bytesOf_two]
  exact ⟨by simpa using h _, by simpa using h _, by simpa using h _, by simpa using h _⟩

theorem segmentRecord_drop (r : SegmentWord) (rest : List Byte) :
    (segmentRecord r ++ rest).drop 10 = rest := by
  simp [segmentRecord, bytesOf_two]

theorem segmentRecord_length (r : SegmentWord) : (segmentRecord r).length = 10 := by
  simp [segmentRecord, bytesOf_two]

theorem segmentWordsOf_records : ∀ l : List SegmentWord,
    segmentWordsOf l.length (l.flatMap segmentRecord) = l
  | [] => rfl
  | r :: rest => by
    rw [List.flatMap_cons, List.length_cons, segmentWordsOf, segmentWordOf_record, segmentRecord_drop,
      segmentWordsOf_records rest]

theorem records_length (l : List SegmentWord) : (l.flatMap segmentRecord).length = 10 * l.length := by
  induction l with
  | nil => rfl
  | cons r rest ih => rw [List.flatMap_cons, List.length_append, segmentRecord_length, ih,
      List.length_cons]; omega

/-! Section fields -/

theorem sectionWidths_small {sec : Nat} {ws : List Nat} (h : sectionWidths sec = some ws) :
    ∀ w ∈ ws, w = 1 ∨ w = 2 := by
  unfold sectionWidths at h
  repeat' split at h
  all_goals first
    | (cases h; decide)
    | exact absurd h (by simp)

theorem bytesOf_length (w n : Nat) : (bytesOf w n).length = w := by simp [bytesOf]

theorem splitFields_bytes : ∀ (ws f : List Nat), (∀ w ∈ ws, w = 1 ∨ w = 2) → f.length = ws.length →
    fitWidths ws f = true → splitFields ws (fieldBytes ws f) = some f
  | [], [], _, _, _ => rfl
  | [], _ :: _, _, hl, _ => by simp at hl
  | _ :: _, [], _, hl, _ => by simp at hl
  | w :: ws, v :: vs, hw, hl, hf => by
    simp only [fitWidths, Bool.and_eq_true, decide_eq_true_eq] at hf
    have ih := splitFields_bytes ws vs (fun x hx => hw x (List.mem_cons_of_mem _ hx))
      (by simpa using hl) hf.2
    have hn : numberOf (bytesOf w v) = v := by
      rcases hw w List.mem_cons_self with rfl | rfl
      · exact number_of_one v (by simpa using hf.1)
      · exact number_of_two v (by simpa using hf.1)
    have hlen := bytesOf_length w v
    rw [fieldBytes, splitFields]
    · rw [if_neg (by rw [List.length_append, hlen]; omega)]
      rw [List.drop_left' hlen, List.take_left' hlen, ih, hn]
      rfl

theorem plainFields_bytes : ∀ f : List Nat, fitWidths [] f = true →
    (fieldBytes [] f).map BitVec.toNat = f
  | [], _ => rfl
  | v :: vs, h => by
    simp only [fitWidths, Bool.and_eq_true, decide_eq_true_eq] at h
    rw [fieldBytes, List.map_cons, plainFields_bytes vs h.2]
    simp
    omega

namespace Bytes

theorem powerOnReset (x y : Bool) : Statement (.powerOnReset x y) := by
  intro _ _ _ _ _ e; exact absurd e (by simp [requestBody])

theorem frameReceived (f : RxFrame) : Statement (.frameReceived f) := by
  intro _ _ _ _ _ e; exact absurd e (by simp [requestBody])

theorem gapTimerExpiry : Statement .gapTimerExpiry := by
  intro _ _ _ _ _ e; exact absurd e (by simp [requestBody])

theorem frameTransmitted : Statement .frameTransmitted := by
  intro _ _ _ _ _ e; exact absurd e (by simp [requestBody])

theorem restartTakesEffect : Statement .restartTakesEffect := by
  intro _ _ _ _ _ e; exact absurd e (by simp [requestBody])

theorem speedSensorEdge (l : SensorLine) (e : LineEdge) : Statement (.speedSensorEdge l e) := by
  intro _ _ _ _ _ e; exact absurd e (by simp [requestBody])

theorem groundValidLineDrop (x : Bool) : Statement (.groundValidLineDrop x) := by
  intro _ _ _ _ _ e; exact absurd e (by simp [requestBody])

theorem windowPeriodExpiry (c : Chan) : Statement (.windowPeriodExpiry c) := by
  intro _ _ _ _ _ e; exact absurd e (by simp [requestBody])

theorem heldTimerExpiry : Statement .heldTimerExpiry := by
  intro _ _ _ _ _ e; exact absurd e (by simp [requestBody])

theorem standstillConfirmExpiry : Statement .standstillConfirmExpiry := by
  intro _ _ _ _ _ e; exact absurd e (by simp [requestBody])

theorem lowAdhesionTimerExpiry (x : Bogie) : Statement (.lowAdhesionTimerExpiry x) := by
  intro _ _ _ _ _ e; exact absurd e (by simp [requestBody])

theorem demandTimerExpiry : Statement .demandTimerExpiry := by
  intro _ _ _ _ _ e; exact absurd e (by simp [requestBody])

theorem eblOpen : Statement .eblOpen := by
  intro _ _ _ _ _ e; exact absurd e (by simp [requestBody])

theorem eblClose : Statement .eblClose := by
  intro _ _ _ _ _ e; exact absurd e (by simp [requestBody])

theorem trackBrakeOnTimerExpiry : Statement .trackBrakeOnTimerExpiry := by
  intro _ _ _ _ _ e; exact absurd e (by simp [requestBody])

theorem trackBrakeOffTimerExpiry : Statement .trackBrakeOffTimerExpiry := by
  intro _ _ _ _ _ e; exact absurd e (by simp [requestBody])

theorem pressureRampCompletion (x : Bogie) : Statement (.pressureRampCompletion x) := by
  intro _ _ _ _ _ e; exact absurd e (by simp [requestBody])

theorem releaseConfirmExpiry : Statement .releaseConfirmExpiry := by
  intro _ _ _ _ _ e; exact absurd e (by simp [requestBody])

theorem takeUpTimerExpiry : Statement .takeUpTimerExpiry := by
  intro _ _ _ _ _ e; exact absurd e (by simp [requestBody])

theorem releaseRampCompletion (x : Bogie) : Statement (.releaseRampCompletion x) := by
  intro _ _ _ _ _ e; exact absurd e (by simp [requestBody])

theorem shotTimerExpiry (e : Side) : Statement (.shotTimerExpiry e) := by
  intro _ _ _ _ _ e; exact absurd e (by simp [requestBody])

theorem recoveryTimerExpiry (e : Side) : Statement (.recoveryTimerExpiry e) := by
  intro _ _ _ _ _ e; exact absurd e (by simp [requestBody])

theorem ageTimerExpiry (src : SandSource) (e : Side) : Statement (.ageTimerExpiry src e) := by
  intro _ _ _ _ _ e; exact absurd e (by simp [requestBody])

theorem emergencyRepeatTimerExpiry : Statement .emergencyRepeatTimerExpiry := by
  intro _ _ _ _ _ e; exact absurd e (by simp [requestBody])

theorem analogConversion (c : Analog) (code : BitVec 12) : Statement (.analogConversion c code) := by
  intro _ _ _ _ _ e; exact absurd e (by simp [requestBody])

theorem steadyTimerExpiry (x : Bogie) : Statement (.steadyTimerExpiry x) := by
  intro _ _ _ _ _ e; exact absurd e (by simp [requestBody])

theorem disagreementTimerExpiry (x : Bogie) : Statement (.disagreementTimerExpiry x) := by
  intro _ _ _ _ _ e; exact absurd e (by simp [requestBody])

theorem agreementTimerExpiry (x : Bogie) : Statement (.agreementTimerExpiry x) := by
  intro _ _ _ _ _ e; exact absurd e (by simp [requestBody])

theorem dumpLimitTimerExpiry (x : Bogie) : Statement (.dumpLimitTimerExpiry x) := by
  intro _ _ _ _ _ e; exact absurd e (by simp [requestBody])

theorem referenceLostTimerExpiry : Statement .referenceLostTimerExpiry := by
  intro _ _ _ _ _ e; exact absurd e (by simp [requestBody])

theorem receivedByte (x : Byte) (fe : Bool) : Statement (.receivedByte x fe) := by
  intro _ _ _ _ _ e; exact absurd e (by simp [requestBody])

theorem identify (tag : Byte) : Statement (.identify tag) := by
  intro _ _ _ _ _ e; cases e; rfl

theorem start (tag : Byte) : Statement (.start tag) := by
  intro _ _ _ _ _ e; cases e; rfl

theorem stop (tag : Byte) : Statement (.stop tag) := by
  intro _ _ _ _ _ e; cases e; rfl

theorem restart (tag : Byte) : Statement (.restart tag) := by
  intro _ _ _ _ _ e; cases e; rfl

theorem referenceSelect (tag mode : Byte) : Statement (.referenceSelect tag mode) := by
  intro _ _ _ _ _ e; cases e; rfl

theorem axleIsolate (tag axle : Byte) : Statement (.axleIsolate tag axle) := by
  intro _ _ _ _ _ e; cases e; rfl

theorem axleRestore (tag axle : Byte) : Statement (.axleRestore tag axle) := by
  intro _ _ _ _ _ e; cases e; rfl

theorem routeFlush (tag : Byte) : Statement (.routeFlush tag) := by
  intro _ _ _ _ _ e; cases e; rfl

theorem sandRequest (tag side shots : Byte) : Statement (.sandRequest tag side shots) := by
  intro _ _ _ _ _ e; cases e; rfl

theorem statusQuery (tag group : Byte) : Statement (.statusQuery tag group) := by
  intro _ _ _ _ _ e; cases e; rfl

theorem faultQuery (tag : Byte) : Statement (.faultQuery tag) := by
  intro _ _ _ _ _ e; cases e; rfl

theorem faultClear (tag kind number : Byte) : Statement (.faultClear tag kind number) := by
  intro _ _ _ _ _ e; cases e; rfl

theorem demand (tag mode dir : Byte) (effort : BitVec 16) (permitted : Byte) :
    Statement (.demand tag mode dir effort permitted) := by
  intro _ _ _ _ _ e
  simp only [requestBody, bytesOf_two, List.cons_append, List.nil_append, Option.some.injEq, Prod.mk.injEq] at e
  obtain ⟨rfl, rfl, rfl⟩ := e
  show some (Instr.demand tag mode dir (word16 (BitVec.ofNat 8 (effort.toNat / 256)) (BitVec.ofNat 8 effort.toNat))
    permitted) = _
  rw [word16_bytes]

theorem wheelTrim (tag axle : Byte) (d : BitVec 16) :
    Statement (.wheelTrim tag axle d) := by
  intro _ _ _ _ _ e
  simp only [requestBody, bytesOf_two, Option.some.injEq, Prod.mk.injEq] at e
  obtain ⟨rfl, rfl, rfl⟩ := e
  show some (Instr.wheelTrim tag axle (word16 (BitVec.ofNat 8 (d.toNat / 256)) (BitVec.ofNat 8 d.toNat))) = _
  rw [word16_bytes]

theorem sandFill (tag side : Byte) (level : BitVec 16) :
    Statement (.sandFill tag side level) := by
  intro _ _ _ _ _ e
  simp only [requestBody, bytesOf_two, Option.some.injEq, Prod.mk.injEq] at e
  obtain ⟨rfl, rfl, rfl⟩ := e
  show some (Instr.sandFill tag side (word16 (BitVec.ofNat 8 (level.toNat / 256)) (BitVec.ofNat 8 level.toNat)))
    = _
  rw [word16_bytes]

theorem positionFix (tag : Byte) (id : BitVec 16) (offset : BitVec 32) :
    Statement (.positionFix tag id offset) := by
  intro _ _ _ _ _ e
  simp only [requestBody, bytesOf_two, bytesOf_four, List.cons_append, List.nil_append, Option.some.injEq, Prod.mk.injEq] at e
  obtain ⟨rfl, rfl, rfl⟩ := e
  show some (Instr.positionFix tag (word16 (BitVec.ofNat 8 (id.toNat / 256)) (BitVec.ofNat 8 id.toNat))
    (word32 (BitVec.ofNat 8 (offset.toNat / 16777216)) (BitVec.ofNat 8 (offset.toNat / 65536))
      (BitVec.ofNat 8 (offset.toNat / 256)) (BitVec.ofNat 8 offset.toNat))) = _
  rw [word16_bytes, word32_bytes]

theorem segmentAppend (tag count : Byte) (records : List SegmentWord) :
    Statement (.segmentAppend tag count records) := by
  intro _ fit _ _ _ e
  cases e
  have hc : records.length = count.toNat := by simpa [lengthFits, countFits] using fit
  show segmentAppendOf tag (count :: records.flatMap segmentRecord) = _
  simp only [segmentAppendOf, records_length, hc, if_true]
  rw [← hc, segmentWordsOf_records]

theorem configure (tag sec : Byte) (fields : List Nat) : Statement (.configure tag sec fields) := by
  intro wf fit _ _ _ e
  cases e
  have hw : fitWidths ((sectionWidths sec.toNat).getD []) fields = true := by
    simp only [Instr.wf, Bool.and_eq_true] at wf
    exact wf.2
  simp only [lengthFits, fieldsFit] at fit
  show configureOf tag (sec :: fieldBytes ((sectionWidths sec.toNat).getD []) fields) = _
  simp only [configureOf]
  cases hs : sectionWidths sec.toNat with
  | none =>
    rw [hs] at hw
    simp only [Option.getD_none] at hw ⊢
    rw [plainFields_bytes fields hw]
  | some ws =>
    rw [hs] at hw fit
    simp only [Option.getD_some] at hw ⊢
    rw [splitFields_bytes ws fields (sectionWidths_small hs) (by simpa using fit) hw]
    rfl

end Bytes

end Sys2Proof.Laws
end

