-- ==== Sys2Proof/Certificates/Slice0/Obligations.lean ====
section
/-! DEFINITION. The statements: what each command does, what the operations compute, and what every step
keeps. `withReply k tag r s` is `s` with that reply at the tail of the reply queue, begun at once where the
line is free (R195, R197); `accepts s` says that R193's cases 1 and 2 do not apply. -/

open Sys2Proof Sys2Proof.Machine

/-! The block and its queue of commands -/

/-- Log 2: a step takes the command at the front of the queue and runs it on the rest. -/
def Obligations.StepRunsFront : Prop :=
  ∀ (c : Instr) (s : State), step { s with pending := c :: s.pending } = exec c s

/-- Log 2: on an empty queue a step is a microsecond; the commands due then, and no others, join the queue.
Log 3: every order of the deliveries of one event is named by some choice. Log 5: when each expiry is due. -/
def Obligations.TickAndOrders : Prop :=
  (∀ (l m : List (State → State)), m.Perm l → ∃ c, arrange l.length c l = m)
  ∧ (∀ s : State, s.pending = [] → ∃ t, step s = .next t ∧ t.clock = s.clock + 1
    ∧ (∀ i, i ∈ t.pending ↔ expiryDue i { s with clock := s.clock + 1 } = true)
    ∧ (sandWf s.snd.queue → t.pending.Nodup)
    ∧ { t with clock := s.clock, pending := s.pending, free := s.free } = s)
  ∧ ∀ u : State,
    (expiryDue .gapTimerExpiry u = true ↔ dueNow u.lnk.gapTimer u)
    ∧ (∀ c, expiryDue (.windowPeriodExpiry c) u = true
      ↔ ∃ w, (u.wsc.get c).state = .measuring w ∧ w.due ≤ u.clock)
    ∧ (expiryDue .heldTimerExpiry u = true ↔ u.ref.active = .held ∧ dueNow u.ref.heldTimer u)
    ∧ (expiryDue .standstillConfirmExpiry u = true ↔ confirmDue u.ref.confirm u)
    ∧ (∀ x, expiryDue (.lowAdhesionTimerExpiry x) u = true ↔ dueNow (u.adh.bogie.get x).lowTimer u)
    ∧ (expiryDue .demandTimerExpiry u = true ↔ dueNow u.bld.demand.timer u)
    ∧ (expiryDue .trackBrakeOnTimerExpiry u = true ↔ dueNow u.bld.onTimer u)
    ∧ (expiryDue .trackBrakeOffTimerExpiry u = true ↔ dueNow u.bld.offTimer u)
    ∧ (∀ x, expiryDue (.pressureRampCompletion x) u = true
      ↔ ∃ start since aim, u.bld.out.get x = .ramp start since aim ∧ u.pressure x = aim)
    ∧ (expiryDue .releaseConfirmExpiry u = true ↔ u.hhu.state = .takeUp ∧ confirmDue u.hhu.confirm u)
    ∧ (expiryDue .takeUpTimerExpiry u = true ↔ u.hhu.state = .takeUp ∧ dueNow u.hhu.takeUp u)
    ∧ (∀ x, expiryDue (.releaseRampCompletion x) u = true
      ↔ u.hhu.state = .releasing ∧ u.hhu.ramp.get x ≠ none ∧ u.floor x = 0)
    ∧ (∀ e, expiryDue (.shotTimerExpiry e) u = true
      ↔ ∃ shot, u.snd.valve.get e = .pouring shot ∧ shot.due ≤ u.clock)
    ∧ (∀ e, expiryDue (.recoveryTimerExpiry e) u = true
      ↔ ∃ due, u.snd.valve.get e = .recovery due ∧ due ≤ u.clock)
    ∧ (∀ source e, expiryDue (.ageTimerExpiry source e) u = true
      ↔ ∃ x, u.snd.queue.find? (SandEntry.isFor source e) = some x ∧ dueNow x.age u)
    ∧ (expiryDue .emergencyRepeatTimerExpiry u = true ↔ dueNow u.snd.repeatTimer u)
    ∧ (∀ x, expiryDue (.steadyTimerExpiry x) u = true ↔ confirmDue (u.afe.sup.get x).steady u)
    ∧ (∀ x, expiryDue (.disagreementTimerExpiry x) u = true ↔ dueNow (u.afe.sup.get x).disagree u)
    ∧ (∀ x, expiryDue (.agreementTimerExpiry x) u = true ↔ dueNow (u.afe.sup.get x).agree u)
    ∧ (∀ x, expiryDue (.dumpLimitTimerExpiry x) u = true
      ↔ (u.stu.bogie.get x).episode ≠ none ∧ dueNow (u.stu.bogie.get x).limitTimer u)
    ∧ (expiryDue .referenceLostTimerExpiry u = true ↔ dueNow u.sfc.refLostTimer u)
    ∧ (∀ i, (Laws.requestBody i).isSome = true → expiryDue i u = false)
    ∧ (∀ x y, expiryDue (.powerOnReset x y) u = false) ∧ (∀ f, expiryDue (.frameReceived f) u = false)
    ∧ expiryDue .frameTransmitted u = false ∧ expiryDue .restartTakesEffect u = false
    ∧ (∀ l e, expiryDue (.speedSensorEdge l e) u = false)
    ∧ (∀ x, expiryDue (.groundValidLineDrop x) u = false) ∧ expiryDue .eblOpen u = false
    ∧ expiryDue .eblClose u = false ∧ (∀ c n, expiryDue (.analogConversion c n) u = false)
    ∧ ∀ x y, expiryDue (.receivedByte x y) u = false

/-- Every command completes in every state; none touches the queue of commands, and only power-on reset
touches the clock and the baud rate. The model's choices: that time passes at idle steps alone and commands
leave the queue as it is (logs 2 and 34), and that an expiry which is not due changes nothing (log 5). -/
def Obligations.EveryCommandCompletes : Prop :=
  ∀ (c : Instr) (s : State),
    (∃ t, exec c s = .next t ∧ t.pending = s.pending
      ∧ ((∀ x y, c ≠ .powerOnReset x y) → t.clock = s.clock ∧ t.baud = s.baud))
    ∧ ((∃ u, expiryDue c u = true) → expiryDue c s = false → exec c s = .next s)

/-! Reset (R177, R200, R189) -/

/-- R177, for power-on reset from any state, with the values of each block's own table, the link of R200 and
the baud rate of R189. The field inputs stay as they stand (log 34); REF's held acceleration and HHU's release
threshold, judged drive force and catch mark are values the model names (log 13). -/
def Obligations.PowerOnResetState : Prop :=
  ∀ (low high : Bool) (s : State), ∃ t, exec (.powerOnReset low high) s = .next t
    ∧ t.sfc.opState = .unconfigured
    ∧ t.sfc.cfg.adhesion = {
        creep := 40, slip := 100, accelExcess := 3000, cut := 600, stepCut := 50, floor := 150
        unsup := 400, rate := 250, implausible := 15000, up := 1500, down := 1500, hold := 1000
        heldTimeout := 2000 }
    ∧ t.sfc.cfg.hold = {
        margin := 300, pMin := 1500, relMargin := 20, confirm := 300, takeUp := 8000, rate := 6000
        rollback := 50, catchShare := 800, sandGrade := 40 }
    ∧ t.sfc.cfg.sand = { flow := ⟨12, 12⟩, shot := 2000, vMin := 500 }
    ∧ (∀ x, t.sfc.cfg.trip.get x = {
        source := .both, filter := 2, mode := .autoDump, decel := 3500, slip := 150, limit := 1200 })
    ∧ t.sfc.cfg.vehicle = none ∧ (∀ x, t.sfc.cfg.axle.get x = none) ∧ t.sfc.cfg.ground = none
    ∧ (∀ c, t.sfc.cfg.analog.get c = none) ∧ t.sfc.cfg.blend = none
    ∧ t.sfc.sent = 0
    ∧ (∀ id, t.fault id = {
        active := false, latched := false, count := 0, firstTime := 0, lastTime := 0 })
    ∧ t.sfc.refLostTimer = none ∧ t.sfc.restartPending = false
    ∧ (∀ c, t.wsc.get c = {
        state := .unset, diameter := none, circ := none, pendingCirc := none, latest := none
        prev := none, seq := 0, implausible := 0, dead := 0, healthy := 0, isolated := false })
    ∧ t.ref = {
        requested := .axleFused, active := .standstill, prior := .axleFused, speed := 0, accel := 0
        heldAccel := 0, updateTime := none, heldTimer := none, resync := ⟨0, 0, 0, 0, 0, 0⟩, engage := 0
        confirm := .stopped, residual := 0 }
    ∧ (∀ x, t.adh.axle.get x = ⟨.grip, 0⟩)
    ∧ (∀ x, t.adh.bogie.get x = {
        limit := 0, residual := 0, mark := none, slips := [], low := false, lowTimer := none })
    ∧ t.rlq = { queue := [], pos := none, dir := none, uncertain := false }
    ∧ t.bld = {
        demand := {
          mode := .coast, dir := .forward, effort := 0, permitted := false, stale := false
          latch := none, timer := none }
        mu := 0, fmax := ⟨0, 0, 0⟩, cap := ⟨0, 0, 0⟩, drive := ⟨0, 0⟩, deficit := 0, ed := ⟨0, 0⟩
        achieved := ⟨0, 0⟩, toPlace := 0, friction := ⟨0, 0, 0⟩, unfulfilled := 0, duty := ⟨0, 0⟩
        modeDrive := false, modeBrake := false, track := false, onTimer := none, offTimer := none
        out := ⟨.absent, .absent, .absent⟩ }
    ∧ t.hhu = {
        state := .off, floor := ⟨0, 0, 0⟩, level := ⟨0, 0, 0⟩, ramp := ⟨none, none, none⟩
        acc := ⟨0, 0, 0, 0, 0, 0⟩, confirm := .stopped, blocked := false, takeUp := none, rearm := true
        holdForce := 0, relThreshold := 0, dAch := 0, caughtAtRest := false }
    ∧ t.snd = {
        queue := [], arrivals := 0, valve := ⟨.closed, .closed⟩, level := ⟨0, 0⟩, repeatTimer := none
        sanded := 0 }
    ∧ (∀ c, t.afe.chan.get c = {
        gain := none, discard := false, code := none, reading := none, saturated := 0, clear := 0
        cause := false })
    ∧ (∀ x, t.afe.sup.get x = {
        moving := true, steady := .stopped, disagree := none, agree := none, cause := false })
    ∧ t.stu.counter = ⟨0, 0, 0, 0, 0, 0⟩
    ∧ (∀ x, t.stu.bogie.get x = {
        episode := none, limitTimer := none, exhausted := 0, disabled := false, suppressed := false })
    ∧ t.nowMs = 0
    ∧ t.lnk = {
        framer := .hunting, gapTimer := none, discards := 0, replies := [], reports := []
        inFlight := some (.report (.operatingState .unconfigured .unconfigured .powerOn 0 0))
        reportsLost := false, requestsDiscarded := false }
    ∧ t.baud = (match low, high with
      | false, false => .b115200
      | true, false => .b230400
      | false, true => .b460800
      | true, true => .b921600)
    ∧ t.eblOpen = s.eblOpen ∧ t.groundLow = s.groundLow

/-! What every step keeps -/

/-- The invariants hold at reset. -/
def Obligations.InvariantsAtReset : Prop :=
  linkWf State.reset ∧ faultsWf State.reset ∧ sandWf State.reset.snd.queue
    ∧ routeWf State.reset.rlq ∧ configuredWf State.reset.sfc ∧ restartWf State.reset = true

/-- R192, R195 to R197: at most 4 replies, 16 reports and a discard count of 4; no frame waits on a free
line; the LINK record is active exactly while the count stands at 4. -/
def Obligations.StepKeepsLink : Prop :=
  ∀ s t : State, step s = .next t → linkWf s → linkWf t

/-- R185, R186: every record's count stays within 255, an active record is latched, a latched one counted. -/
def Obligations.StepKeepsFaultTable : Prop :=
  ∀ s t : State, step s = .next t → faultsWf s → faultsWf t

/-- R137: at most 8 entries, no two of the same source and end, each with 1 to 10 shots. -/
def Obligations.StepKeepsSandQueue : Prop :=
  ∀ s t : State, step s = .next t → sandWf s.snd.queue → sandWf t.snd.queue

/-- R75 to R81: at most 32 segments of distinct ids; position and direction are present while it is not
empty; the position lies in the head. -/
def Obligations.StepKeepsRoute : Prop :=
  ∀ s t : State, step s = .next t → routeWf s.rlq → routeWf t.rlq

/-- R178: outside UNCONFIGURED all thirteen required sections have been taken. -/
def Obligations.StepKeepsConfigured : Prop :=
  ∀ s t : State, step s = .next t → configuredWf s.sfc → configuredWf t.sfc

/-- R182: while a restart is pending, its OK reply waits or is in flight. -/
def Obligations.StepKeepsRestartReply : Prop :=
  ∀ s t : State, step s = .next t → restartWf s = true → restartWf t = true

/-! The link (R189 to R198) -/

/-- R193, R194: a request the line can carry is read back from the body that carries it. -/
def Obligations.RequestReadBackFromBody : Prop := ∀ i : Instr, Laws.Bytes.Statement i

/-- R190, R191: the bytes of a request frame, received one by one from HUNTING, do what the frame does,
whose operand is log 7's; and the check value of the CRC, of the nine ASCII bytes "123456789". -/
def Obligations.BytesMakeTheFrame : Prop :=
  crc16 [0x31, 0x32, 0x33, 0x34, 0x35, 0x36, 0x37, 0x38, 0x39] = 0x29B1
  ∧ ∀ (f : RxFrame) (s : State), s.lnk.framer = .hunting → f.framingError = false → f.body.length ≤ 96 →
    exec (.frameReceived f) s = .next
      (([0xD1, BitVec.ofNat 8 f.body.length, f.kind, f.tag] ++ f.body ++ bytesOf 2 f.crc.toNat).foldl
        (fun t x => takeByte x false t) s)
    ∧ ∀ (x : Byte) (t : State), exec (.receivedByte x false) t = .next (takeByte x false t)

/-- R189, R191, R192: the first bytes of a frame, what discards one, and what a discard does. -/
def Obligations.FramerAndDiscards : Prop :=
  (∀ (x : Byte) (fe : Bool) (s : State), s.lnk.framer = .hunting → (fe = true ∨ x ≠ 0xD1) →
    exec (.receivedByte x fe) s = .next s)
  ∧ (∀ s : State, s.lnk.framer = .hunting → exec (.receivedByte 0xD1 false) s = .next
      { s with lnk := { s.lnk with framer := .inFrame [], gapTimer := some (s.clock + 2000) } })
  ∧ (∀ (c : Instr) (s : State),
      ((c = .gapTimerExpiry ∧ s.expired s.lnk.gapTimer = true)
        ∨ (∃ x bytes, c = .receivedByte x true ∧ s.lnk.framer = .inFrame bytes)
        ∨ (∃ x, c = .receivedByte x false ∧ s.lnk.framer = .inFrame [] ∧ 96 < x.toNat)
        ∨ (∃ f, c = .frameReceived f ∧ (96 < f.body.length ∨ f.framingError = true))
        ∨ (∃ f, c = .frameReceived f ∧ s.sfc.restartPending = false
            ∧ crc16 ([BitVec.ofNat 8 f.body.length, f.kind, f.tag] ++ f.body) ≠ f.crc)) →
      ∃ t, exec c s = .next t ∧ t.lnk.framer = .hunting ∧ t.lnk.gapTimer = none
        ∧ t.lnk.discards = min 4 (s.lnk.discards + 1) ∧ t.lnk.replies.length ≤ s.lnk.replies.length
        ∧ (t.fault .link).active = ((s.fault .link).active || decide (3 ≤ s.lnk.discards))
        ∧ ∀ id, id ≠ .link → t.fault id = s.fault id)

/-- R193: cases 1 and 2 for each of the eighteen requests; cases 1 and 3 to 5 for a good frame. That a request
row stands for R193 from case 1 on, and a good frame for that row after the count of R192, is log 6's. -/
def Obligations.GoodFrameDisposal : Prop :=
  (∀ (i : Instr) (s : State), (Laws.requestBody i).isSome = true →
    (s.sfc.restartPending = true → exec i s = .next s)
    ∧ (s.sfc.restartPending = false → 4 ≤ s.lnk.replies.length →
      exec i s = .next { s with lnk := { s.lnk with requestsDiscarded := true } }))
  ∧ ∀ (f : RxFrame) (s : State), f.body.length ≤ 96 → f.framingError = false →
    crc16 ([BitVec.ofNat 8 f.body.length, f.kind, f.tag] ++ f.body) = f.crc →
    (s.sfc.restartPending = true → exec (.frameReceived f) s = .next (hunt s))
    ∧ (s.sfc.restartPending = false →
      (∀ k i, ReqKind.ofByte? f.kind = some k → requestOf k f.tag f.body = some i →
        exec (.frameReceived f) s = exec i (countGood (hunt s)))
      ∧ (s.lnk.replies.length < 4 →
        (∀ k, ReqKind.ofByte? f.kind = some k → requestOf k f.tag f.body = none →
          exec (.frameReceived f) s = .next (sendReply ⟨f.kind, f.tag, .badLength⟩ (countGood (hunt s))))
        ∧ (ReqKind.ofByte? f.kind = none →
          exec (.frameReceived f) s
            = .next (sendReply ⟨f.kind, f.tag, .unknownKind⟩ (countGood (hunt s))))))

/-- R197: at the last byte of a frame the oldest reply begins, or else the oldest report. On an idle line
FRAME TRANSMITTED changes nothing: the model's choice (log 9). -/
def Obligations.TransmitOrder : Prop :=
  (∀ s : State, s.lnk.inFlight = none → exec .frameTransmitted s = .next s)
  ∧ ∀ (s : State) (f : TxFrame), s.lnk.inFlight = some f → restartReplyInFlight s = false →
    (∀ r rest, s.lnk.replies = r :: rest → exec .frameTransmitted s = .next
      { s with lnk := { s.lnk with replies := rest, inFlight := some (.reply r) } })
    ∧ (∀ r rest, s.lnk.replies = [] → s.lnk.reports = r :: rest → exec .frameTransmitted s = .next
      { s with lnk := { s.lnk with reports := rest, inFlight := some (.report r) } })
    ∧ (s.lnk.replies = [] → s.lnk.reports = [] →
      exec .frameTransmitted s = .next { s with lnk := { s.lnk with inFlight := none } })

/-- R199, coded by R194; that the revision number takes four bytes is the model's reading (log 26). -/
def Obligations.IdentifyAnswers : Prop :=
  ∀ (tag : Byte) (s : State), accepts s → exec (.identify tag) s = .next (withReply .identify tag
    (.ok ([0x48, 0x47, 0x36, 0x00, 0x00, 0x00, 0x01, BitVec.ofNat 8 (match s.sfc.opState with
        | .unconfigured => 0
        | .ready => 1
        | .active => 2
        | .failsafe => 3)] ++ bytesOf 3 s.sfc.sent.toNat)) s)
    ∧ withReply .identify tag (.ok (identityBody s)) s
      = { s with lnk := (withReply .identify tag (.ok (identityBody s)) s).lnk }

/-- R198: the flags as they stand, the group, the time counter and the group's contents; both flags clear. The
contents are those of Table 10-10, coded by R194 as log 26 reads it. -/
def Obligations.StatusQueryAnswers : Prop :=
  (∀ (tag group : Byte) (s : State), accepts s →
    (9 < group.toNat → exec (.statusQuery tag group) s
      = .next (withReply .statusQuery tag (.refusedRange 1) s))
    ∧ (group.toNat ≤ 9 → ∃ contents, statusGroup s group.toNat = some contents
      ∧ exec (.statusQuery tag group) s = .next (withReply .statusQuery tag
        (.ok ([BitVec.ofNat 8 ((if s.lnk.reportsLost then 1 else 0)
            + (if s.lnk.requestsDiscarded then 2 else 0)), group] ++ bytesOf 4 s.nowMs.toNat ++ contents))
        { s with lnk := { s.lnk with reportsLost := false, requestsDiscarded := false } })))
  ∧ ∀ s : State,
    statusGroup s 0 = some (bytesOf 1 s.sfc.opState.code ++ bytesOf 3 s.sfc.sent.toNat
      ++ flagByte s.eblOpen ++ bytesOf 1 s.lnk.replies.length ++ bytesOf 1 s.lnk.reports.length
      ++ bytesOf 1 s.lnk.discards)
    ∧ statusGroup s 1 = some (Chan.all.flatMap fun c => bytesOf 1 c.number
      ++ match (s.wsc.get c).latest with
        | none => List.replicate 16 0
        | some p => bytesOf 2 p.seq.toNat ++ signedBytes 4 p.net ++ bytesOf 4 p.duration
          ++ bytesOf 1 p.windows ++ signedBytes 2 p.v ++ signedBytes 2 p.a
          ++ [bitsByte [p.flags.standstill, p.flags.reversal, p.flags.stretched, p.flags.overrange,
            p.flags.implausible, p.flags.isolated, p.flags.invalid, true]])
    ∧ statusGroup s 2 = some (bytesOf 1 s.ref.requested.code ++ bytesOf 1 s.ref.active.code
      ++ bytesOf 1 s.ref.prior.code ++ signedBytes 2 s.ref.speed ++ signedBytes 2 s.ref.accel
      ++ bytesOf 1 s.ref.engage)
    ∧ statusGroup s 3 = some
      ((Axle.all.flatMap fun x => bytesOf 1 (s.adhState x).code ++ bytesOf 1 (s.adh.axle.get x).recover)
      ++ Bogie.all.flatMap fun x => bytesOf 2 (s.adh.bogie.get x).limit
        ++ flagByte (s.adh.bogie.get x).low ++ bytesOf 1 (s.adh.bogie.get x).slips.length
        ++ optBytes 4 ((s.adh.bogie.get x).slips.getLast?.map fun v => bytesOf 4 v.toNat))
    ∧ statusGroup s 4 = some (flagByte (decide (s.rlq.queue = [])) ++ bytesOf 1 s.rlq.queue.length
      ++ (match s.rlq.queue with
        | [] => List.replicate 10 0
        | g :: _ => bytesOf 2 g.id ++ bytesOf 2 g.length ++ signedBytes 2 g.grade
          ++ bytesOf 1 (conditionCode g.condition) ++ flagByte g.inhibited
          ++ bytesOf 2 (g.override.getD 0))
      ++ optBytes 4 (s.rlq.pos.map (bytesOf 4))
      ++ optBytes 1 (s.rlq.dir.map fun d => bytesOf 1 (Direction.code d)) ++ flagByte s.rlq.uncertain
      ++ (match s.rlq.queue with
        | [] => signedBytes 2 s.vehicle.gDef ++ bytesOf 1 3 ++ bytesOf 2 0 ++ flagByte false
        | g :: _ => signedBytes 2 g.grade ++ bytesOf 1 (conditionCode g.condition)
          ++ bytesOf 2 (g.override.getD 0) ++ flagByte g.inhibited))
    ∧ statusGroup s 5 = some (bytesOf 1 s.mode.code ++ bytesOf 1 (Direction.code s.travel)
      ++ bytesOf 2 s.bld.demand.effort
      ++ bytesOf 1 (if s.bld.demand.permitted then 0 else 1) ++ flagByte s.bld.demand.stale
      ++ bytesOf 1 (match s.bld.demand.latch with
        | none => 0
        | some .demand => 1
        | some .loop => 2)
      ++ bytesOf 2 (s.timeLeft s.bld.demand.timer) ++ flagByte s.eblOpen ++ bytesOf 2 s.bld.mu
      ++ bytesOf 2 s.bld.fmax.a ++ bytesOf 2 s.bld.cap.a ++ bytesOf 2 s.bld.fmax.t
      ++ bytesOf 2 s.bld.cap.t ++ bytesOf 2 s.bld.fmax.b ++ bytesOf 2 s.bld.cap.b
      ++ bytesOf 4 s.bld.drive.a ++ bytesOf 4 s.bld.drive.b ++ bytesOf 4 s.bld.deficit
      ++ bytesOf 4 s.bld.ed.a ++ bytesOf 4 s.bld.ed.b
      ++ bytesOf 4 s.bld.achieved.a ++ bytesOf 4 s.bld.achieved.b ++ bytesOf 4 s.bld.toPlace
      ++ bytesOf 4 s.bld.friction.t ++ bytesOf 4 s.bld.friction.a ++ bytesOf 4 s.bld.friction.b
      ++ bytesOf 4 s.bld.unfulfilled ++ flagByte s.bld.track
      ++ flagByte s.bld.onTimer.isSome ++ flagByte s.bld.offTimer.isSome
      ++ Bogie.all.flatMap fun x => bytesOf 2 (s.bld.out.get x).aim
        ++ (if s.bld.out.get x = .absent then optBytes 2 none ++ bytesOf 2 1000
          else optBytes 2 (some (bytesOf 2 (s.pressure x)))
            ++ bytesOf 2 ((2 * (s.pressure x * 1000) + s.blend.pMax.get x) / (2 * s.blend.pMax.get x))))
    ∧ statusGroup s 6 = some (bytesOf 1 s.hhu.state.code
      ++ bytesOf 2 (s.floor .a) ++ bytesOf 2 (s.floor .t) ++ bytesOf 2 (s.floor .b)
      ++ bytesOf 2 s.hhu.level.a ++ bytesOf 2 s.hhu.level.t ++ bytesOf 2 s.hhu.level.b
      ++ (Axle.all.flatMap fun x => bytesOf 4 (s.hhu.acc.get x)) ++ bytesOf 1 s.hhu.confirm.code
      ++ flagByte s.hhu.takeUp.isSome ++ flagByte s.hhu.rearm ++ bytesOf 4 s.hhu.holdForce
      ++ bytesOf 4 s.hhu.relThreshold)
    ∧ statusGroup s 7 = some (bytesOf 1 s.snd.queue.length
      ++ (s.snd.queue.flatMap fun x => bytesOf 1 (sandSourceCode x.source) ++ bytesOf 1 x.side.number
        ++ flagByte x.leading ++ bytesOf 1 x.shots
        ++ optBytes 2 (x.age.map fun due => bytesOf 2 (s.timeLeft (some due)))
        ++ bytesOf 2 x.arrival.toNat)
      ++ (Side.all.flatMap fun e => (match s.snd.valve.get e with
          | .closed => bytesOf 1 0 ++ optBytes 14 none ++ bytesOf 2 0
          | .pouring shot => bytesOf 1 1 ++ optBytes 14 (some (bytesOf 1 (sandSourceCode shot.source)
            ++ bytesOf 2 shot.arrival.toNat ++ bytesOf 2 shot.length ++ bytesOf 1 shot.flow
            ++ bytesOf 4 shot.since.toNat ++ bytesOf 2 shot.allowed
            ++ bytesOf 2 (s.timeLeft (some shot.due)))) ++ bytesOf 2 0
          | .recovery due => bytesOf 1 2 ++ optBytes 14 none ++ bytesOf 2 (s.timeLeft (some due)))
        ++ bytesOf 2 (s.snd.level.get e))
      ++ bytesOf 4 s.snd.sanded ++ flagByte s.snd.repeatTimer.isSome)
    ∧ statusGroup s 8 = some ((Analog.all.flatMap fun c =>
        optBytes 1 ((s.sfc.cfg.analog.get c).map fun cfg => flagByte (decide (cfg.mode = .auto)))
        ++ optBytes 1 ((s.afe.chan.get c).gain.map (bytesOf 1)) ++ flagByte (s.afe.chan.get c).discard
        ++ optBytes 2 ((s.afe.chan.get c).code.map (bytesOf 2))
        ++ optBytes 4 ((s.afe.chan.get c).reading.map (signedBytes 4))
        ++ bytesOf 1 (s.afe.chan.get c).saturated ++ bytesOf 1 (s.afe.chan.get c).clear)
      ++ Bogie.all.flatMap fun x => flagByte (!(s.afe.sup.get x).moving)
        ++ bytesOf 1 (s.afe.sup.get x).steady.code
        ++ bytesOf 2 (s.timeLeft (s.afe.sup.get x).steady.timer)
        ++ flagByte (s.afe.sup.get x).disagree.isSome
        ++ bytesOf 2 (s.timeLeft (s.afe.sup.get x).disagree)
        ++ flagByte (s.afe.sup.get x).agree.isSome
        ++ bytesOf 2 (s.timeLeft (s.afe.sup.get x).agree) ++ flagByte (s.afe.sup.get x).cause)
    ∧ statusGroup s 9 = some (Bogie.all.flatMap fun x =>
        bytesOf 1 (match (s.sfc.cfg.trip.get x).source with
          | .decel => 0
          | .slip => 1
          | .both => 2)
        ++ bytesOf 1 (s.sfc.cfg.trip.get x).filter
        ++ flagByte (decide ((s.sfc.cfg.trip.get x).mode = .reportOnly))
        ++ bytesOf 2 (s.sfc.cfg.trip.get x).decel ++ bytesOf 2 (s.sfc.cfg.trip.get x).slip
        ++ bytesOf 2 (s.sfc.cfg.trip.get x).limit
        ++ bytesOf 1 (s.stu.counter.get x.axles.1) ++ bytesOf 1 (s.stu.counter.get x.axles.2)
        ++ optBytes 1 ((s.stu.bogie.get x).episode.map fun ep => bytesOf 1 ep.axle.number)
        ++ bytesOf 2 (s.timeLeft (s.stu.bogie.get x).limitTimer)
        ++ bytesOf 1 (s.stu.bogie.get x).exhausted ++ flagByte (s.stu.bogie.get x).disabled
        ++ flagByte (s.stu.bogie.get x).suppressed)

/-- R188: the time counter and the seventeen records in record-number order; no record changes. -/
def Obligations.FaultQueryAnswers : Prop :=
  FaultId.all.length = 17 ∧ (∀ (n : Nat) (id : FaultId), FaultId.all[n]? = some id → id.number = n)
  ∧ ∀ (tag : Byte) (s : State), accepts s → ∃ t, exec (.faultQuery tag) s = .next t
    ∧ t = withReply .faultQuery tag (.ok (bytesOf 4 s.nowMs.toNat ++ FaultId.all.flatMap fun id =>
        [BitVec.ofNat 8 id.number, BitVec.ofNat 8 id.kind, BitVec.ofNat 8 id.slot,
          BitVec.ofNat 8 ((if (s.fault id).active then 1 else 0)
            + (if (s.fault id).latched then 2 else 0))]
          ++ bytesOf 1 (s.fault id).count ++ bytesOf 4 (s.fault id).firstTime.toNat
          ++ bytesOf 4 (s.fault id).lastTime.toNat)) s
    ∧ ∀ id, t.fault id = s.fault id

/-! Faults (R185 to R187) -/

/-- R185, R196: a raise of a record that is not active, its report, and a report's place in the queue. -/
def Obligations.RaiseAndReport : Prop :=
  (∀ (id : FaultId) (s : State), (s.fault id).active = true → raiseFault id s = s)
  ∧ (∀ (id : FaultId) (s : State), (s.fault id).active = false → ∃ r : FaultRec,
      r = { active := true, latched := true, count := min 255 ((s.fault id).count + 1)
            firstTime := if (s.fault id).count = 0 then s.nowMs else (s.fault id).firstTime
            lastTime := s.nowMs }
      ∧ raiseFault id s = sendReport (.faultRaised id r) (s.setFault id r)
      ∧ (s.setFault id r).fault id = r ∧ ∀ j, j ≠ id → (s.setFault id r).fault j = s.fault j)
  ∧ ∀ (r : Report) (s : State),
      (16 ≤ s.lnk.reports.length → sendReport r s = { s with lnk := { s.lnk with reportsLost := true } })
      ∧ (s.lnk.reports.length < 16 → sendReport r s
          = arbitrate { s with lnk := { s.lnk with reports := s.lnk.reports ++ [r] } })

/-- R187. -/
def Obligations.FaultClear : Prop :=
  (faultInstances 0 = some [.sensor .a1, .sensor .a2, .sensor .t1, .sensor .t2, .sensor .b1, .sensor .b2]
    ∧ faultInstances 1 = some [.ground]
    ∧ faultInstances 2 = some [.pressure .a, .pressure .t, .pressure .b]
    ∧ faultInstances 3 = some [.edFeedback .a, .edFeedback .b]
    ∧ faultInstances 4 = some [.sandEmpty .one, .sandEmpty .two]
    ∧ faultInstances 5 = some [.referenceLost] ∧ faultInstances 6 = some [.demandStale]
    ∧ faultInstances 7 = some [.link])
  ∧ ∀ (tag kind number : Byte) (s : State), accepts s →
    (8 ≤ kind.toNat → kind ≠ 255 →
      answersOnly (.faultClear tag kind number) .faultClear tag (.refusedRange 1) s)
    ∧ (∀ l, faultInstances kind.toNat = some l → l.length ≤ number.toNat →
      answersOnly (.faultClear tag kind number) .faultClear tag (.refusedRange 2) s)
    ∧ (∀ l id, faultInstances kind.toNat = some l → l[number.toNat]? = some id →
      ((s.fault id).active = true →
        answersOnly (.faultClear tag kind number) .faultClear tag .stillActive s)
      ∧ ((s.fault id).active = false → ∃ t, exec (.faultClear tag kind number) s = .next t
        ∧ t.fault id = { active := false, latched := false, count := 0, firstTime := 0, lastTime := 0 }
        ∧ (∀ j, j ≠ id → t.fault j = s.fault j)
        ∧ t = { withReply .faultClear tag (.ok []) s with
            sfc := { s.sfc with faults := t.sfc.faults }, bld := t.bld
            afe := { s.afe with sup := t.afe.sup } }
        ∧ ((∀ x, id ≠ .pressure x) ∨ (s.fault id).latched = false → t.bld = s.bld ∧ t.afe = s.afe)))
    ∧ ∃ t, exec (.faultClear tag 255 number) s = .next t
      ∧ (∀ id, t.fault id = if (s.fault id).active then s.fault id
          else { active := false, latched := false, count := 0, firstTime := 0, lastTime := 0 })
      ∧ t = { withReply .faultClear tag (.ok [BitVec.ofNat 8
            (FaultId.all.filter fun id => (s.fault id).active).length]) s with
          sfc := { s.sfc with faults := t.sfc.faults }, bld := t.bld
          afe := { s.afe with sup := t.afe.sup } }
      ∧ ((∀ x, (s.fault (.pressure x)).active = true ∨ (s.fault (.pressure x)).latched = false) →
        t.bld = s.bld ∧ t.afe = s.afe)

/-! Requests turned away, and CONFIGURE (R178, R183, R184) -/

/-- What is turned away, each with its checks in their order. R183: CONFIGURE, after the length of R193; the
first clause is Table 9-5, with `v i` the field of index `i`. R179: START. R182: RESTART. R92: DEMAND. -/
def Obligations.ControlRequestsRefused : Prop :=
  (∀ (sec : Nat) (fields : List Nat) (v : Nat → Nat) (ranges : List Prop), sec ≤ 19 →
    (∀ i, v i = fields.getD (i - 1) 0) →
    ranges = (if sec = 0 then
        [150 ≤ v 1 ∧ v 1 ≤ 1000, 30 ≤ v 2 ∧ v 2 ≤ 400, 30 ≤ v 3 ∧ v 3 ≤ 400,
         30 ≤ v 4 ∧ v 4 ≤ 400 ∧ v 2 + v 3 + v 4 = v 1, 20 ≤ v 5 ∧ v 5 ≤ 400, 20 ≤ v 6 ∧ v 6 ≤ 400,
         20 ≤ v 7 ∧ v 7 ≤ 400, 20 ≤ v 8 ∧ v 8 ≤ 400, v 9 ≤ 150, 5 ≤ v 10 ∧ v 10 ≤ 200, v 11 ≤ 150]
      else if sec ≤ 6 then
        [60 ≤ v 1 ∧ v 1 ≤ 200, 5 ≤ v 2 ∧ v 2 ≤ 50, 6000 ≤ v 3 ∧ v 3 ≤ 7400]
      else if sec = 7 then [100 ≤ v 1 ∧ v 1 ≤ 10000, 5 ≤ v 2 ∧ v 2 ≤ 50]
      else if sec ≤ 12 then
        [v 1 = 0 ∨ v 1 = 1, v 2 = 1 ∨ v 2 = 2 ∨ v 2 = 4 ∨ v 2 = 8 ∨ v 2 = 16,
         1 ≤ v 3 ∧ v 3 ≤ 65535]
      else if sec = 13 then
        [50 ≤ v 1 ∧ v 1 ≤ 1000, 50 ≤ v 2 ∧ v 2 ≤ 1000, v 3 ≤ 1000, v 4 ≤ 1000,
         500 ≤ v 5 ∧ v 5 ≤ 5000, v 6 + 200 ≤ v 5, 1 ≤ v 7 ∧ v 7 ≤ 100, 1 ≤ v 8 ∧ v 8 ≤ 100,
         1 ≤ v 9 ∧ v 9 ≤ 100, 1000 ≤ v 10 ∧ v 10 ≤ 16000, 1000 ≤ v 11 ∧ v 11 ≤ 16000,
         1000 ≤ v 12 ∧ v 12 ≤ 16000, 500 ≤ v 13 ∧ v 13 ≤ 20000, 100 ≤ v 14 ∧ v 14 ≤ 1000,
         v 15 ≤ 1000, v 16 ≤ 800, v 17 ≤ 800, 10 ≤ v 18 ∧ v 18 ≤ 500,
         v 19 ≤ v 10, v 20 ≤ v 11, v 21 ≤ v 12, v 22 ≤ v 10, v 23 ≤ v 11, v 24 ≤ v 12]
      else if sec = 14 then
        [10 ≤ v 1 ∧ v 1 ≤ 100, 30 ≤ v 2 ∧ v 2 ≤ 300 ∧ v 1 + 10 ≤ v 2, 1000 ≤ v 3 ∧ v 3 ≤ 8000,
         300 ≤ v 4 ∧ v 4 ≤ 900, 10 ≤ v 5 ∧ v 5 ≤ 200, v 6 ≤ 500, v 6 ≤ v 7 ∧ v 7 ≤ 1000,
         50 ≤ v 8 ∧ v 8 ≤ 1000, 8000 ≤ v 9 ∧ v 9 ≤ 20000, 500 ≤ v 10 ∧ v 10 ≤ 3000,
         500 ≤ v 11 ∧ v 11 ≤ 3000, 200 ≤ v 12 ∧ v 12 ≤ 3000, 500 ≤ v 13 ∧ v 13 ≤ 5000]
      else if sec = 15 then
        [v 1 ≤ 1000, v 2 ≤ 16000, v 3 ≤ 200, 100 ≤ v 4 ∧ v 4 ≤ 2000, 2000 ≤ v 5 ∧ v 5 ≤ 20000,
         500 ≤ v 6 ∧ v 6 ≤ 20000, 20 ≤ v 7 ∧ v 7 ≤ 200, 500 ≤ v 8 ∧ v 8 ≤ 1000, v 9 ≤ 150]
      else if sec = 16 then
        [2 ≤ v 1 ∧ v 1 ≤ 100, 2 ≤ v 2 ∧ v 2 ≤ 100, 500 ≤ v 3 ∧ v 3 ≤ 10000, v 4 ≤ 3000]
      else
        [v 1 = 0 ∨ v 1 = 1 ∨ v 1 = 2, v 2 = 1 ∨ v 2 = 2 ∨ v 2 = 4, v 3 = 0 ∨ v 3 = 1,
         1500 ≤ v 4 ∧ v 4 ≤ 8000, 50 ≤ v 5 ∧ v 5 ≤ 400, 300 ≤ v 6 ∧ v 6 ≤ 3000]) →
    (fieldOutOfRange sec fields = none ↔ ∀ inRange ∈ ranges, inRange)
    ∧ ∀ i, fieldOutOfRange sec fields = some i ↔ 1 ≤ i ∧ i ≤ ranges.length
      ∧ ¬ ranges.getD (i - 1) True ∧ ∀ j < i - 1, ranges.getD j True)
  ∧ (∀ (tag sec : Byte) (fields : List Nat) (s : State), accepts s →
     (fieldsFit sec fields = false →
       answersOnly (.configure tag sec fields) .configure tag .badLength s)
     ∧ (19 < sec.toNat → answersOnly (.configure tag sec fields) .configure tag (.refusedRange 0) s)
     ∧ (sec.toNat ≤ 19 → fieldsFit sec fields = true →
       (shut s sec → answersOnly (.configure tag sec fields) .configure tag .refusedState s)
       ∧ (¬ shut s sec → dumping s sec →
         answersOnly (.configure tag sec fields) .configure tag .refusedBusy s)
       ∧ (¬ shut s sec → ¬ dumping s sec → ∀ i, fieldOutOfRange sec.toNat fields = some i →
         answersOnly (.configure tag sec fields) .configure tag (.refusedRange i) s)))
  ∧ (∀ (tag : Byte) (s : State), accepts s →
     (s.sfc.opState ≠ .ready → answersOnly (.start tag) .start tag (.refusedStart .state) s)
     ∧ (s.sfc.opState = .ready → (∃ x, (s.fault (.pressure x)).latched = true) →
       answersOnly (.start tag) .start tag (.refusedStart .pressure) s)
     ∧ (s.sfc.opState = .ready → (∀ x, (s.fault (.pressure x)).latched = false) →
       (∃ x, ∀ p, (s.wsc.axle.get x).latest = some p → p.flags.standstill = false) →
       answersOnly (.start tag) .start tag (.refusedStart .motion) s))
  ∧ (∀ (tag : Byte) (s : State), accepts s → s.sfc.opState = .active ∨ s.sfc.opState = .failsafe →
    s.ref.active ≠ .standstill → answersOnly (.restart tag) .restart tag .refusedState s)
  ∧ ∀ (tag mode dir : Byte) (effort : BitVec 16) (permitted : Byte) (s : State), accepts s →
    (4 ≤ mode.toNat →
      answersOnly (.demand tag mode dir effort permitted) .demand tag (.refusedRange 1) s)
    ∧ (mode.toNat < 4 → 2 ≤ dir.toNat →
      answersOnly (.demand tag mode dir effort permitted) .demand tag (.refusedRange 2) s)
    ∧ (mode.toNat < 4 → dir.toNat < 2 → 2000 < effort.toNat →
      answersOnly (.demand tag mode dir effort permitted) .demand tag (.refusedRange 3) s)
    ∧ (mode.toNat < 4 → dir.toNat < 2 → effort.toNat ≤ 2000 → 2 ≤ permitted.toNat →
      answersOnly (.demand tag mode dir effort permitted) .demand tag (.refusedRange 4) s)
    ∧ (mode.toNat < 4 → dir.toNat < 2 → effort.toNat ≤ 2000 → permitted.toNat < 2 →
      s.sfc.opState ≠ .active →
      answersOnly (.demand tag mode dir effort permitted) .demand tag .refusedState s)

/-- R183, R184, R178: a section that passes is stored whole, each field in its place (`v i` is the field of
index `i` of Table 9-5), and marked; what it does at the blocks, and READY at the last required one. VEHICLE
re-runs stage 1; SAND has both arbiters judge. The ranges of a section that passes are those of
ControlRequestsRefused. -/
def Obligations.ConfigureTaken : Prop :=
  ∀ (tag sec : Byte) (fields : List Nat) (id : SectionId) (s : State), accepts s →
    fieldsFit sec fields = true → SectionId.ofNumber? sec.toNat = some id → ¬ shut s sec →
    ¬ dumping s sec → fieldOutOfRange sec.toNat fields = none → ∀ v : Nat → Nat,
    (∀ i, v i = fields.getD (i - 1) 0) →
    ∃ t, exec (.configure tag sec fields) s = .next t
      ∧ t.sfc.cfg = (match id with
        | .vehicle => { s.sfc.cfg with vehicle := some {
            mass := v 1, load := ⟨v 2, v 3, v 4⟩, mu := ⟨v 5, v 6, v 7, v 8⟩, sandBonus := v 9
            sLen := v 10, gDef := v 11 } }
        | .axle x => { s.sfc.cfg with axle := s.sfc.cfg.axle.set x (some {
            teeth := v 1, window := v 2, diameter := v 3 }) }
        | .ground => { s.sfc.cfg with ground := some { umPerEdge := v 1, window := v 2 } }
        | .analog c => { s.sfc.cfg with analog := s.sfc.cfg.analog.set c (some {
            mode := if v 1 = 0 then .fixed else .auto, gain := v 2, scale := v 3 }) }
        | .blend => { s.sfc.cfg with blend := some {
            driveMax := ⟨v 1, v 2⟩, edMax := ⟨v 3, v 4⟩, vFade := v 5, vZero := v 6
            k := ⟨v 7, v 8, v 9⟩, pMax := ⟨v 10, v 11, v 12⟩, jerk := v 13, demandTimeout := v 14
            fStale := v 15, fTb := ⟨v 16, v 17⟩, uTb := v 18, pPark := ⟨v 19, v 20, v 21⟩
            pFs := ⟨v 22, v 23, v 24⟩ } }
        | .adhesion => { s.sfc.cfg with adhesion := {
            creep := v 1, slip := v 2, accelExcess := v 3, cut := v 4, stepCut := v 5, floor := v 6
            unsup := v 7, rate := v 8, implausible := v 9, up := v 10, down := v 11, hold := v 12
            heldTimeout := v 13 } }
        | .hold => { s.sfc.cfg with hold := {
            margin := v 1, pMin := v 2, relMargin := v 3, confirm := v 4, takeUp := v 5, rate := v 6
            rollback := v 7, catchShare := v 8, sandGrade := v 9 } }
        | .sand => { s.sfc.cfg with sand := { flow := ⟨v 1, v 2⟩, shot := v 3, vMin := v 4 } }
        | .trip x => { s.sfc.cfg with trip := s.sfc.cfg.trip.set x {
            source := if v 1 = 0 then .decel else if v 1 = 1 then .slip else .both
            filter := v 2, mode := if v 3 = 0 then .autoDump else .reportOnly
            decel := v 4, slip := v 5, limit := v 6 } })
      ∧ t.sfc.sent = s.sfc.sent ||| (1#24 <<< sec.toNat)
      ∧ replied .configure tag (.ok (bytesOf 3 t.sfc.sent.toNat)) t
      ∧ t.ref = s.ref ∧ t.adh = s.adh ∧ t.hhu = s.hhu ∧ t.rlq = s.rlq ∧ t.sfc.faults = s.sfc.faults
      ∧ (s.sfc.opState = .unconfigured ∧ allRequiredSent t.sfc.sent = true →
        t.sfc.opState = .ready ∧ t.cv = true
          ∧ (∀ x, t.bld.out.get x = .steady (t.blend.pPark.get x))
          ∧ reported (.operatingState .ready .unconfigured .configured t.sfc.sent t.nowMs) t)
      ∧ (¬ (s.sfc.opState = .unconfigured ∧ allRequiredSent t.sfc.sent = true) →
        t.sfc.opState = s.sfc.opState)
      ∧ (∀ x, id = .axle x → t.wsc.get (.axle x) = { s.wsc.get (.axle x) with
          state := .measuring {
            forward := 0, reverse := 0, first := none, last := none, periods := 1, drop := false
            scale := .wheel (circumference (v 3)) (v 1), due := s.clock + v 2 * 1000 }
          diameter := some (v 3), circ := some (circumference (v 3))
          pendingCirc := none, prev := none, implausible := 0, dead := 0, healthy := 0 })
      ∧ (id = .ground → t.wsc.ground = { s.wsc.ground with
          state := .measuring {
            forward := 0, reverse := 0, first := none, last := none, periods := 1, drop := s.groundLow
            scale := .ground (v 1), due := s.clock + v 2 * 1000 }
          diameter := none, circ := none, pendingCirc := none
          prev := none, implausible := 0, dead := 0, healthy := 0 })
      ∧ (∀ c, (∀ x, id = .axle x → c ≠ .axle x) → (id = .ground → c ≠ .ground) →
        t.wsc.get c = s.wsc.get c)
      ∧ (∀ c, id = .analog c → t.afe.chan.get c = { s.afe.chan.get c with
          gain := some (if v 1 = 0 then v 2 else 1)
          discard := true, saturated := 0, clear := 0 })
      ∧ (∀ c, id ≠ .analog c → t.afe.chan.get c = s.afe.chan.get c)
      ∧ (∀ x, id = .trip x → t.stu = { s.stu with
          counter := (s.stu.counter.set x.axles.1 0).set x.axles.2 0 })
      ∧ ((∀ x, id ≠ .trip x) → t.stu = s.stu)
      ∧ (id = .blend → s.sfc.opState = .ready →
        t.bld.out = ⟨.steady (v 19), .steady (v 20), .steady (v 21)⟩)
      ∧ (id = .vehicle → t.bld = { s.bld with
          mu := t.bld.mu, fmax := t.bld.fmax, cap := t.bld.cap, out := t.bld.out }
        ∧ t.bld.mu = min 400 ((match s.rlq.queue with
            | [] => v 8
            | g :: _ => g.override.getD (match g.condition with
              | .dry => v 5
              | .wet => v 6
              | .contaminated => v 7
              | .unknown => v 8))
          + if 0 < s.snd.sanded then v 9 else 0)
        ∧ t.bld.fmax = ⟨v 2 * 981 * t.bld.mu / 100000, v 3 * 981 * t.bld.mu / 100000,
          v 4 * 981 * t.bld.mu / 100000⟩
        ∧ ∀ x, t.bld.cap.get x = (s.adh.bogie.get x).limit * t.bld.fmax.get x / 1000)
      ∧ (id ≠ .vehicle → id ≠ .sand → t.bld = { s.bld with out := t.bld.out })
      ∧ (id ≠ .sand ∨ s.sfc.opState ≠ .active → t.snd = s.snd)
      ∧ (id = .sand → ∀ (e : Side) (u : State), u = { s with sfc := { s.sfc with cfg := t.sfc.cfg } } →
        (grantee u e = none → t.snd.valve.get e = s.snd.valve.get e)
        ∧ ∀ (x : SandEntry) (allowed : Nat), grantee u e = some x →
          allowed = min (v 3) (s.snd.level.get e * 1000 / (if e = .one then v 1 else v 2)) →
          t.snd.valve.get e = .pouring {
            source := x.source, arrival := x.arrival, length := v 3
            flow := if e = .one then v 1 else v 2, since := s.nowMs, allowed := allowed
            due := s.clock + allowed * 1000 }
          ∧ reported (.sand (.shot allowed (if e = .one then v 1 else v 2)) e x.source x.arrival
              (x.shots - 1) (s.snd.level.get e) s.nowMs) t)

/-! START, STOP and RESTART (R179 to R182) -/

/-- R179, with what R13, R25, R65, R66, R72, R91, R97, R121, R123, R136, R142 and R165 say of START; R181 where
no axle is supervised. -/
def Obligations.StartTaken : Prop :=
  ∀ (tag : Byte) (s : State), accepts s → s.sfc.opState = .ready →
    (∀ x, (s.fault (.pressure x)).latched = false) →
    (∀ x, ∃ p, (s.wsc.axle.get x).latest = some p ∧ p.flags.standstill = true) →
    ∃ t, exec (.start tag) s = .next t ∧ replied .start tag (.ok []) t
      ∧ t.wsc = PerChan.of (fun c => { s.wsc.get c with prev := none })
      ∧ t.ref = { s.ref with active := .standstill, updateTime := none, residual := 0 }
      ∧ t.sfc.cfg = s.sfc.cfg ∧ t.sfc.sent = s.sfc.sent ∧ t.eblOpen = s.eblOpen
      ∧ t.afe.chan = s.afe.chan ∧ (∀ id, (∀ e, id ≠ .sandEmpty e) → t.fault id = s.fault id)
      ∧ reported (.operatingState .active .ready .start s.sfc.sent s.nowMs) t
      ∧ ((∀ x, s.unwatched x = true) → t.sfc.opState = .failsafe)
      ∧ ((∃ x, s.unwatched x = false) → t.sfc.opState = .active
        ∧ (s.travel = .forward → t.rlq = s.rlq) ∧ (s.travel = .reverse → t.rlq.queue = [])
        ∧ t.bld.demand = { mode := if s.eblOpen then .emergency else .brake
                           dir := .forward, effort := t.bld.demand.effort, permitted := false
                           stale := true, latch := if s.eblOpen then some .loop else none
                           timer := if s.eblOpen then none
                             else some (s.clock + s.blend.demandTimeout * 1000) }
        ∧ (s.eblOpen = false → t.bld.demand.effort = s.blend.fStale)
        ∧ t.adh.axle = s.adh.axle
        ∧ (∀ x, ¬ isUnsupervised s x →
          t.adh.bogie.get x = {
            limit := 1000, residual := 0, mark := none, slips := [], low := false, lowTimer := none })
        ∧ (∀ x, isUnsupervised s x → t.adh.bogie.get x = {
            limit := if x = .t then s.adhesion.unsup else min 1000 s.adhesion.unsup
            residual := 0, mark := none, slips := [], low := false, lowTimer := none })
        ∧ (t.hhu.state = .holding ∨ s.mode = .drive ∧ t.hhu.state = .takeUp)
        ∧ t.hhu.rearm = true ∧ t.hhu.acc = PerAxle.of (fun _ => 0)
        ∧ (s.hhu.state = .off → ∃ h : Hhu,
          (h = heldLevels s ∨ (s.travel = .reverse
            ∧ h = heldLevels { s with rlq := { s.rlq with queue := [] } }))
          ∧ (t.hhu.state = .holding → t.hhu = { holdingFrom h with rearm := true })
          ∧ (t.hhu.state = .takeUp → t.hhu = { takingUp s (holdingFrom h) with rearm := true })
          ∧ reported (.holdState .holding .off .start h.floor h.holdForce h.relThreshold h.dAch s.nowMs) t)
        ∧ t.stu.counter = PerAxle.of (fun _ => 0)
        ∧ (∀ x, (t.stu.bogie.get x).exhausted = 0 ∧ (t.stu.bogie.get x).disabled = false
          ∧ (t.stu.bogie.get x).suppressed = false)
        ∧ t.snd.repeatTimer = (if s.eblOpen then some (s.clock + 10000000) else s.snd.repeatTimer))

/-- R180, with what R25, R73, R91, R116, R136, R155, R164 and R172 say of STOP. -/
def Obligations.Stop : Prop :=
  ∀ (tag : Byte) (s : State), accepts s →
    (¬ (s.sfc.opState = .active ∧ s.ref.active = .standstill) →
      answersOnly (.stop tag) .stop tag .refusedState s)
    ∧ (s.sfc.opState = .active → s.ref.active = .standstill → ∃ t, exec (.stop tag) s = .next t
      ∧ replied .stop tag (.ok []) t
      ∧ reported (.operatingState .ready .active .stop s.sfc.sent s.nowMs) t
      ∧ t.sfc.opState = .ready ∧ t.cv = true ∧ t.sfc.refLostTimer = none
      ∧ t.sfc.cfg = s.sfc.cfg ∧ t.sfc.sent = s.sfc.sent ∧ t.wsc = s.wsc ∧ t.rlq = s.rlq
      ∧ t.afe.chan = s.afe.chan
      ∧ t.fault .demandStale = { s.fault .demandStale with active := false }
      ∧ (∀ id, id ≠ .demandStale → (∀ e, id ≠ .sandEmpty e) → t.fault id = s.fault id)
      ∧ t.ref = { s.ref with
          active := .standstill, speed := 0, accel := 0, heldTimer := none, confirm := .stopped
          resync := PerAxle.of fun _ => 0, engage := 0 }
      ∧ (∀ x, t.adh.bogie.get x = BogieAdh.powerOn)
      ∧ (∀ x, t.adh.axle.get x = if s.unwatched x then { s.adh.axle.get x with recover := 0 }
          else ⟨.grip, 0⟩)
      ∧ t.hhu = { s.hhu with
          state := .off, floor := ⟨0, 0, 0⟩, ramp := ⟨none, none, none⟩, acc := PerAxle.of fun _ => 0
          confirm := .stopped, takeUp := none, blocked := false, rearm := true }
      ∧ t.snd.queue = [] ∧ t.snd.valve = ⟨.closed, .closed⟩ ∧ t.snd.repeatTimer = none
      ∧ t.snd.sanded = s.snd.sanded
      ∧ (∀ e, t.snd.level.get e = s.snd.level.get e - (match s.snd.valve.get e with
          | .pouring shot => (shot.flow * (s.nowMs - shot.since).toNat + 999) / 1000
          | .closed => 0
          | .recovery _ => 0))
      ∧ t.snd.arrivals = s.snd.arrivals
      ∧ (∀ e shot, s.snd.valve.get e = .pouring shot → t.snd.level.get e = 0 →
        (t.fault (.sandEmpty e)).active = true)
      ∧ t.stu = Stu.powerOn
      ∧ t.bld.demand = { s.bld.demand with
          mode := .coast, effort := 0, permitted := false, stale := false, latch := none, timer := none }
      ∧ (∀ x, t.bld.out.get x = .steady (s.blend.pPark.get x))
      ∧ (∀ x, t.afe.sup.get x = {
          moving := false, steady := .running (s.clock + 300000), disagree := none, agree := none
          cause := (s.afe.sup.get x).cause })
      ∧ t.bld.duty = ⟨0, 0⟩ ∧ t.bld.modeDrive = false ∧ t.bld.modeBrake = false ∧ t.bld.track = false)

/-- R182: RESTART taken. Then R182 and R200 at its effect, with the RESTART values of R24, R25, R71, R90,
R91, R117, R136, R155, R164 and R174. The model's: FRAME TRANSMITTED with that reply in flight is the same
event (log 9), no order among the blocks is left to see (log 25), and REF's held acceleration and HHU's
three figures and mark are values the model names (log 13). -/
def Obligations.RestartTakesEffect : Prop :=
  (∀ (tag : Byte) (s : State), accepts s →
    s.sfc.opState = .unconfigured ∨ s.sfc.opState = .ready ∨ s.ref.active = .standstill →
    exec (.restart tag) s
      = .next (withReply .restart tag (.ok []) { s with sfc := { s.sfc with restartPending := true } }))
  ∧ ∀ (tag : Byte) (s : State), s.sfc.restartPending = true →
    s.lnk.inFlight = some (.reply ⟨0x05, tag, .ok []⟩) →
    exec .frameTransmitted s = exec .restartTakesEffect s
    ∧ ∃ t, exec .restartTakesEffect s = .next t
      ∧ t.sfc = { s.sfc with
          opState := if allRequiredSent s.sfc.sent then .ready else .unconfigured
          faults := FaultTable.clear, refLostTimer := none, restartPending := false }
      ∧ t.lnk = {
          framer := .hunting, gapTimer := none, discards := 0, replies := [], reports := []
          inFlight := some (.report
            (.operatingState t.sfc.opState s.sfc.opState .restart s.sfc.sent s.nowMs))
          reportsLost := false, requestsDiscarded := false }
      ∧ t.ref = {
        requested := .axleFused, active := .standstill, prior := .axleFused, speed := 0, accel := 0
        heldAccel := 0, updateTime := none, heldTimer := none, resync := ⟨0, 0, 0, 0, 0, 0⟩, engage := 0
        confirm := .stopped, residual := 0 }
      ∧ (∀ x, t.adh.axle.get x = ⟨.grip, 0⟩)
    ∧ (∀ x, t.adh.bogie.get x = {
        limit := 0, residual := 0, mark := none, slips := [], low := false, lowTimer := none })
      ∧ t.rlq = { queue := [], pos := none, dir := none, uncertain := false }
      ∧ t.hhu = {
        state := .off, floor := ⟨0, 0, 0⟩, level := ⟨0, 0, 0⟩, ramp := ⟨none, none, none⟩
        acc := ⟨0, 0, 0, 0, 0, 0⟩, confirm := .stopped, blocked := false, takeUp := none, rearm := true
        holdForce := 0, relThreshold := 0, dAch := 0, caughtAtRest := false }
      ∧ t.stu.counter = ⟨0, 0, 0, 0, 0, 0⟩
    ∧ (∀ x, t.stu.bogie.get x = {
        episode := none, limitTimer := none, exhausted := 0, disabled := false, suppressed := false })
      ∧ t.eblOpen = s.eblOpen ∧ t.groundLow = s.groundLow
      ∧ t.snd.queue = [] ∧ t.snd.arrivals = 0 ∧ t.snd.valve = ⟨.closed, .closed⟩
      ∧ t.snd.repeatTimer = none ∧ t.snd.sanded = s.snd.sanded
      ∧ (∀ e, t.snd.level.get e = s.snd.level.get e - (match s.snd.valve.get e with
          | .pouring shot => (shot.flow * (s.nowMs - shot.since).toNat + 999) / 1000
          | .closed => 0
          | .recovery _ => 0))
      ∧ t.bld = {
        demand := {
          mode := .coast, dir := .forward, effort := 0, permitted := false, stale := false
          latch := none, timer := none }
        mu := s.bld.mu, fmax := s.bld.fmax, cap := ⟨0, 0, 0⟩, drive := ⟨0, 0⟩, deficit := 0, ed := ⟨0, 0⟩
        achieved := ⟨0, 0⟩, toPlace := 0, friction := ⟨0, 0, 0⟩, unfulfilled := 0, duty := ⟨0, 0⟩
        modeDrive := false, modeBrake := false, track := false, onTimer := none, offTimer := none
        out := t.bld.out }
      ∧ (∀ x, t.bld.out.get x = if allRequiredSent s.sfc.sent then .steady (s.blend.pPark.get x)
          else .absent)
      ∧ (∀ c, (t.wsc.get c).latest = none ∧ (t.wsc.get c).prev = none ∧ (t.wsc.get c).isolated = false
        ∧ (t.wsc.get c).implausible = 0 ∧ (t.wsc.get c).dead = 0 ∧ (t.wsc.get c).healthy = 0
        ∧ (t.wsc.get c).diameter = (s.wsc.get c).diameter ∧ (t.wsc.get c).seq = (s.wsc.get c).seq
        ∧ ((s.wsc.get c).state = .unset → (t.wsc.get c).state = .unset)
        ∧ (∀ w, (s.wsc.get c).state = .measuring w → ∃ n, (t.wsc.get c).state = .measuring n
          ∧ n.forward = 0 ∧ n.reverse = 0 ∧ n.first = none ∧ n.last = none ∧ n.periods = 1
          ∧ n.due = s.clock + s.windowMs c * 1000))
      ∧ (∀ c, t.afe.chan.get c = {
          gain := (s.sfc.cfg.analog.get c).map fun cfg => if cfg.mode = .fixed then cfg.gain else 1
          discard := true, code := none, reading := none, saturated := 0, clear := 0, cause := false })
      ∧ (∀ x, t.afe.sup.get x = {
          moving := !allRequiredSent s.sfc.sent
          steady := if allRequiredSent s.sfc.sent then .running (s.clock + 300000) else .stopped
          disagree := none, agree := none, cause := false })

/-! Demand and the emergency loop (R91 to R98) -/

/-- R92, R93, R96 to R98: the record after a DEMAND that is taken, its reply, and what it leaves. R111: at the
DEMAND that clears the latch the track brakes go off and both timers stay stopped, as log 44 reads it. R94: the
change of demand mode as its readers take it. -/
def Obligations.DemandRecord : Prop :=
  ∀ (tag mode dir : Byte) (effort : BitVec 16) (permitted : Byte) (m : Mode) (d : Direction) (p : Bool)
    (s : State), activeAccepts s → Mode.ofCode? mode.toNat = some m → dirOfCode? dir.toNat = some d →
    effort.toNat ≤ 2000 → boolOfCode? permitted.toNat = some p →
    ∃ t, exec (.demand tag mode dir effort permitted) s = .next t
      ∧ replied .demand tag (if (d ≠ s.travel ∧ s.ref.active ≠ .standstill)
            ∨ (s.bld.demand.latch ≠ none ∧ m ≠ .emergency
              ∧ (s.ref.active ≠ .standstill ∨ s.eblOpen = true))
          then .held else .ok []) t
      ∧ t.bld.demand.dir = (if s.ref.active = .standstill then d else s.travel)
      ∧ t.bld.demand.permitted = p ∧ t.bld.demand.stale = false
      ∧ (s.bld.demand.latch = none → m ≠ .emergency →
        t.bld.demand = { mode := m, dir := t.bld.demand.dir, effort := effort.toNat, permitted := p
                         stale := false, latch := none
                         timer := some (s.clock + s.blend.demandTimeout * 1000) })
      ∧ (s.bld.demand.latch = none → m = .emergency →
        t.bld.demand = { mode := .emergency, dir := t.bld.demand.dir, effort := effort.toNat
                         permitted := p, stale := false, latch := some .demand, timer := none })
      ∧ (s.bld.demand.latch ≠ none → m ≠ .emergency → s.ref.active = .standstill →
        s.eblOpen = false →
        t.bld.demand = { mode := m, dir := t.bld.demand.dir, effort := effort.toNat, permitted := p
                         stale := false, latch := none
                         timer := some (s.clock + s.blend.demandTimeout * 1000) }
        ∧ t.bld.track = false ∧ t.bld.onTimer = none ∧ t.bld.offTimer = none)
      ∧ (s.bld.demand.latch ≠ none → m = .emergency → s.eblOpen = false →
        t.bld.demand = { s.bld.demand with
          dir := t.bld.demand.dir, permitted := p, stale := false, effort := effort.toNat })
      ∧ (s.bld.demand.latch ≠ none → m ≠ .emergency → s.ref.active ≠ .standstill →
        s.eblOpen = false →
        t.bld.demand = { s.bld.demand with dir := t.bld.demand.dir, permitted := p, stale := false })
      ∧ (s.bld.demand.latch ≠ none → s.eblOpen = true →
        t.bld.demand = { s.bld.demand with
          dir := t.bld.demand.dir, permitted := p, stale := false, effort := t.bld.demand.effort }
        ∧ (s.bld.demand.latch ≠ some .loop ∨ (t.bld.cap = s.bld.cap ∧ t.bld.demand.dir = s.travel) →
          t.bld.demand.effort = s.bld.demand.effort)
        ∧ (s.bld.demand.latch = some .loop → t.bld.cap ≠ s.bld.cap →
          t.bld.demand.effort = t.bld.cap.a + t.bld.cap.t + t.bld.cap.b)
        ∧ (t.bld.demand.effort = s.bld.demand.effort
          ∨ t.bld.demand.effort = t.bld.cap.a + t.bld.cap.t + t.bld.cap.b))
      ∧ t.fault .demandStale = { s.fault .demandStale with active := false }
      ∧ (∀ id, id ≠ .demandStale → (∀ e, id ≠ .sandEmpty e) → t.fault id = s.fault id)
      ∧ (t.bld.demand.dir = s.travel → t.rlq = s.rlq)
      ∧ (t.bld.demand.dir ≠ s.travel → t.rlq.queue = [])
      ∧ t.wsc = s.wsc ∧ t.ref = s.ref ∧ t.afe.chan = s.afe.chan ∧ t.sfc.opState = s.sfc.opState
      ∧ t.sfc.cfg = s.sfc.cfg ∧ t.adh.bogie = s.adh.bogie ∧ modeTaken s t

/-- R95, R94: the demand timer expires, and the readers take the change of demand mode. R109, R110: the two
track-brake timers expire, and the allocation re-runs with the track brakes switched. -/
def Obligations.DemandAndTrackTimers : Prop :=
  (∀ s : State, s.expired s.bld.demand.timer = true →
     ¬ (s.eblOpen = true ∧ s.bld.demand.latch = some .loop) →
     ∃ t, exec .demandTimerExpiry s = .next t
       ∧ t.bld.demand = { s.bld.demand with
           mode := .brake, effort := s.blend.fStale, stale := true, timer := none }
       ∧ t.fault .demandStale = (if (s.fault .demandStale).active then s.fault .demandStale
           else { active := true, latched := true, count := min 255 ((s.fault .demandStale).count + 1)
                  firstTime := if (s.fault .demandStale).count = 0 then s.nowMs
                    else (s.fault .demandStale).firstTime
                  lastTime := s.nowMs })
       ∧ reported (.staleDemand s.bld.demand.mode s.bld.demand.effort s.blend.fStale s.nowMs) t
       ∧ t.wsc = s.wsc ∧ t.ref = s.ref ∧ t.rlq = s.rlq ∧ t.adh.bogie = s.adh.bogie
       ∧ t.afe.chan = s.afe.chan ∧ t.sfc.opState = s.sfc.opState ∧ t.sfc.cfg = s.sfc.cfg
       ∧ (s.sfc.opState = .active → modeTaken s t))
  ∧ ∀ s : State, s.sfc.opState = .active → s.mode = .brake → s.bld.demand.permitted = true →
    (s.expired s.bld.onTimer = true → ∃ t, exec .trackBrakeOnTimerExpiry s = .next t
      ∧ t = rerun { s with bld := { s.bld with track := true, onTimer := none } }
      ∧ t.bld.track = true ∧ t.bld.onTimer = none ∧ t.bld.demand.mode = .brake
      ∧ t = { s with bld := t.bld, afe := { s.afe with sup := t.afe.sup } })
    ∧ (s.expired s.bld.offTimer = true → ∃ t, exec .trackBrakeOffTimerExpiry s = .next t
      ∧ t = rerun { s with bld := { s.bld with track := false, offTimer := none } }
      ∧ t.bld.track = false ∧ t.bld.offTimer = none ∧ t.bld.demand.mode = .brake
      ∧ t = { s with bld := t.bld, afe := { s.afe with sup := t.afe.sup } })

/-- R97, R94, with what the readers of the change of demand mode take; log 30 for an opening with the loop open.
An opening in EMERGENCY changes no mode, and no reader takes anything. -/
def Obligations.EmergencyLoop : Prop :=
  ∀ s : State,
    exec .eblClose s = .next { s with eblOpen := false }
    ∧ (s.eblOpen = true → exec .eblOpen s = .next s)
    ∧ (s.eblOpen = false → s.sfc.opState ≠ .active →
      exec .eblOpen s = .next { s with eblOpen := true })
    ∧ (s.eblOpen = false → s.sfc.opState = .active → ∃ t, exec .eblOpen s = .next t
      ∧ t.eblOpen = true
      ∧ t.bld.demand = { s.bld.demand with
          mode := .emergency, effort := t.bld.cap.a + t.bld.cap.t + t.bld.cap.b, latch := some .loop
          timer := none }
      ∧ t.wsc = s.wsc ∧ t.ref = s.ref ∧ t.rlq = s.rlq ∧ t.adh.bogie = s.adh.bogie
      ∧ t.afe.chan = s.afe.chan ∧ t.sfc.opState = .active ∧ t.sfc.cfg = s.sfc.cfg
      ∧ modeTaken s t
      ∧ (s.mode = .emergency → t.snd = s.snd ∧ t.adh = s.adh ∧ t.stu = s.stu ∧ t.hhu = s.hhu))

/-! The allocation (R97 to R115). `t` is the state after a re-run; a re-run changes BLD and the supervision of
its outputs alone. -/

/-- R99 to R101, R97, R109 to R111: stage 1, the effort under an open loop, and the track brakes. -/
def Obligations.RerunCapsAndTrack : Prop :=
  ∀ (cause : PerBogie AimCause) (s t : State), rerunWith cause s = t →
    t = { s with bld := t.bld, afe := { s.afe with sup := t.afe.sup } }
    ∧ (s.sfc.cfg.vehicle = none → t.bld.mu = 0)
    ∧ (∀ v, s.sfc.cfg.vehicle = some v → t.bld.mu = min 400
        ((match s.rlq.queue with
          | [] => v.mu.unknown
          | g :: _ => g.override.getD (v.mu.get g.condition))
        + if 0 < s.snd.sanded then v.sandBonus else 0))
    ∧ (∀ x, t.bld.fmax.get x = s.vehicle.load.get x * 981 * t.bld.mu / 100000)
    ∧ (∀ x, t.bld.cap.get x = (s.adh.bogie.get x).limit * t.bld.fmax.get x / 1000)
    ∧ (s.sfc.opState ≠ .active → t = { s with bld := { s.bld with
        mu := t.bld.mu, fmax := t.bld.fmax, cap := t.bld.cap } })
    ∧ t.bld.demand = { s.bld.demand with effort := t.bld.demand.effort }
    ∧ (s.sfc.opState = .active → t.bld.demand.effort =
        if s.eblOpen ∧ s.bld.demand.latch = some .loop ∧ t.bld.cap ≠ s.bld.cap
        then t.bld.cap.a + t.bld.cap.t + t.bld.cap.b else s.bld.demand.effort)
    ∧ (s.sfc.opState = .active → s.mode = .emergency →
      t.bld.track = true ∧ t.bld.onTimer = none ∧ t.bld.offTimer = none)
    ∧ (s.sfc.opState = .active →
      s.mode = .coast ∨ s.mode = .drive ∨ (s.mode = .brake ∧ s.bld.demand.permitted = false) →
      t.bld.track = false ∧ t.bld.onTimer = none ∧ t.bld.offTimer = none)
    ∧ (s.sfc.opState = .active → s.mode = .brake → s.bld.demand.permitted = true →
      t.bld.track = s.bld.track
      ∧ (s.bld.track = false → t.bld.offTimer = none
        ∧ t.bld.onTimer = if s.blend.uTb ≤ t.bld.unfulfilled
            then some (s.bld.onTimer.getD (s.clock + 500000)) else none)
      ∧ (s.bld.track = true → t.bld.onTimer = none
        ∧ t.bld.offTimer = if t.bld.unfulfilled = 0
            then some (s.bld.offTimer.getD (s.clock + 1000000)) else none))

/-- R102, R103. -/
def Obligations.RerunDrive : Prop :=
  ∀ (cause : PerBogie AimCause) (s t : State), rerunWith cause s = t → s.sfc.opState = .active →
    (s.mode = .drive →
      (s.hhu.state = .rollbackCatch → t.bld.drive = ⟨0, 0⟩)
      ∧ (s.hhu.state ≠ .rollbackCatch → ∀ dA dB T : Nat,
        dA = min t.bld.cap.a s.blend.driveMax.a → dB = min t.bld.cap.b s.blend.driveMax.b →
        T = min t.bld.demand.effort (dA + dB) →
        t.bld.drive.a = min dA (T - min dB (T / 2)) ∧ t.bld.drive.b = T - t.bld.drive.a
        ∧ t.bld.drive.a + t.bld.drive.b = T ∧ t.bld.drive.a ≤ dA ∧ t.bld.drive.b ≤ dB)
      ∧ t.bld.deficit = t.bld.demand.effort - (t.bld.drive.a + t.bld.drive.b)
      ∧ t.bld.modeDrive = decide (0 < t.bld.drive.a + t.bld.drive.b) ∧ t.bld.modeBrake = false
      ∧ (0 < s.blend.driveMax.a → t.bld.duty.a
          = (2 * (t.bld.drive.a * 1000) + s.blend.driveMax.a) / (2 * s.blend.driveMax.a))
      ∧ (0 < s.blend.driveMax.b → t.bld.duty.b
          = (2 * (t.bld.drive.b * 1000) + s.blend.driveMax.b) / (2 * s.blend.driveMax.b)))
    ∧ (s.mode ≠ .drive → t.bld.drive = ⟨0, 0⟩ ∧ t.bld.deficit = 0 ∧ t.bld.modeDrive = false)
    ∧ (s.mode = .coast → t.bld.duty = ⟨0, 0⟩ ∧ t.bld.modeBrake = false)

/-- R104 to R108; friction never passes the demand less the achieved ED force. -/
def Obligations.RerunBrake : Prop :=
  (∀ edMax vFade vZero v : Nat, vZero + 200 ≤ vFade →
    (vFade ≤ v → fadeCap edMax vFade vZero v = edMax) ∧ (v ≤ vZero → fadeCap edMax vFade vZero v = 0)
    ∧ (vZero < v → v < vFade →
      fadeCap edMax vFade vZero v = edMax * (v - vZero) / (vFade - vZero)))
  ∧ ∀ (cause : PerBogie AimCause) (s t : State), rerunWith cause s = t → s.sfc.opState = .active →
    (s.mode = .coast ∨ s.mode = .drive → t.bld.friction = ⟨0, 0, 0⟩ ∧ t.bld.toPlace = 0
      ∧ t.bld.unfulfilled = 0 ∧ t.bld.ed = ⟨0, 0⟩)
    ∧ (s.mode = .brake ∨ s.mode = .emergency → ∀ (cA cB T eA eB hA hT hB : Nat),
      cA = (if (s.fault (.edFeedback .a)).active then 0 else min t.bld.cap.a
        (fadeCap s.blend.edMax.a s.blend.vFade s.blend.vZero s.ref.speed.natAbs)) →
      cB = (if (s.fault (.edFeedback .b)).active then 0 else min t.bld.cap.b
        (fadeCap s.blend.edMax.b s.blend.vFade s.blend.vZero s.ref.speed.natAbs)) →
      T = min t.bld.demand.effort (cA + cB) →
      eA = (if (s.fault (.edFeedback .a)).active then 0
        else (-((s.afe.chan.force.a.reading).getD 0)).toNat) →
      eB = (if (s.fault (.edFeedback .b)).active then 0
        else (-((s.afe.chan.force.b.reading).getD 0)).toNat) →
      hA = (if s.dumpOpen .a ∨ (s.fault (.pressure .a)).latched then 0 else t.bld.cap.a - eA) →
      hT = (if s.dumpOpen .t ∨ (s.fault (.pressure .t)).latched then 0 else t.bld.cap.t) →
      hB = (if s.dumpOpen .b ∨ (s.fault (.pressure .b)).latched then 0 else t.bld.cap.b - eB) →
      t.bld.ed.a = min cA (T - min cB (T / 2)) ∧ t.bld.ed.a + t.bld.ed.b = T ∧ t.bld.ed.b ≤ cB
      ∧ t.bld.modeBrake = decide (0 < T)
      ∧ t.bld.duty.a = (if s.blend.edMax.a = 0 then 0
          else (2 * (t.bld.ed.a * 1000) + s.blend.edMax.a) / (2 * s.blend.edMax.a))
      ∧ t.bld.duty.b = (if s.blend.edMax.b = 0 then 0
          else (2 * (t.bld.ed.b * 1000) + s.blend.edMax.b) / (2 * s.blend.edMax.b))
      ∧ t.bld.achieved = ⟨eA, eB⟩
      ∧ t.bld.toPlace = t.bld.demand.effort - eA - eB
          - (if t.bld.track then s.blend.fTb.a + s.blend.fTb.b else 0)
      ∧ t.bld.friction.t = min t.bld.toPlace hT
      ∧ t.bld.friction.a + t.bld.friction.b = min (t.bld.toPlace - t.bld.friction.t) (hA + hB)
      ∧ t.bld.friction.a = min hA ((t.bld.friction.a + t.bld.friction.b)
          - min hB ((t.bld.friction.a + t.bld.friction.b) / 2))
      ∧ t.bld.friction.b ≤ hB
      ∧ t.bld.unfulfilled
          = t.bld.toPlace - (t.bld.friction.a + t.bld.friction.t + t.bld.friction.b)
      ∧ t.bld.friction.a + t.bld.friction.t + t.bld.friction.b ≤ t.bld.demand.effort - eA - eB)

/-- R112 to R115: targets, aims and the value of a ramp; that a re-run in ACTIVE aims every output at its
target as it then stands, from its value before; the completion of a ramp. The clause on a closing
valve reads R114 and R172 as log 40 says. -/
def Obligations.PressureOutputs : Prop :=
  (∀ (s : State) (x : Bogie), target s x = if s.dumpOpen x then 0 else
    max (min (s.blend.pMax.get x)
      ((2 * (s.bld.friction.get x * 100) + s.blend.k.get x) / (2 * s.blend.k.get x))) (s.floor x))
  ∧ (∀ (jerk start aim : Nat) (now since : Time),
    (start ≤ aim → Output.value jerk now (.ramp start since aim)
      = min aim (start + jerk * (now - since).toNat / 1000))
    ∧ (aim < start → Output.value jerk now (.ramp start since aim)
      = max aim (start - jerk * (now - since).toNat / 1000)))
  ∧ (∀ (x : Bogie) (goal : Nat) (s : State), s.bld.out.get x ≠ .absent →
    ((s.bld.out.get x).aim = goal → aimOutput .plain x goal s = s)
    ∧ ((s.bld.out.get x).aim ≠ goal → s.pressure x ≠ goal →
      ¬ (s.mode = .emergency ∧ s.pressure x < goal) →
      (aimOutput .plain x goal s).bld.out.get x = .ramp (s.pressure x) s.nowMs goal
      ∧ ((aimOutput .plain x goal s).afe.sup.get x).moving = true)
    ∧ ((s.bld.out.get x).aim ≠ goal → s.mode = .emergency → s.pressure x < goal →
      (aimOutput .plain x goal s).bld.out.get x = .steady goal)
    ∧ (s.pressure x < goal → (aimOutput .caught x goal s).bld.out.get x = .steady goal)
    ∧ ((s.bld.out.get x).aim ≠ goal → s.pressure x ≠ goal →
      (aimOutput .valveClosed x goal s).bld.out.get x = .ramp (s.pressure x) s.nowMs goal))
  ∧ (∀ (cause : PerBogie AimCause) (s t : State), rerunWith cause s = t → s.sfc.opState = .active → ∀ x,
    t.bld.out.get x = (aimOutput (cause.get x) x (target t x) s).bld.out.get x
    ∧ t.afe.sup.get x = (aimOutput (cause.get x) x (target t x) s).afe.sup.get x)
  ∧ ∀ (x : Bogie) (start aim : Nat) (since : Time) (s : State),
    s.bld.out.get x = .ramp start since aim → s.pressure x = aim →
    exec (.pressureRampCompletion x) s = .next { s with
      bld := { s.bld with out := s.bld.out.set x (.steady aim) }
      afe := { s.afe with sup := s.afe.sup.set x { s.afe.sup.get x with
        moving := false, steady := .running (s.clock + 300000) } } }

/-! REF (R31, R35, R38, R39) -/

/-- R31: the request at its taking; the pending return it may bring is taken at the next arrival. R35, R68,
R181: the HELD timer expires. R38, R39: the standstill confirm expires; HHU enters HOLDING with the levels of
R121 as floors, or with the catch floors as levels (R123, R134), and judges the take-up condition (R124). -/
def Obligations.ReferenceSelectAndTimers : Prop :=
  (∀ (tag mode : Byte) (s : State), accepts s →
     (2 ≤ mode.toNat →
       answersOnly (.referenceSelect tag mode) .referenceSelect tag (.refusedRange 1) s)
     ∧ (mode = 1 → s.sfc.cfg.ground = none →
       answersOnly (.referenceSelect tag mode) .referenceSelect tag .refusedState s)
     ∧ (mode = 1 → s.sfc.cfg.ground ≠ none → s.ref.active = .groundSensor →
       answersOnly (.referenceSelect tag mode) .referenceSelect tag (.ok []) s)
     ∧ (mode = 1 → s.sfc.cfg.ground ≠ none → s.ref.active ≠ .groundSensor →
       exec (.referenceSelect tag mode) s = .next { withReply .referenceSelect tag .pending s with
         ref := { s.ref with requested := .groundSensor, engage := 0 } })
     ∧ (mode = 0 → exec (.referenceSelect tag mode) s
         = .next { withReply .referenceSelect tag (.ok []) s with
           ref := { s.ref with
             requested := .axleFused, engage := 0
             prior := if s.ref.active = .standstill then .axleFused else s.ref.prior } }))
  ∧ (∀ s : State, s.ref.active = .held → s.expired s.ref.heldTimer = true →
    ∃ t, exec .heldTimerExpiry s = .next t
      ∧ t.ref = { s.ref with
          active := .lost, heldTimer := none, resync := PerAxle.of fun _ => 0 }
      ∧ (t.fault .referenceLost).active = true
      ∧ (∀ id, id ≠ .referenceLost → t.fault id = s.fault id)
      ∧ reported (.referenceMode .lost .held s.ref.requested s.ref.speed s.nowMs) t
      ∧ t.wsc = s.wsc ∧ t.hhu = s.hhu ∧ t.rlq = s.rlq ∧ t.sfc.opState = s.sfc.opState
      ∧ (s.sfc.opState ≠ .active → t.adh = s.adh ∧ t.sfc.refLostTimer = s.sfc.refLostTimer
        ∧ t.snd = s.snd ∧ t.bld = s.bld)
      ∧ (s.sfc.opState = .active → t.sfc.refLostTimer = some (s.clock + 5000000)
        ∧ t.adh.bogie.a = { s.adh.bogie.a with limit := s.adhesion.floor, residual := 0 }
        ∧ t.adh.bogie.b = { s.adh.bogie.b with limit := s.adhesion.floor, residual := 0 }
        ∧ t.adh.bogie.t = s.adh.bogie.t
        ∧ (∀ x, t.adh.axle.get x = if s.unwatched x then { s.adh.axle.get x with recover := 0 }
            else ⟨.grip, 0⟩)
        ∧ adhesionRequests 3 0 s t))
  ∧ ∀ s : State, s.confirmExpired s.ref.confirm = true →
    (s.ref.active = .standstill ∨ 100 < s.ref.speed.natAbs → exec .standstillConfirmExpiry s
      = .next { s with ref := { s.ref with confirm := .complete } })
    ∧ (s.ref.active ≠ .standstill → s.ref.speed.natAbs ≤ 100 →
      ∃ t, exec .standstillConfirmExpiry s = .next t
        ∧ t.ref = { s.ref with
            active := .standstill
            prior := if s.ref.active = .groundSensor then .groundSensor else .axleFused
            speed := 0, accel := 0, heldTimer := none, confirm := .stopped }
        ∧ t.fault .referenceLost = (if s.ref.active = .lost
            then { s.fault .referenceLost with active := false } else s.fault .referenceLost)
        ∧ reported (.referenceMode .standstill s.ref.active s.ref.requested 0 s.nowMs) t
        ∧ t.sfc.refLostTimer = (if s.ref.active = .lost then none else s.sfc.refLostTimer)
        ∧ t.wsc = s.wsc ∧ t.adh = s.adh ∧ t.rlq = s.rlq ∧ t.sfc.opState = s.sfc.opState
        ∧ standstillAtHillHold s.rlq s t)

/-- R26, R28 to R30, R34: the candidate, the rate-limited step and the extrapolation; R27, R36, R37, R40 to
R43: the update an axle arrival makes in each mode (`next` before the odometry step), and its REFERENCE MODE
report; R39: the entry to STANDSTILL an update ends in, with its report and HHU's taking of it; R181: the
reference-lost timer. The model's readings: log 17 of the speed a report carries, log 18 of the update time where
GROUND-SENSOR is resumed, log 46 of a reference at 0. -/
def Obligations.ReferenceAxleArrival : Prop :=
  (∀ (cfg : Adhesion) (dir v a : Int) (dt up down : Nat) (r : Ref),
    up = max 1 (cfg.up * dt / 1000) → down = max 1 (cfg.down * dt / 1000) →
    moveReference cfg dir dt v a r = { r with
      speed := max (r.speed * dir - down) (min (r.speed * dir + up) (v * dir)) * dir
      accel := if r.speed * dir + up < v * dir then cfg.up * dir
        else if v * dir < r.speed * dir - down then -cfg.down * dir
        else max (-(cfg.down : Int)) (min cfg.up (a * dir)) * dir })
  ∧ (∀ (dir rp moved : Int) (dt : Nat) (r : Ref), rp = r.speed * dir →
    moved = (if 0 < r.heldAccel * dir then rp + (r.heldAccel.natAbs * dt / 1000 : Nat)
      else rp - (r.heldAccel.natAbs * dt / 1000 : Nat)) →
    ((rp < 0 ∧ 0 < moved) ∨ (0 < rp ∧ moved < 0) →
      extrapolate dir dt r = { r with speed := 0, accel := r.heldAccel })
    ∧ (¬ ((rp < 0 ∧ 0 < moved) ∨ (0 < rp ∧ moved < 0)) →
      extrapolate dir dt r = { r with
        speed := max (-30000) (min 30000 moved) * dir, accel := r.heldAccel }))
  ∧ (∀ (s : State) (now : Time) (group : Axle → Prop),
    (∀ y, group y ↔
      (drives s ∧ (∃ z q, (z = .t1 ∨ z = .t2) ∧ qualifies s now z q) ∧ (y = .t1 ∨ y = .t2))
      ∨ (¬ (drives s ∧ ∃ z q, (z = .t1 ∨ z = .t2) ∧ qualifies s now z q)
        ∧ (s.adhState y = .grip ∨ s.adhState y = .creep))) →
    (candidate s now = none ↔ ∀ y q, qualifies s now y q → ¬ group y)
    ∧ ∀ c, candidate s now = some c → ∃ y, qualifies s now y c ∧ group y
      ∧ ∀ z q, qualifies s now z q → group z →
        (drives s → c.v.natAbs ≤ q.v.natAbs ∧ (z.number < y.number → c.v.natAbs < q.v.natAbs))
        ∧ (¬ drives s → q.v.natAbs ≤ c.v.natAbs ∧ (z.number < y.number → q.v.natAbs < c.v.natAbs)))
  ∧ ∀ (x : Axle) (p : Sample) (s t : State) (dir : Int) (dt : Nat) (k : Confirm) (r : Ref),
    refArrival x p s = t → (s.wsc.axle.get x).latest = some p →
    dir = (if s.travel = .forward then 1 else -1) →
    dt = (match s.ref.updateTime with
      | none => 0
      | some u => (p.endTime - u).toNat / 1000) →
    r = { s.ref with updateTime := some (match s.ref.updateTime with
      | none => p.endTime
      | some u => u + BitVec.ofNat 32 (dt * 1000)) } →
    ((∃ y q, qualifies s p.endTime y q)
        ∧ (∀ y q, qualifies s p.endTime y q → q.flags.standstill = true) →
      k = (match s.ref.confirm with
        | .stopped => .running (s.clock + 500000)
        | .running due => .running due
        | .complete => .complete)) →
    (¬ ((∃ y q, qualifies s p.endTime y q)
        ∧ (∀ y q, qualifies s p.endTime y q → q.flags.standstill = true)) → k = .stopped) →
    t.wsc = s.wsc ∧ t.sfc.cfg = s.sfc.cfg ∧ t.sfc.opState = s.sfc.opState ∧ t.adh = s.adh
    ∧ (s.sfc.opState ≠ .active ∧ s.sfc.opState ≠ .failsafe → t = s)
    ∧ (s.sfc.opState = .active ∨ s.sfc.opState = .failsafe →
      (s.ref.active = .groundSensor → s.ref.requested = .groundSensor →
        t = { s with ref := { s.ref with confirm := k } })
      ∧ (¬ (s.ref.active = .groundSensor ∧ s.ref.requested = .groundSensor) → ∃ next : Ref,
        t.ref = (if s.ref.active = .standstill then travelled dt next else restsAt (travelled dt next))
        ∧ (next.active ≠ s.ref.active → s.ref.active ≠ .groundSensor → s.ref.active ≠ .standstill →
          reported (.referenceMode next.active s.ref.active s.ref.requested next.speed s.nowMs) t)
        ∧ (∀ rests : Prop, (rests ↔ s.ref.active ≠ .standstill ∧ next.confirm = .complete
            ∧ next.speed.natAbs ≤ 100) →
          (rests → reported (.referenceMode .standstill next.active s.ref.requested 0 s.nowMs) t
            ∧ standstillAtHillHold t.rlq s t)
          ∧ (¬ rests → t.hhu = s.hhu))
        ∧ (s.ref.active ≠ .lost → t.sfc.refLostTimer = s.sfc.refLostTimer)
        ∧ (∀ m : Int, m = (s.ref.residual + next.speed * dt).tdiv 1000 * dir →
          t.rlq = if m = 0 then s.rlq else (routeDistance m s).rlq)
        ∧ (s.ref.active = .axleFused →
          (∀ c, candidate s p.endTime = some c →
            next = moveReference s.adhesion dir dt c.v c.a { r with confirm := k })
          ∧ (candidate s p.endTime = none → next = extrapolate dir dt { r with
              confirm := k, active := .held
              heldAccel := max (-s.adhesion.hold) (min s.adhesion.hold s.ref.accel)
              heldTimer := some (s.clock + s.adhesion.heldTimeout * 1000) }))
        ∧ (s.ref.active = .held →
          (∀ c, candidate s p.endTime = some c → next = moveReference s.adhesion dir dt c.v c.a
            { r with confirm := k, active := .axleFused, heldTimer := none })
          ∧ (candidate s p.endTime = none → next = extrapolate dir dt { r with confirm := k }))
        ∧ (s.ref.active = .groundSensor → ∀ u : Ref, u = { r with confirm := k, active := .axleFused } →
          (∀ c, candidate s p.endTime = some c → next = moveReference s.adhesion dir dt c.v c.a u
            ∧ reported (.referenceMode .axleFused .groundSensor .axleFused next.speed s.nowMs) t)
          ∧ (candidate s p.endTime = none → next = extrapolate dir dt { u with
              active := .held
              heldAccel := max (-s.adhesion.hold) (min s.adhesion.hold s.ref.accel)
              heldTimer := some (s.clock + s.adhesion.heldTimeout * 1000) }
            ∧ reported (.referenceMode .axleFused .groundSensor .axleFused next.speed s.nowMs) t
            ∧ reported (.referenceMode .held .axleFused .axleFused next.speed s.nowMs) t))
        ∧ (s.ref.active = .lost → ∀ (n : Nat) (ends : Axle → Sample → Prop),
          ((∃ y q, y ≠ x ∧ qualifies s p.endTime x p ∧ qualifies s p.endTime y q
              ∧ (p.v - q.v).natAbs * 1000 ≤ 20 * max p.v.natAbs q.v.natAbs) →
            n = min 3 (s.ref.resync.get x + 1)) →
          (¬ (∃ y q, y ≠ x ∧ qualifies s p.endTime x p ∧ qualifies s p.endTime y q
              ∧ (p.v - q.v).natAbs * 1000 ≤ 20 * max p.v.natAbs q.v.natAbs) → n = 0) →
          (∀ y q, ends y q ↔ n = 3 ∧ y ≠ x ∧ qualifies s p.endTime y q ∧ s.ref.resync.get y = 3
            ∧ (p.v - q.v).natAbs * 1000 ≤ 20 * max p.v.natAbs q.v.natAbs) →
          ((∀ y q, ¬ ends y q) → t.fault .referenceLost = (if next.confirm = .complete
                ∧ next.speed.natAbs ≤ 100
              then { s.fault .referenceLost with active := false } else s.fault .referenceLost)
            ∧ t.sfc.refLostTimer = (if next.confirm = .complete ∧ next.speed.natAbs ≤ 100
              then none else s.sfc.refLostTimer)
            ∧ next = { r with confirm := k, accel := 0, resync := s.ref.resync.set x n })
          ∧ ∀ y q, ends y q → (∀ z w, ends z w → y.number ≤ z.number) →
            t.sfc.refLostTimer = none
            ∧ t.fault .referenceLost = { s.fault .referenceLost with active := false }
            ∧ ∃ c, (c = p ∨ c = q)
              ∧ (drives s → c.v.natAbs = min p.v.natAbs q.v.natAbs)
              ∧ (¬ drives s → c.v.natAbs = max p.v.natAbs q.v.natAbs)
              ∧ next = moveReference s.adhesion dir dt c.v c.a
                { r with confirm := k, active := .axleFused, resync := s.ref.resync.set x n })
        ∧ (s.ref.active = .standstill →
          (¬ (qualifies s p.endTime x p ∧ 100 ≤ p.v.natAbs ∧ p.flags.standstill = false) →
            next = { r with speed := 0, accel := 0 }
            ∧ (s.ref.residual.natAbs < 1000 → t.lnk = s.lnk))
          ∧ (qualifies s p.endTime x p → 100 ≤ p.v.natAbs → p.flags.standstill = false →
            ∀ available : Prop, (available ↔ s.ref.prior = .groundSensor
              ∧ s.ref.requested = .groundSensor ∧ s.ref.engage = 5 ∧ ∃ q, s.wsc.ground.latest = some q
                ∧ q.flags.invalid = false ∧ q.flags.implausible = false) →
            (available → next = { r with active := .groundSensor }
              ∧ reported (.referenceMode .groundSensor .standstill s.ref.requested next.speed s.nowMs) t)
            ∧ (¬ available → reported
                (.referenceMode .axleFused .standstill s.ref.requested next.speed s.nowMs) t
              ∧ (∀ c, candidate s p.endTime = some c →
                next = moveReference s.adhesion dir dt c.v c.a { r with active := .axleFused })
              ∧ (candidate s p.endTime = none → next = extrapolate dir dt { r with
                  active := .held
                  heldAccel := max (-s.adhesion.hold) (min s.adhesion.hold s.ref.accel)
                  heldTimer := some (s.clock + s.adhesion.heldTimeout * 1000) }
                ∧ reported (.referenceMode .held .axleFused s.ref.requested next.speed s.nowMs) t))))))

/-- R31 to R33, R39, R41: a ground sample arrives at REF; where its update ends in STANDSTILL, the report of that
change and HHU's taking of it. -/
def Obligations.ReferenceGroundArrival : Prop :=
  ∀ (p : Sample) (s t : State) (valid : Bool) (n : Nat) (left : Ref), refGround p s = t →
    valid = (!p.flags.invalid && !p.flags.implausible) →
    n = (if s.ref.requested = .axleFused then 0 else if valid then min 5 (s.ref.engage + 1) else 0) →
    left = { s.ref with active := .axleFused, engage := 0 } →
    (s.sfc.opState ≠ .active ∧ s.sfc.opState ≠ .failsafe → t = s)
    ∧ (s.sfc.opState = .active ∨ s.sfc.opState = .failsafe →
      (s.ref.active = .groundSensor → s.ref.requested = .axleFused ∨ p.flags.invalid = true →
        t = { s with ref := left, lnk := t.lnk }
        ∧ reported (.referenceMode .axleFused .groundSensor s.ref.requested s.ref.speed s.nowMs) t)
      ∧ (s.ref.active = .groundSensor → s.ref.requested = .groundSensor → p.flags.invalid = false →
        p.flags.implausible = true → t = { s with ref := { s.ref with engage := 0 } })
      ∧ ((s.ref.active = .groundSensor ∧ s.ref.requested = .groundSensor ∧ valid = true)
          ∨ (s.ref.active = .axleFused ∧ s.ref.requested = .groundSensor ∧ valid = true ∧ n = 5) →
        ∀ (dir : Int) (dt : Nat), dir = (if s.travel = .forward then 1 else -1) →
        dt = (match s.ref.updateTime with
          | none => 0
          | some u => (p.endTime - u).toNat / 1000) →
        ∃ next : Ref, t.ref = restsAt (travelled dt next)
          ∧ next = moveReference s.adhesion dir dt p.v p.a { s.ref with
              active := .groundSensor, engage := n
              updateTime := some (match s.ref.updateTime with
                | none => p.endTime
                | some u => u + BitVec.ofNat 32 (dt * 1000)) }
          ∧ (s.ref.active = .axleFused → reported
              (.referenceMode .groundSensor .axleFused .groundSensor next.speed s.nowMs) t)
          ∧ (next.confirm = .complete ∧ next.speed.natAbs ≤ 100 →
            reported (.referenceMode .standstill .groundSensor s.ref.requested 0 s.nowMs) t
            ∧ standstillAtHillHold t.rlq s t)
          ∧ (¬ (next.confirm = .complete ∧ next.speed.natAbs ≤ 100) → t.hhu = s.hhu)
          ∧ (∀ m : Int, m = (s.ref.residual + next.speed * dt).tdiv 1000 * dir →
            t.rlq = if m = 0 then s.rlq else (routeDistance m s).rlq)
          ∧ t.wsc = s.wsc ∧ t.adh = s.adh ∧ t.sfc = { s.sfc with faults := t.sfc.faults }
          ∧ ∀ id, (∀ e, id ≠ .sandEmpty e) → t.fault id = s.fault id)
      ∧ (s.ref.active = .axleFused → ¬ (s.ref.requested = .groundSensor ∧ valid = true ∧ n = 5) →
        t = { s with ref := { s.ref with engage := n } })
      ∧ (s.ref.active = .held ∨ s.ref.active = .lost ∨ s.ref.active = .standstill →
        t = { s with ref := { s.ref with engage := n } }))

/-! WSC (R3 to R22) -/

/-- R3, R12: an edge, the channel it reaches and its direction; what it does to the window in flight; and the
fall of the valid line. The model's choices: the names of an axle's two sensor lines by the phase order of
FORWARD, an edge being whether its line rises and the level beside it (log 11), that a count past 65,535 is a
free value (log 12), and that the level of the valid line after a drop is an operand (log 10). -/
def Obligations.SensorEdges : Prop :=
  (∀ (line : SensorLine) (edge : LineEdge) (c : Chan) (dir : Direction) (s : State),
    (c = match line with
      | .lead x => .axle x
      | .lag x => .axle x
      | .pulse => .ground) →
    (dir = match line, edge with
      | .lead _, ⟨true, false⟩ => .forward
      | .lag _, ⟨true, true⟩ => .forward
      | .lead _, ⟨false, true⟩ => .forward
      | .lag _, ⟨false, false⟩ => .forward
      | .lag _, ⟨true, false⟩ => .reverse
      | .lead _, ⟨true, true⟩ => .reverse
      | .lag _, ⟨false, true⟩ => .reverse
      | .lead _, ⟨false, false⟩ => .reverse
      | .pulse, ⟨_, true⟩ => .forward
      | .pulse, ⟨_, false⟩ => .reverse) →
    ((s.wsc.get c).state = .unset → exec (.speedSensorEdge line edge) s = .next s)
    ∧ ∀ w : Window, (s.wsc.get c).state = .measuring w →
      ((dir = .forward → w.forward < 65535) → (dir = .reverse → w.reverse < 65535) →
        exec (.speedSensorEdge line edge) s = .next { s with wsc := s.wsc.set c { s.wsc.get c with
          state := .measuring { w with
            forward := if dir = .forward then w.forward + 1 else w.forward
            reverse := if dir = .reverse then w.reverse + 1 else w.reverse
            first := some (w.first.getD s.nowUs), last := some s.nowUs } } })
      ∧ ∃ (n : Nat) (t : State), exec (.speedSensorEdge line edge) s = .next t
        ∧ (t.wsc.get c).state = .measuring { w with
          forward := if dir = .forward then n else w.forward
          reverse := if dir = .reverse then n else w.reverse
          first := some (w.first.getD s.nowUs), last := some s.nowUs }
        ∧ t = { s with wsc := t.wsc, free := t.free } ∧ ∀ d, d ≠ c → t.wsc.get d = s.wsc.get d)
  ∧ ∀ (low : Bool) (s : State),
    (s.wsc.ground.state = .unset →
      exec (.groundValidLineDrop low) s = .next { s with groundLow := low })
    ∧ ∀ w, s.wsc.ground.state = .measuring w →
      exec (.groundValidLineDrop low) s = .next { s with
        groundLow := low
        wsc := { s.wsc with ground := { s.wsc.ground with state := .measuring { w with drop := true } } } }

/-- R4, R5, R14 to R19: a window period expires. `v` is the state after the channel's own work, in which the
next window is open (log 35); the readers then take the arrival in some order. Which ground sample carries
INVALID for an active GROUND record is log 16's reading: the one that closes while the record stands active.
That each reader takes the arrival whole, with all its consequences, before the next is the model's choice
(log 4); that SFC judges the axles within ADH's taking, `adhArrivalJudged`, is its reading (log 33). `sampleOf`
gives the sample its speed and acceleration as SampleFormulas says (R9 to R13). -/
def Obligations.WindowPeriodExpires : Prop :=
  ∀ (c : Chan) (w : Window) (s : State), (s.wsc.get c).state = .measuring w → w.due ≤ s.clock →
    (w.forward + w.reverse < 2 → w.periods < 4 →
      exec (.windowPeriodExpiry c) s = .next { s with wsc := s.wsc.set c { s.wsc.get c with
        state := .measuring { w with
          periods := w.periods + 1, due := s.clock + s.windowMs c * 1000 } } })
    ∧ (2 ≤ w.forward + w.reverse ∨ 4 ≤ w.periods → ∃ (t v : State) (p : Sample) (dead raised : Bool),
      exec (.windowPeriodExpiry c) s = .next t
      ∧ p = sampleOf s c w (windowOutcome w.forward w.reverse w.periods)
      ∧ v = { s with
          wsc := v.wsc, sfc := { s.sfc with faults := v.sfc.faults }, lnk := v.lnk, free := v.free }
      ∧ (∀ x, c = .axle x → ∃ readers : List (State → State), t = inOrder readers v ∧ readers.Perm
        [refArrival x p, adhArrivalJudged x p raised, tripArrival x p, hillArrival x p])
      ∧ (c = .ground → t = refGround p v) ∧ t.wsc = v.wsc
      ∧ (dead = true ↔ ∃ x q, c = .axle x ∧ p.flags.standstill = true
        ∧ (s.wsc.axle.get x.partner).latest = some q ∧ q.flags.implausible = false
        ∧ q.flags.overrange = false ∧ 2000 ≤ q.v.natAbs)
      ∧ (v.wsc.get c).dead = (if dead then min 3 ((s.wsc.get c).dead + 1) else 0)
      ∧ (v.wsc.get c).healthy = (if p.flags.implausible = false ∧ dead = false
          then min 3 ((s.wsc.get c).healthy + 1) else 0)
      ∧ (∀ id, id = (match c with
          | .axle x => FaultId.sensor x
          | .ground => FaultId.ground) →
        (raised = true ↔ (s.fault id).active = false
          ∧ ((v.wsc.get c).implausible = 3 ∨ (v.wsc.get c).dead = 3))
        ∧ (raised = true → v.fault id = {
            active := true, latched := true, count := min 255 ((s.fault id).count + 1)
            firstTime := if (s.fault id).count = 0 then s.nowMs else (s.fault id).firstTime
            lastTime := s.nowMs }
          ∧ reported (.faultRaised id (v.fault id)) v)
        ∧ (raised = false → v.lnk = s.lnk ∧ v.fault id = { s.fault id with
            active := (s.fault id).active && decide ((v.wsc.get c).healthy ≠ 3) })
        ∧ ∀ j, j ≠ id → v.fault j = s.fault j)
      ∧ (t.wsc.get c).latest = some p ∧ (t.wsc.get c).prev = some ⟨p.v, p.endTime⟩
      ∧ (t.wsc.get c).seq = (s.wsc.get c).seq + 1
      ∧ (t.wsc.get c).implausible
          = (if p.flags.implausible then min 3 ((s.wsc.get c).implausible + 1) else 0)
      ∧ (t.wsc.get c).diameter = (s.wsc.get c).diameter
      ∧ (t.wsc.get c).isolated = (s.wsc.get c).isolated
      ∧ (t.wsc.get c).circ = ((s.wsc.get c).pendingCirc <|> (s.wsc.get c).circ)
      ∧ (t.wsc.get c).pendingCirc = none
      ∧ (∃ n, (t.wsc.get c).state = .measuring n ∧ n.forward = 0 ∧ n.reverse = 0 ∧ n.first = none
        ∧ n.last = none ∧ n.periods = 1 ∧ n.due = s.clock + s.windowMs c * 1000)
      ∧ (∀ d, d ≠ c → t.wsc.get d = s.wsc.get d) ∧ t.sfc.cfg = s.sfc.cfg ∧ t.eblOpen = s.eblOpen
      ∧ p.seq = (s.wsc.get c).seq ∧ p.net = (w.forward : Int) - w.reverse
      ∧ p.duration = w.periods * s.windowMs c * 1000 ∧ p.windows = w.periods ∧ p.endTime = s.nowUs
      ∧ p.flags.standstill = decide (w.forward + w.reverse < 2)
      ∧ p.flags.reversal = decide (0 < w.forward ∧ 0 < w.reverse ∧ 2 ≤ w.forward + w.reverse)
      ∧ p.flags.stretched = decide (2 ≤ w.periods)
      ∧ p.flags.implausible = decide (s.adhesion.implausible < p.a.natAbs)
      ∧ p.flags.isolated = (s.wsc.get c).isolated
      ∧ p.flags.invalid = (decide (c = .ground) && (w.drop || (s.fault .ground).active))
      ∧ (w.forward + w.reverse < 2 → p.v = 0)
      ∧ ((s.wsc.get c).prev = none → p.a = 0) ∧ p.v.natAbs ≤ 30000 ∧ p.a.natAbs ≤ 32000)

/-- R6, R8 to R13: the quotients and their roundings, for wheels and for the ground sensor, and the sample's
speed and acceleration from them. -/
def Obligations.SampleFormulas : Prop :=
  (circumference 6800 = 2136288 ∧ circumference 6000 = 1884960 ∧ circumference 7400 = 2324784
    ∧ ∀ d, circumference d = (2 * (d * 31416) + 100) / 200)
  ∧ (∀ (circ teeth span : Nat) (net : Int), 0 < teeth → 0 < span → net ≠ 0 →
    ∃ q : Nat, oneWaySpeed (.wheel circ teeth) net span = net.sign * q
      ∧ 2 * q * (4 * teeth * span) ≤ 2 * ((net.natAbs - 1) * circ * 1000) + 4 * teeth * span
      ∧ 2 * ((net.natAbs - 1) * circ * 1000) + 4 * teeth * span < 2 * (q + 1) * (4 * teeth * span))
  ∧ (∀ (circ teeth duration : Nat) (net : Int), 0 < teeth → 0 < duration →
    ∃ q : Nat, reversalSpeed (.wheel circ teeth) net duration = net.sign * q
      ∧ 2 * q * (4 * teeth * duration) ≤ 2 * (net.natAbs * circ * 1000) + 4 * teeth * duration
      ∧ 2 * (net.natAbs * circ * 1000) + 4 * teeth * duration < 2 * (q + 1) * (4 * teeth * duration))
  ∧ (∀ (e span : Nat) (net : Int), 0 < span → net ≠ 0 →
    ∃ q : Nat, oneWaySpeed (.ground e) net span = net.sign * q
      ∧ 2 * q * span ≤ 2 * ((net.natAbs - 1) * e * 1000) + span
      ∧ 2 * ((net.natAbs - 1) * e * 1000) + span < 2 * (q + 1) * span)
  ∧ (∀ (e duration : Nat) (net : Int), 0 < duration →
    ∃ q : Nat, reversalSpeed (.ground e) net duration = net.sign * q
      ∧ 2 * q * duration ≤ 2 * (net.natAbs * e * 1000) + duration
      ∧ 2 * (net.natAbs * e * 1000) + duration < 2 * (q + 1) * duration)
  ∧ (∀ raw : Int, (raw.natAbs ≤ 30000 → clampSpeed raw = raw ∧ overrange raw = false)
    ∧ (30000 < raw → clampSpeed raw = 30000 ∧ overrange raw = true)
    ∧ (raw < -30000 → clampSpeed raw = -30000 ∧ overrange raw = true))
  ∧ (∀ (s : State) (c : Chan) (w : Window) (o : WindowOutcome) (span duration : Nat) (net raw : Int),
    net = (w.forward : Int) - w.reverse → duration = w.periods * s.windowMs c * 1000 →
    span = (match w.first, w.last with
      | some first, some last => max 1 (last - first).toNat
      | _, _ => 1) →
    raw = (match o with
      | .oneWay => oneWaySpeed w.scale net span
      | .bothWays => reversalSpeed w.scale net duration
      | .atRest => 0
      | .stretch => 0) →
    (sampleOf s c w o).v = clampSpeed raw ∧ (sampleOf s c w o).flags.overrange = overrange raw
    ∧ (sampleOf s c w o).a = accelOf (s.wsc.get c).prev (clampSpeed raw) s.nowUs)
  ∧ ∀ (v : Int) (now : Time), accelOf none v now = 0
    ∧ ∀ m : Prev, accelOf (some m) v now
      = max (-32000) (min 32000 (Int.tdiv ((v - m.v) * 1000000) ((now - m.endTime).toNat : Int)))

/-- R7. -/
def Obligations.WheelTrim : Prop :=
  ∀ (tag axle : Byte) (diameter : BitVec 16) (s : State), accepts s →
    (6 ≤ axle.toNat →
      answersOnly (.wheelTrim tag axle diameter) .wheelTrim tag (.refusedRange 1) s)
    ∧ ∀ x, Axle.ofNumber? axle.toNat = some x →
      (diameter.toNat < 6000 ∨ 7400 < diameter.toNat →
        answersOnly (.wheelTrim tag axle diameter) .wheelTrim tag (.refusedRange 2) s)
      ∧ (6000 ≤ diameter.toNat → diameter.toNat ≤ 7400 →
        ((s.wsc.axle.get x).state = .unset →
          answersOnly (.wheelTrim tag axle diameter) .wheelTrim tag .refusedState s)
        ∧ ((s.wsc.axle.get x).state ≠ .unset → s.adhState x = .slip ∨ s.adhState x = .recover →
          answersOnly (.wheelTrim tag axle diameter) .wheelTrim tag .refusedBusy s)
        ∧ ((s.wsc.axle.get x).state ≠ .unset → s.adhState x ≠ .slip → s.adhState x ≠ .recover →
          exec (.wheelTrim tag axle diameter) s = .next { withReply .wheelTrim tag (.ok []) s with
            wsc := s.wsc.set (.axle x) { s.wsc.axle.get x with
              diameter := some diameter.toNat
              pendingCirc := some (circumference diameter.toNat) } }))

/-- R20, R53, R56, R65, R66, R68, R181. That nothing of the bogie's record but its limit changes, the ramp
residual being kept through the hold of R65, is the model's reading (log 43). -/
def Obligations.AxleIsolate : Prop :=
  ∀ (tag axle : Byte) (s : State), accepts s →
    (6 ≤ axle.toNat → answersOnly (.axleIsolate tag axle) .axleIsolate tag (.refusedRange 1) s)
    ∧ ∀ x, Axle.ofNumber? axle.toNat = some x →
      ((s.wsc.axle.get x).isolated = true →
        answersOnly (.axleIsolate tag axle) .axleIsolate tag (.ok []) s)
      ∧ ((s.wsc.axle.get x).isolated = false → ∃ t, exec (.axleIsolate tag axle) s = .next t
        ∧ replied .axleIsolate tag (.ok []) t
        ∧ t.wsc = s.wsc.set (.axle x) { s.wsc.axle.get x with
            isolated := true, prev := none, implausible := 0, dead := 0, healthy := 0 }
        ∧ t.adh.axle.get x = ⟨.isolated, 0⟩
        ∧ (∃ limit low, reported (.axleState (.axle x) .isolated .isolated (s.adhState x) 0 limit low
            s.nowMs) t)
        ∧ t.ref = s.ref ∧ t.rlq = s.rlq ∧ t.afe.chan = s.afe.chan ∧ t.sfc.cfg = s.sfc.cfg
        ∧ (∀ id, (∀ e, id ≠ .sandEmpty e) → t.fault id = s.fault id)
        ∧ (s.sfc.opState = .active → (∀ y, y ≠ x → s.unwatched y = true) →
          t.sfc.opState = .failsafe)
        ∧ (s.sfc.opState ≠ .active ∨ (∃ y, y ≠ x ∧ s.unwatched y = false) →
          t.sfc.opState = s.sfc.opState
          ∧ (∀ y, y ≠ x → t.adh.axle.get y = s.adh.axle.get y)
          ∧ (∀ y, y ≠ x.bogie → t.adh.bogie.get y = s.adh.bogie.get y)
          ∧ t.adh.bogie.get x.bogie = { s.adh.bogie.get x.bogie with
              limit := (t.adh.bogie.get x.bogie).limit }
          ∧ (s.sfc.opState = .active ∧ isUnsupervised t x.bogie
              ∧ ¬ (s.ref.active = .lost ∧ x.bogie ≠ .t) →
            (t.adh.bogie.get x.bogie).limit = if x.bogie = .t then s.adhesion.unsup
              else min (s.adh.bogie.get x.bogie).limit s.adhesion.unsup)
          ∧ (s.sfc.opState ≠ .active ∨ ¬ isUnsupervised t x.bogie
              ∨ (s.ref.active = .lost ∧ x.bogie ≠ .t) →
            (t.adh.bogie.get x.bogie).limit = (s.adh.bogie.get x.bogie).limit)
          ∧ reported (.axleState (.axle x) .isolated .isolated (s.adhState x) 0
              (t.adh.bogie.get x.bogie).limit (t.adh.bogie.get x.bogie).low s.nowMs) t))

/-- R21, R53, R67, R186. -/
def Obligations.AxleRestore : Prop :=
  ∀ (tag axle : Byte) (s : State), accepts s →
    (6 ≤ axle.toNat → answersOnly (.axleRestore tag axle) .axleRestore tag (.refusedRange 1) s)
    ∧ ∀ x, Axle.ofNumber? axle.toNat = some x →
      ((s.fault (.sensor x)).active = true →
        answersOnly (.axleRestore tag axle) .axleRestore tag .stillActive s)
      ∧ ((s.fault (.sensor x)).active = false → (s.wsc.axle.get x).isolated = false →
        s.adhState x ≠ .fault → answersOnly (.axleRestore tag axle) .axleRestore tag (.ok []) s)
      ∧ ((s.fault (.sensor x)).active = false →
        (s.wsc.axle.get x).isolated = true ∨ s.adhState x = .fault →
        ∃ t, exec (.axleRestore tag axle) s = .next t ∧ replied .axleRestore tag (.ok []) t
          ∧ reported (.axleState (.axle x) .restored .grip (s.adhState x) 0
              (s.adh.bogie.get x.bogie).limit (s.adh.bogie.get x.bogie).low s.nowMs) t
          ∧ t = { s with
              wsc := s.wsc.set (.axle x) { s.wsc.axle.get x with
                isolated := false, prev := none, implausible := 0, dead := 0, healthy := 0 }
              sfc := { s.sfc with
                faults := s.sfc.faults.set (.sensor x) { s.fault (.sensor x) with latched := false } }
              adh := { s.adh with axle := s.adh.axle.set x ⟨.grip, 0⟩ }
              lnk := t.lnk })

/-! ADH (R44 to R73) -/

/-- R47. -/
def Obligations.SlipRatio : Prop :=
  ∀ (s : State) (v p rp dir : Int), dir = (if s.travel = .forward then 1 else -1) → p = v * dir →
    rp = s.ref.speed * dir →
    (s.mode = .drive → slipOf s v = Int.tdiv ((p - rp) * 1000) (max |rp| 1000))
    ∧ (s.mode = .brake ∨ s.mode = .emergency →
      slipOf s v = Int.tdiv ((rp - p) * 1000) (max |rp| 1000))
    ∧ (|v| ≤ 30000 → |s.ref.speed| ≤ 30000 → -60000 ≤ slipOf s v ∧ slipOf s v ≤ 60000)

/-- R48, R50 to R52: acceleration excess, and the transitions of a judged sample of slip `σ`, where `severe`
is σ ≥ σ_s or acceleration excess. -/
def Obligations.AdhesionTransitions : Prop :=
  (∀ (x : Axle) (p : Sample) (s : State), judgeAxle x p s = judgedAxle s.adhesion.creep (slipOf s p.v)
    (decide ((s.adhesion.slip : Int) ≤ slipOf s p.v) || accelExcess s p.a)
    (decide ((s.adh.bogie.get x.bogie).limit = 1000) && decide (s.adhState x.bogie.axles.1 ≠ .slip)
      && decide (s.adhState x.bogie.axles.2 ≠ .slip)) (s.adh.axle.get x))
  ∧ (∀ (a dir : Int) (s : State), dir = (if s.travel = .forward then 1 else -1) →
    (s.mode = .drive →
      (accelExcess s a = true ↔ (s.adhesion.accelExcess : Int) ≤ a * dir - s.ref.accel * dir))
    ∧ (s.mode = .brake ∨ s.mode = .emergency →
      (accelExcess s a = true ↔ (s.adhesion.accelExcess : Int) ≤ s.ref.accel * dir - a * dir)))
  ∧ ∀ (creep : Nat) (σ : Int) (severe restored : Bool) (n : Nat),
    (∀ st, st = .grip ∨ st = .creep ∨ st = .recover → severe = true →
      judgedAxle creep σ severe restored ⟨st, n⟩ = ⟨.slip, 0⟩)
    ∧ (severe = false → (creep : Int) ≤ σ → judgedAxle creep σ severe restored ⟨.grip, n⟩ = ⟨.creep, n⟩)
    ∧ (severe = false → σ < creep → judgedAxle creep σ severe restored ⟨.grip, n⟩ = ⟨.grip, n⟩)
    ∧ (severe = false → σ < (creep : Int) - 10 →
      judgedAxle creep σ severe restored ⟨.creep, n⟩ = ⟨.grip, n⟩)
    ∧ (severe = false → (creep : Int) - 10 ≤ σ →
      judgedAxle creep σ severe restored ⟨.creep, n⟩ = ⟨.creep, n⟩)
    ∧ ((creep : Int) ≤ σ → judgedAxle creep σ severe restored ⟨.slip, n⟩ = ⟨.slip, 0⟩)
    ∧ (σ < creep → n = 0 → judgedAxle creep σ severe restored ⟨.slip, n⟩ = ⟨.slip, 1⟩)
    ∧ (σ < creep → 1 ≤ n → judgedAxle creep σ severe restored ⟨.slip, n⟩ = ⟨.recover, 0⟩)
    ∧ (severe = false → restored = true →
      judgedAxle creep σ severe restored ⟨.recover, n⟩ = ⟨.grip, 0⟩)
    ∧ (severe = false → restored = false →
      judgedAxle creep σ severe restored ⟨.recover, n⟩ = ⟨.recover, n⟩)
    ∧ ∀ st, st = .isolated ∨ st = .fault →
      judgedAxle creep σ severe restored ⟨st, n⟩ = ⟨st, n⟩

/-- R58 to R61: the limit action of an arrival, after its transition, with the ceiling and the conditions of
the ramp. R65, R66, R68: the hold of an unsupervised bogie; that it keeps the residual is log 43's reading.
R64: the low-adhesion timer; that its report of R56 names GRIP both as the new state and as the state left is
log 27's reading. -/
def Obligations.LimitActions : Prop :=
  (∀ (x : Bogie) (s : State), s.expired (s.adh.bogie.get x).lowTimer = true →
    ((s.adh.bogie.get x).low = false → exec (.lowAdhesionTimerExpiry x) s = .next { s with
      adh := { s.adh with bogie := s.adh.bogie.set x { s.adh.bogie.get x with lowTimer := none } } })
    ∧ ((s.adh.bogie.get x).low = true → ∃ t, exec (.lowAdhesionTimerExpiry x) s = .next t
      ∧ reported (.axleState (.bogie x) .lowCleared .grip .grip 0 (s.adh.bogie.get x).limit false
          s.nowMs) t
      ∧ t = { s with
          adh := { s.adh with bogie := s.adh.bogie.set x { s.adh.bogie.get x with
            low := false, lowTimer := none } }
          lnk := t.lnk }))
  ∧ (∀ (x : Bogie) (s : State),
    (isUnsupervised s x → x ≠ .t → rampCeiling s x = s.adhesion.unsup)
    ∧ (¬ isUnsupervised s x ∨ x = .t → rampCeiling s x = 1000)
    ∧ (rampRuns s x = true ↔ s.adhState x.axles.1 ≠ .slip ∧ s.adhState x.axles.1 ≠ .creep
      ∧ s.adhState x.axles.2 ≠ .slip ∧ s.adhState x.axles.2 ≠ .creep
      ∧ ¬ (s.ref.active = .lost ∧ x ≠ .t) ∧ ¬ (isUnsupervised s x ∧ x = .t)
      ∧ (s.adh.bogie.get x).limit < rampCeiling s x)
    ∧ (s.sfc.opState = .active → isUnsupervised s x → ¬ (s.ref.active = .lost ∧ x ≠ .t) →
      holdUnsupervised x s = { s with adh := { s.adh with bogie := s.adh.bogie.set x {
        s.adh.bogie.get x with
          limit := if x = .t then s.adhesion.unsup
            else min (s.adh.bogie.get x).limit s.adhesion.unsup } } })
    ∧ (s.sfc.opState ≠ .active ∨ ¬ isUnsupervised s x ∨ (s.ref.active = .lost ∧ x ≠ .t) →
      holdUnsupervised x s = s))
  ∧ ∀ (x : Axle) (now : Time) (before : AdhState) (s : State) (r : BogieAdh),
    s.adh.bogie.get x.bogie = r →
    (s.adhState x = .slip → before ≠ .slip → limitAction x now before true s = { r with
      limit := max s.adhesion.floor (r.limit * s.adhesion.cut / 1000), residual := 0, mark := some now })
    ∧ (s.adhState x = .slip → limitAction x now .slip true s = { r with
      limit := max s.adhesion.floor (r.limit - s.adhesion.stepCut), residual := 0, mark := some now })
    ∧ ∀ judged : Bool, judged = false ∨ s.adhState x ≠ .slip → ∀ after : BogieAdh,
      limitAction x now before judged s = after →
      (rampRuns s x.bogie = true → ∀ (rate ms : Nat),
        rate = (if r.low then s.adhesion.rate / 2 else s.adhesion.rate) →
        ms = (match r.mark with
          | none => 0
          | some m => (now - m).toNat / 1000) →
        (r.limit + (rate * ms + r.residual) / 1000 < rampCeiling s x.bogie →
          after.limit = r.limit + (rate * ms + r.residual) / 1000
          ∧ after.residual = (rate * ms + r.residual) % 1000)
        ∧ (rampCeiling s x.bogie ≤ r.limit + (rate * ms + r.residual) / 1000 →
          after.limit = rampCeiling s x.bogie ∧ after.residual = 0)
        ∧ after.mark = some (match r.mark with
          | none => now
          | some m => m + BitVec.ofNat 32 (ms * 1000)))
      ∧ (rampRuns s x.bogie = false → after = { r with
          mark := some now
          residual := if rampCeiling s x.bogie ≤ r.limit then 0 else r.residual })

/-- R45, R46, R53, R55, R56, R62, R63, R70, R131: an axle sample arrives at ADH. An entry to SLIP is completed
with the limit's cut, the list, the timer, the reports and the sand (R138 to R140, R146); that a new entry is
judged once both requests stand in it is log 41's reading, the states of the LOW_ADHESION report log 27's. A
raise of the SENSOR fault moves an axle to FAULT before the limit action, whose ramp may then run at this same
arrival (log 52); its report, sent again where the axle stands in FAULT (log 42), carries the limit after the
event; that the axle's rollback accumulator of R131 returns to 0 at this raise is log 23's reading. -/
def Obligations.AdhesionArrival : Prop :=
  (∀ (x : Axle) (p : Sample) (s : State), eligible x p s = true ↔
    s.sfc.opState = .active ∧ s.ref.active ≠ .lost ∧ s.adhState x ≠ .isolated ∧ s.adhState x ≠ .fault
    ∧ p.flags.isolated = false ∧ p.flags.implausible = false
    ∧ ((s.mode = .drive ∧ x ≠ .t1 ∧ x ≠ .t2) ∨ s.mode = .brake ∨ s.mode = .emergency))
  ∧ (∀ (x : Axle) (p : Sample) (s t : State), adhArrival x p true s = t → s.adhState x ≠ .isolated →
    ∀ u : State, u = holdUnsupervised x.bogie
      { s with adh := { s.adh with axle := s.adh.axle.set x ⟨.fault, 0⟩ } } →
    t = { s with
      adh := t.adh, bld := t.bld, afe := { s.afe with sup := t.afe.sup }, lnk := t.lnk
      hhu := { s.hhu with acc := s.hhu.acc.set x 0 } }
    ∧ t.adh = { u.adh with bogie := if s.sfc.opState = .active
        then u.adh.bogie.set x.bogie (limitAction x p.endTime .fault false u) else s.adh.bogie }
    ∧ reported (.axleState (.axle x) .fault .fault (s.adhState x) 0 (t.adh.bogie.get x.bogie).limit
        (t.adh.bogie.get x.bogie).low s.nowMs) t)
  ∧ (∀ (x : Axle) (p : Sample) (raised : Bool) (s : State), s.sfc.opState ≠ .active →
    raised = false ∨ s.adhState x = .isolated → adhArrival x p raised s = s)
  ∧ ∀ (x : Axle) (p : Sample) (raised judged : Bool) (s t u : State) (now : AxleAdh) (r : BogieAdh),
    s.sfc.opState = .active → raised = false ∨ s.adhState x = .isolated →
    adhArrival x p raised s = t → judged = (!raised && eligible x p s) →
    now = (if judged then judgeAxle x p s else s.adh.axle.get x) →
    u = { s with adh := { s.adh with axle := s.adh.axle.set x now } } →
    r = limitAction x p.endTime (s.adhState x) judged u →
    (now.state ≠ .slip ∨ s.adhState x = .slip →
      t = { s with
        adh := { axle := u.adh.axle, bogie := s.adh.bogie.set x.bogie r }
        bld := t.bld, afe := { s.afe with sup := t.afe.sup }, lnk := t.lnk }
      ∧ (s.adhState x = .recover ∧ now.state = .grip → reported (.axleState (.axle x) .recovered .grip
          .recover (slipOf s p.v) r.limit r.low s.nowMs) t)
      ∧ (¬ (s.adhState x = .recover ∧ now.state = .grip) → t.lnk = s.lnk))
    ∧ (now.state = .slip → s.adhState x ≠ .slip →
      ∀ (slips : List Time) (crowd sets : Prop) (after : BogieAdh),
      slips = (r.slips ++ [s.nowMs]).drop (r.slips.length - 2) →
      (crowd ↔ ∃ a b c, slips = [a, b, c] ∧ (c - a).toNat ≤ 10000) →
      (sets ↔ crowd ∧ r.low = false) → after = (t.adh.bogie.get x.bogie) →
      t = { s with
        adh := { axle := s.adh.axle.set x ⟨.slip, 0⟩, bogie := s.adh.bogie.set x.bogie after }
        snd := t.snd, bld := t.bld, afe := { s.afe with sup := t.afe.sup }, lnk := t.lnk, free := t.free }
      ∧ after = {
          limit := max s.adhesion.floor ((s.adh.bogie.get x.bogie).limit * s.adhesion.cut / 1000)
          residual := 0, mark := some p.endTime, slips := slips, low := after.low
          lowTimer := some (s.clock + 30000000) }
      ∧ (after.low = true ↔ r.low = true ∨ crowd)
      ∧ reported (.axleState (.axle x) .slipEntry .slip (s.adhState x) (slipOf s p.v) after.limit
          after.low s.nowMs) t
      ∧ (sets → reported (.axleState (.bogie x.bogie) .lowSet .slip .slip (slipOf s p.v) after.limit true
          s.nowMs) t)
      ∧ (¬ sets → x = .t1 ∨ x = .t2 → t.snd = s.snd)
      ∧ ∀ first rest : Nat,
        (sets → first = (if x = .t1 ∨ x = .t2 then 3 else 1) ∧ rest = (if x = .t1 ∨ x = .t2 then 0 else 3)) →
        (¬ sets → first = 1 ∧ rest = 0 ∧ x ≠ .t1 ∧ x ≠ .t2) → adhesionRequests first rest s t)

/-! RLQ (R75 to R90) -/

/-- R77, R78: the checks in their order, and the records that join. `bad r f` says that field `f` of record `r`,
in the order of Table 4-1, is out of range. -/
def Obligations.SegmentAppend : Prop :=
  ∀ (tag count : Byte) (records : List SegmentWord) (s : State) (bad : SegmentWord → Nat → Prop)
    (queued : List Nat) (joining : List Segment), accepts s →
    (∀ r f, bad r f ↔ (f = 1 ∧ r.id.toNat = 0)
      ∨ (f = 2 ∧ (r.length.toNat = 0 ∨ 10000 < r.length.toNat))
      ∨ (f = 3 ∧ (r.grade.toInt < -150 ∨ 150 < r.grade.toInt))
      ∨ (f = 4 ∧ 3 < r.condition.toNat) ∨ (f = 5 ∧ 1 < r.sanding.toNat)
      ∨ (f = 6 ∧ r.override.toNat ≠ 0 ∧ (r.override.toNat < 20 ∨ 400 < r.override.toNat))) →
    queued = s.rlq.queue.map Segment.id →
    joining = records.map (fun r => {
      id := r.id.toNat, length := r.length.toNat, grade := r.grade.toInt
      condition := if r.condition = 0 then .dry else if r.condition = 1 then .wet
        else if r.condition = 2 then .contaminated else .unknown
      inhibited := decide (r.sanding = 1)
      override := if r.override = 0 then none else some r.override.toNat }) →
    (records.length ≠ count.toNat →
      answersOnly (.segmentAppend tag count records) .segmentAppend tag .badLength s)
    ∧ (records.length = count.toNat →
      (count.toNat = 0 ∨ 4 < count.toNat →
        answersOnly (.segmentAppend tag count records) .segmentAppend tag (.refusedRange 1) s)
      ∧ (1 ≤ count.toNat → count.toNat ≤ 4 →
        (∀ (good rest : List SegmentWord) (r : SegmentWord) (f : Nat), records = good ++ r :: rest →
          (∀ g ∈ good, ∀ i, ¬ bad g i) → bad r f → (∀ i < f, ¬ bad r i) →
          answersOnly (.segmentAppend tag count records) .segmentAppend tag
            (.refusedRange (1 + 6 * good.length + f)) s)
        ∧ ((∀ r ∈ records, ∀ i, ¬ bad r i) →
          (∀ (good rest : List SegmentWord) (r : SegmentWord), records = good ++ r :: rest →
            (∀ g ∈ good, g.id.toNat ∉ queued) → (good.map SegmentWord.id).Nodup →
            r.id.toNat ∈ queued ∨ r.id ∈ good.map SegmentWord.id →
            answersOnly (.segmentAppend tag count records) .segmentAppend tag
              (.refusedDuplicate r.id.toNat) s)
          ∧ ((∀ r ∈ records, r.id.toNat ∉ queued) → (records.map SegmentWord.id).Nodup →
            (32 < s.rlq.queue.length + records.length →
              answersOnly (.segmentAppend tag count records) .segmentAppend tag
                (.refusedFull (some (32 - s.rlq.queue.length))) s)
            ∧ (s.rlq.queue.length + records.length ≤ 32 → s.rlq.queue ≠ [] →
              exec (.segmentAppend tag count records) s = .next
                { withReply .segmentAppend tag
                    (.ok [BitVec.ofNat 8 (s.rlq.queue.length + records.length)]) s with
                  rlq := { s.rlq with queue := s.rlq.queue ++ joining } })
            ∧ (s.rlq.queue = [] → ∃ t, exec (.segmentAppend tag count records) s = .next t
              ∧ replied .segmentAppend tag (.ok [count]) t
              ∧ t.rlq = { queue := joining, pos := some 0, dir := some s.travel, uncertain := true }
              ∧ t.wsc = s.wsc ∧ t.ref = s.ref ∧ t.adh = s.adh ∧ t.hhu = s.hhu
              ∧ t.sfc.opState = s.sfc.opState ∧ t.sfc.cfg = s.sfc.cfg)))))

/-- R86, R88: ROUTE FLUSH. R84, R85: POSITION FIX; `ahead` are the segments before the named one. -/
def Obligations.RouteFlushAndFix : Prop :=
  (∀ (tag : Byte) (s : State), accepts s →
    (s.rlq.queue = [] → answersOnly (.routeFlush tag) .routeFlush tag (.ok [0]) s)
    ∧ (s.rlq.queue ≠ [] → ∃ t, exec (.routeFlush tag) s = .next t
      ∧ replied .routeFlush tag (.ok [BitVec.ofNat 8 s.rlq.queue.length]) t
      ∧ reported (.routeEmpty .flush s.rlq.queue.length s.nowMs) t
      ∧ t.rlq = { queue := [], pos := none, dir := none, uncertain := false }
      ∧ t.wsc = s.wsc ∧ t.ref = s.ref ∧ t.adh = s.adh ∧ t.hhu = s.hhu
      ∧ t.sfc.opState = s.sfc.opState ∧ t.sfc.cfg = s.sfc.cfg))
  ∧ ∀ (tag : Byte) (id : BitVec 16) (offset : BitVec 32) (s : State), accepts s →
    (id = 0 → answersOnly (.positionFix tag id offset) .positionFix tag (.refusedRange 1) s)
    ∧ (id ≠ 0 → (∀ g ∈ s.rlq.queue, g.id ≠ id.toNat) →
      answersOnly (.positionFix tag id offset) .positionFix tag .notFound s)
    ∧ ∀ (ahead rest : List Segment) (g : Segment), id ≠ 0 → s.rlq.queue = ahead ++ g :: rest →
      g.id = id.toNat → (∀ h ∈ ahead, h.id ≠ id.toNat) →
      (g.length * 10 ≤ offset.toNat →
        answersOnly (.positionFix tag id offset) .positionFix tag (.refusedRange 2) s)
      ∧ (offset.toNat < g.length * 10 → ∃ t, exec (.positionFix tag id offset) s = .next t
        ∧ replied .positionFix tag (.ok [BitVec.ofNat 8 ahead.length]) t
        ∧ t.rlq = { queue := g :: rest, pos := some (offset.toNat * 100), dir := s.rlq.dir
                    uncertain := false }
        ∧ (ahead = [] → t.bld = s.bld ∧ t.snd = s.snd)
        ∧ t.wsc = s.wsc ∧ t.ref = s.ref ∧ t.adh = s.adh ∧ t.hhu = s.hhu
        ∧ t.sfc.opState = s.sfc.opState ∧ t.sfc.cfg = s.sfc.cfg)

/-- R79 to R83, R88: a distance increment of `m` mm at RLQ; the flag in the report of the last segment is
that of log 47. R43, R153: an increment of `mm` at SND where no arbiter grants. -/
def Obligations.DistanceRetires : Prop :=
  (∀ (mm : Nat) (s : State), (∀ e, grantee s e = none) →
    (sandDistance mm s).snd = { s.snd with sanded := s.snd.sanded - mm })
  ∧ ∀ (m : Int) (s : State),
    (s.rlq.queue = [] → routeDistance m s = s)
    ∧ (s.rlq.queue ≠ [] → ((s.rlq.pos.getD 0 : Nat) : Int) + m < 0 →
      routeDistance m s = { s with rlq := { s.rlq with pos := some 0, uncertain := true } })
    ∧ (s.rlq.queue ≠ [] → ∀ p : Nat, (p : Int) = ((s.rlq.pos.getD 0 : Nat) : Int) + m →
      ∃ gone kept : List Segment, s.rlq.queue = gone ++ kept
        ∧ (kept = [] ∨ ((gone.map Segment.length).sum * 1000 ≤ p))
        ∧ (kept = [] → (routeDistance m s).rlq
            = { queue := [], pos := none, dir := none, uncertain := false }
          ∧ reported (.routeEmpty .passed 1 s.nowMs) (routeDistance m s))
        ∧ (∀ g rest, kept = g :: rest →
          p - (gone.map Segment.length).sum * 1000 < g.length * 1000
          ∧ (routeDistance m s).rlq = { s.rlq with
              queue := kept, pos := some (p - (gone.map Segment.length).sum * 1000) })
        ∧ (gone = [] → routeDistance m s = { s with rlq := { s.rlq with pos := some p } })
        ∧ (∀ before g after, gone = before ++ g :: after →
          ((before ++ [g]).map Segment.length).sum * 1000 ≤ p
          ∧ reported (.segmentPassed g.id (after.length + kept.length) s.rlq.uncertain s.nowMs)
              (routeDistance m s)))

/-! HHU (R119 to R136) -/

/-- R120, R121: the grade forces, the hold force and the three levels. R124, R125, R126, R129: what a
published force reading does in each hold state; that a reading which enters TAKE_UP does not judge the
drive is log 21's. -/
def Obligations.HoldLevelsAndDrive : Prop :=
  (gradeForce 480 80 = 377 ∧ gradeForce 480 150 = 706 ∧ gradeForce 480 100 = 471)
  ∧ (∀ (mass : Nat) (grade : Int), gradeForce mass grade
      = grade.sign * ((2 * (mass * 981 * grade.natAbs) + 100000) / 200000 : Nat))
  ∧ (∀ (s t : State) (force sA sB sT : Nat), computeHold s = t →
    force = ((gradeForce s.vehicle.mass (match s.rlq.queue with
        | [] => s.vehicle.gDef
        | g :: _ => g.grade.natAbs)).toNat * (1000 + s.sfc.cfg.hold.margin) + 999) / 1000 →
    sA = force * s.vehicle.load.a / s.vehicle.mass → sB = force * s.vehicle.load.b / s.vehicle.mass →
    sT = force - sA - sB →
    t = { s with hhu := { s.hhu with holdForce := force, level := t.hhu.level } }
    ∧ ∀ x, t.hhu.level.get x = min (s.blend.pMax.get x) (max s.sfc.cfg.hold.pMin
        ((2 * ((⟨sA, sT, sB⟩ : PerBogie Nat).get x * 100) + s.blend.k.get x) / (2 * s.blend.k.get x))))
  ∧ (∀ s : State, gradeTravel s = match s.rlq.queue with
    | [] => (s.vehicle.gDef : Int)
    | g :: _ => if s.rlq.dir = some s.travel then g.grade else -g.grade)
  ∧ ∀ (s t : State) (d base f : Nat), hillReading s = t →
    d = (if (s.fault (.edFeedback .a)).active then 0 else ((s.afe.chan.force.a.reading).getD 0).toNat)
      + (if (s.fault (.edFeedback .b)).active then 0 else ((s.afe.chan.force.b.reading).getD 0).toNat) →
    base = (gradeForce s.vehicle.mass (gradeTravel s)).toNat → f = base + s.sfc.cfg.hold.relMargin →
    (s.hhu.state = .off ∨ s.hhu.state = .rollbackCatch → t = s)
    ∧ (s.hhu.state = .holding → s.mode ≠ .drive ∨ s.bld.demand.effort = 0 ∨ s.hhu.rearm = false → t = s)
    ∧ (s.hhu.state = .holding → s.mode = .drive → 0 < s.bld.demand.effort → s.hhu.rearm = true →
      s.sfc.opState = .active →
      t.hhu = { s.hhu with
        state := .takeUp, takeUp := some (s.clock + s.sfc.cfg.hold.takeUp * 1000), confirm := .stopped
        blocked := false }
      ∧ reported (.holdState .takeUp .holding .takeUp s.floors s.hhu.holdForce s.hhu.relThreshold
          s.hhu.dAch s.nowMs) t
      ∧ (gradeTravel s < s.sfc.cfg.hold.sandGrade → t.snd = s.snd)
      ∧ (s.sfc.cfg.hold.sandGrade ≤ gradeTravel s →
        s.snd.queue.any (SandEntry.isFor .hillStart s.travel.leading) = false →
        s.snd.queue.length < 8 → s.snd.valve.get s.travel.leading ≠ .closed →
        t.snd = { s.snd with
          queue := s.snd.queue ++ [{
            source := .hillStart, side := s.travel.leading, leading := true, shots := 2, age := none
            arrival := s.snd.arrivals }]
          arrivals := s.snd.arrivals + 1 }))
    ∧ (s.hhu.state = .takeUp →
      (d < f → t = { s with hhu := { s.hhu with dAch := d, relThreshold := f, confirm := .stopped } })
      ∧ (f ≤ d → s.hhu.confirm = .stopped → t = { s with hhu := { s.hhu with
          dAch := d, relThreshold := f
          confirm := .running (s.clock + s.sfc.cfg.hold.confirm * 1000) } })
      ∧ (f ≤ d → (∃ due, s.hhu.confirm = .running due) →
        t = { s with hhu := { s.hhu with dAch := d, relThreshold := f } })
      ∧ (f ≤ d → s.hhu.confirm = .complete → (∃ x, (s.fault (.pressure x)).latched = true) →
        t = { s with hhu := { s.hhu with dAch := d, relThreshold := f } })
      ∧ (f ≤ d → s.hhu.confirm = .complete → (∀ x, (s.fault (.pressure x)).latched = false) →
        (∃ x, s.hhu.floor.get x ≠ 0) →
        t.hhu = { s.hhu with
          dAch := d, relThreshold := f, state := .releasing, takeUp := none, confirm := .stopped
          blocked := false
          ramp := PerBogie.of fun x => if s.hhu.floor.get x = 0 then none
            else some ⟨s.hhu.floor.get x, s.nowMs⟩ }
        ∧ reported (.holdState .releasing .takeUp .release s.hhu.floor s.hhu.holdForce f d s.nowMs) t)
      ∧ (f ≤ d → s.hhu.confirm = .complete → (∀ x, (s.fault (.pressure x)).latched = false) →
        (∀ x, s.hhu.floor.get x = 0) →
        t.hhu = { s.hhu with
          dAch := d, relThreshold := f, state := .off, takeUp := none, confirm := .stopped
          blocked := false, floor := ⟨0, 0, 0⟩, ramp := ⟨none, none, none⟩ }
        ∧ reported (.holdState .off .releasing .released ⟨0, 0, 0⟩ s.hhu.holdForce f d s.nowMs) t))
    ∧ (s.hhu.state = .releasing →
      (base ≤ d → t.hhu = { s.hhu with dAch := d, relThreshold := f } ∧ t.lnk = s.lnk ∧ t.snd = s.snd)
      ∧ (d < base → t.hhu = { s.hhu with
          dAch := d, relThreshold := f, state := .takeUp, floor := s.hhu.level
          ramp := ⟨none, none, none⟩, takeUp := some (s.clock + s.sfc.cfg.hold.takeUp * 1000)
          confirm := .stopped }
        ∧ reported (.holdState .takeUp .releasing .driveFell s.hhu.level s.hhu.holdForce f d s.nowMs) t))
    ∧ t.wsc = s.wsc ∧ t.ref = s.ref ∧ t.adh = s.adh ∧ t.rlq = s.rlq ∧ t.afe.chan = s.afe.chan
    ∧ t.sfc = s.sfc

/-- R126 to R128: the release confirm, the take-up timer and the completion of a falling floor. -/
def Obligations.HillTimers : Prop :=
  ∀ s : State,
    (s.hhu.state = .takeUp → s.confirmExpired s.hhu.confirm = true →
      ((∃ x, (s.fault (.pressure x)).latched = true) → s.hhu.blocked = true →
        exec .releaseConfirmExpiry s = .next { s with hhu := { s.hhu with confirm := .complete } })
      ∧ ((∃ x, (s.fault (.pressure x)).latched = true) → s.hhu.blocked = false →
        ∃ t, exec .releaseConfirmExpiry s = .next t
          ∧ reported (.holdState .takeUp .takeUp .releaseBlocked s.floors s.hhu.holdForce
              s.hhu.relThreshold s.hhu.dAch s.nowMs) t
          ∧ t = { s with hhu := { s.hhu with confirm := .complete, blocked := true }, lnk := t.lnk })
      ∧ ((∀ x, (s.fault (.pressure x)).latched = false) → (∃ x, s.hhu.floor.get x ≠ 0) →
        ∃ t, exec .releaseConfirmExpiry s = .next t
          ∧ t.hhu = { s.hhu with
              state := .releasing, takeUp := none, confirm := .stopped, blocked := false
              ramp := PerBogie.of fun x => if s.hhu.floor.get x = 0 then none
                else some ⟨s.hhu.floor.get x, s.nowMs⟩ }
          ∧ reported (.holdState .releasing .takeUp .release s.hhu.floor s.hhu.holdForce
              s.hhu.relThreshold s.hhu.dAch s.nowMs) t
          ∧ t.wsc = s.wsc ∧ t.ref = s.ref ∧ t.adh = s.adh ∧ t.rlq = s.rlq
          ∧ t.sfc.opState = s.sfc.opState ∧ t.sfc.cfg = s.sfc.cfg)
      ∧ ((∀ x, (s.fault (.pressure x)).latched = false) → (∀ x, s.hhu.floor.get x = 0) →
        ∃ t, exec .releaseConfirmExpiry s = .next t
          ∧ t.hhu = { s.hhu with
              state := .off, takeUp := none, confirm := .stopped, blocked := false
              floor := ⟨0, 0, 0⟩, ramp := ⟨none, none, none⟩ }
          ∧ reported (.holdState .releasing .takeUp .release s.hhu.floor s.hhu.holdForce
              s.hhu.relThreshold s.hhu.dAch s.nowMs) t
          ∧ reported (.holdState .off .releasing .released ⟨0, 0, 0⟩ s.hhu.holdForce
              s.hhu.relThreshold s.hhu.dAch s.nowMs) t
          ∧ t.wsc = s.wsc ∧ t.ref = s.ref ∧ t.adh = s.adh ∧ t.rlq = s.rlq
          ∧ t.sfc.opState = s.sfc.opState ∧ t.sfc.cfg = s.sfc.cfg))
    ∧ (s.hhu.state = .takeUp → s.expired s.hhu.takeUp = true →
      ∃ t, exec .takeUpTimerExpiry s = .next t
        ∧ t.hhu = { s.hhu with
            state := .holding, takeUp := none, confirm := .stopped, blocked := false, rearm := false
            acc := PerAxle.of fun _ => 0, ramp := ⟨none, none, none⟩ }
        ∧ reported (.holdState .holding .takeUp .holdTimeout s.hhu.floor s.hhu.holdForce
            s.hhu.relThreshold s.hhu.dAch s.nowMs) t
        ∧ t.wsc = s.wsc ∧ t.ref = s.ref ∧ t.adh = s.adh ∧ t.rlq = s.rlq
        ∧ t.sfc.opState = s.sfc.opState ∧ t.sfc.cfg = s.sfc.cfg)
    ∧ ∀ x, s.hhu.state = .releasing → s.hhu.ramp.get x ≠ none → s.floor x = 0 →
      ((∃ y, y ≠ x ∧ s.hhu.ramp.get y ≠ none) →
        ∃ t, exec (.releaseRampCompletion x) s = .next t
          ∧ t.hhu = { s.hhu with floor := s.hhu.floor.set x 0, ramp := s.hhu.ramp.set x none }
          ∧ t.wsc = s.wsc ∧ t.ref = s.ref ∧ t.adh = s.adh ∧ t.rlq = s.rlq
          ∧ t.sfc.opState = s.sfc.opState ∧ t.sfc.cfg = s.sfc.cfg)
      ∧ ((∀ y, y ≠ x → s.hhu.ramp.get y = none) →
        ∃ t, exec (.releaseRampCompletion x) s = .next t
          ∧ t.hhu = { s.hhu with state := .off, floor := ⟨0, 0, 0⟩, ramp := ⟨none, none, none⟩ }
          ∧ reported (.holdState .off .releasing .released ⟨0, 0, 0⟩ s.hhu.holdForce
              s.hhu.relThreshold s.hhu.dAch s.nowMs) t
          ∧ t.wsc = s.wsc ∧ t.ref = s.ref ∧ t.adh = s.adh ∧ t.rlq = s.rlq
          ∧ t.sfc.opState = s.sfc.opState ∧ t.sfc.cfg = s.sfc.cfg)

/-- R131 to R134: an axle sample arrives at HHU: the accumulator, the detection, the catch and its end. Log
22 of a catch entered in STANDSTILL is the model's reading. -/
def Obligations.RollbackWatch : Prop :=
  ∀ (x : Axle) (p : Sample) (s t : State) (dir : Int), hillArrival x p s = t →
    dir = (if s.travel = .forward then 1 else -1) →
    (s.sfc.opState ≠ .active ∨ p.flags.isolated = true ∨ p.flags.implausible = true → t = s)
    ∧ (s.sfc.opState = .active → p.flags.isolated = false → p.flags.implausible = false →
      (s.hhu.state = .rollbackCatch → ∀ rest : Prop,
        (rest ↔ s.hhu.caughtAtRest = true ∧ s.ref.active = .standstill
          ∧ ∀ y, isWatched s y → ∃ q, (s.wsc.axle.get y).latest = some q ∧ q.flags.standstill = true) →
        (¬ rest → t = s)
        ∧ (rest → ∀ held : Hhu, held = { s.hhu with
            state := .holding, level := s.hhu.floor, ramp := ⟨none, none, none⟩
            acc := ⟨0, 0, 0, 0, 0, 0⟩, confirm := .stopped, takeUp := none, blocked := false } →
          reported (.holdState .holding .rollbackCatch .catchEnded s.hhu.floor s.hhu.holdForce
            s.hhu.relThreshold s.hhu.dAch s.nowMs) t
          ∧ (s.mode ≠ .drive ∨ s.hhu.rearm = false → t.hhu = held)
          ∧ (s.mode = .drive → s.hhu.rearm = true → 0 < s.bld.demand.effort → s.eblOpen = false →
            t.hhu = { held with
              state := .takeUp, takeUp := some (s.clock + s.sfc.cfg.hold.takeUp * 1000) })))
      ∧ (s.hhu.state ≠ .rollbackCatch → ¬ isWatched s x → t = s)
      ∧ (s.hhu.state = .off → isWatched s x → 1500 ≤ s.ref.speed.natAbs →
        t = { s with hhu := { s.hhu with acc := s.hhu.acc.set x 0 } })
      ∧ (s.hhu.state = .holding ∨ s.hhu.state = .takeUp ∨ s.hhu.state = .releasing
          ∨ (s.hhu.state = .off ∧ s.ref.speed.natAbs < 1500) → isWatched s x →
        ∀ (far n : Nat) (u : State) (detected : Prop),
        (∀ circ teeth, p.scale = .wheel circ teeth → far = p.net.natAbs * circ / (4 * teeth)) →
        (∀ e, p.scale = .ground e → far = p.net.natAbs * e) →
        n = (if p.net * dir < 0 then min 1000000 (s.hhu.acc.get x + far)
          else if 0 < p.net * dir then s.hhu.acc.get x - far else s.hhu.acc.get x) →
        u = { s with hhu := { s.hhu with acc := s.hhu.acc.set x n } } →
        (detected ↔ n ≠ s.hhu.acc.get x ∧ ((∃ y z, y ≠ z ∧ isOver u y ∧ isOver u z)
          ∨ ∃ y, isOver u y ∧ ∀ z, isWatched u z → z = y)) →
        (¬ detected → t = u)
        ∧ (detected → ∀ v : State, computeHold s = v →
          t.hhu = { u.hhu with
            state := .rollbackCatch, floor := t.hhu.floor, level := v.hhu.level
            holdForce := v.hhu.holdForce, ramp := ⟨none, none, none⟩, confirm := .stopped, takeUp := none
            caughtAtRest := decide (s.ref.active = .standstill) }
          ∧ (∀ y, t.hhu.floor.get y = max (s.floor y) (max (v.hhu.level.get y)
              (s.blend.pMax.get y * s.sfc.cfg.hold.catchShare / 1000)))
          ∧ reported (.rollback s.hhu.state
              ((Axle.all.filter fun y => decide (isOver u y)).map fun y => (y, u.hhu.acc.get y))
              t.hhu.floor (if s.travel = .forward then .two else .one) s.ref.speed s.nowMs) t
          ∧ t.bld.drive = ⟨0, 0⟩
          ∧ (∀ y, s.floor y = 0 → 0 < t.hhu.floor.get y → (t.stu.bogie.get y).episode = none)
          ∧ ∀ e, e = (if s.travel = .forward then Side.two else .one) →
            s.hhu.state = .holding ∨ s.hhu.state = .off →
            s.snd.queue.any (SandEntry.isFor .rollback e) = false → s.snd.queue.length < 8 →
            s.snd.valve.get e ≠ .closed → t.snd = { s.snd with
              queue := s.snd.queue ++ [{
                source := .rollback, side := e, leading := false, shots := 3, age := none
                arrival := s.snd.arrivals }]
              arrivals := s.snd.arrivals + 1 })))
    ∧ t.wsc = s.wsc ∧ t.ref = s.ref ∧ t.adh = s.adh ∧ t.rlq = s.rlq ∧ t.sfc = s.sfc
    ∧ t.afe.chan = s.afe.chan

/-! SND (R137 to R155) -/

/-- R139 to R141, R144: SAND REQUEST. `e` is the end resolved. Where the end's valve is not CLOSED no grant
follows, and the queue is the one the join leaves. -/
def Obligations.SandRequest : Prop :=
  ∀ (tag side shots : Byte) (s : State), accepts s →
    (3 ≤ side.toNat → answersOnly (.sandRequest tag side shots) .sandRequest tag (.refusedRange 1) s)
    ∧ (side.toNat < 3 → shots.toNat = 0 ∨ 10 < shots.toNat →
      answersOnly (.sandRequest tag side shots) .sandRequest tag (.refusedRange 2) s)
    ∧ (side.toNat < 3 → 1 ≤ shots.toNat → shots.toNat ≤ 10 → s.sfc.opState ≠ .active →
      answersOnly (.sandRequest tag side shots) .sandRequest tag .refusedState s)
    ∧ ∀ (e : Side) (leading : Bool) (fresh : SandEntry),
      (side = 0 ∧ e = s.travel.leading ∧ leading = true) ∨ (side = 1 ∧ e = .one ∧ leading = false)
        ∨ (side = 2 ∧ e = .two ∧ leading = false) →
      fresh = { source := .manual, side := e, leading := leading, shots := shots.toNat
                age := some (s.clock + 5000000), arrival := s.snd.arrivals } →
      1 ≤ shots.toNat → shots.toNat ≤ 10 → s.sfc.opState = .active →
      (∀ x, s.snd.queue.find? (SandEntry.isFor .manual e) = some x →
        ∃ t, exec (.sandRequest tag side shots) s = .next t
          ∧ replied .sandRequest tag (.ok (BitVec.ofNat 8 e.number :: bytesOf 2 x.arrival.toNat
              ++ [BitVec.ofNat 8 (min 10 (x.shots + shots.toNat))])) t
          ∧ t = { s with snd := t.snd, bld := t.bld, afe := { s.afe with sup := t.afe.sup }
                         lnk := t.lnk }
          ∧ (s.snd.valve.get e ≠ .closed → t.snd = { s.snd with
              queue := s.snd.queue.map fun y => if y.source = .manual ∧ y.side = e
                then { y with
                  shots := min 10 (y.shots + shots.toNat), leading := y.leading && leading
                  age := some (s.clock + 5000000) }
                else y }))
      ∧ (s.snd.queue.find? (SandEntry.isFor .manual e) = none → s.snd.queue.length < 8 →
        ∃ t, exec (.sandRequest tag side shots) s = .next t
          ∧ replied .sandRequest tag (.ok (BitVec.ofNat 8 e.number :: bytesOf 2 s.snd.arrivals.toNat
              ++ [shots])) t
          ∧ t = { s with snd := t.snd, bld := t.bld, afe := { s.afe with sup := t.afe.sup }
                         lnk := t.lnk }
          ∧ (s.snd.valve.get e ≠ .closed → t.snd = { s.snd with
              queue := s.snd.queue ++ [fresh], arrivals := s.snd.arrivals + 1 }))
      ∧ (s.snd.queue.find? (SandEntry.isFor .manual e) = none → 8 ≤ s.snd.queue.length →
        (∀ y ∈ s.snd.queue, 2 ≤ sandPriority y.source) →
        answersOnly (.sandRequest tag side shots) .sandRequest tag (.refusedFull none) s)
      ∧ ∀ (before after : List SandEntry) (y : SandEntry),
        s.snd.queue.find? (SandEntry.isFor .manual e) = none → 8 ≤ s.snd.queue.length →
        s.snd.queue = before ++ y :: after → y.source = .adhesion →
        (∀ z ∈ after, z.source ≠ .adhesion) →
        ∃ t, exec (.sandRequest tag side shots) s = .next t
          ∧ replied .sandRequest tag (.ok (BitVec.ofNat 8 e.number :: bytesOf 2 s.snd.arrivals.toNat
              ++ [shots])) t
          ∧ reported (.sand .evicted y.side .adhesion y.arrival y.shots (s.snd.level.get y.side)
              s.nowMs) t
          ∧ (s.snd.valve.get e ≠ .closed → t.snd = { s.snd with
              queue := before ++ after ++ [fresh], arrivals := s.snd.arrivals + 1 })

/-- R151, R154. Of the report of the close, the shots left are those of log 26, and that its level is the one
before the fill's is log 49's reading. -/
def Obligations.SandFill : Prop :=
  ∀ (tag side : Byte) (level : BitVec 16) (s : State), accepts s →
    (side.toNat = 0 ∨ 3 ≤ side.toNat →
      answersOnly (.sandFill tag side level) .sandFill tag (.refusedRange 1) s)
    ∧ ∀ e, (side = 1 ∧ e = .one) ∨ (side = 2 ∧ e = .two) →
      (60000 < level.toNat → answersOnly (.sandFill tag side level) .sandFill tag (.refusedRange 2) s)
      ∧ (level.toNat ≤ 60000 → ∃ t, exec (.sandFill tag side level) s = .next t
        ∧ replied .sandFill tag (.ok []) t
        ∧ t.snd.level = s.snd.level.set e level.toNat
        ∧ t.fault (.sandEmpty e) = (if 0 < level.toNat
            then { s.fault (.sandEmpty e) with active := false } else s.fault (.sandEmpty e))
        ∧ (∀ id, id ≠ .sandEmpty e → t.fault id = s.fault id)
        ∧ (∀ shot, s.snd.valve.get e = .pouring shot →
          t.snd.valve = s.snd.valve.set e (.recovery (s.clock + 300000)) ∧ t.snd.queue = s.snd.queue
          ∧ reported (.sand (.closed .fill (s.nowMs - shot.since).toNat 0) e shot.source shot.arrival
              (shotsLeft s e shot) (s.snd.level.get e) s.nowMs) t)
        ∧ (s.sfc.opState ≠ .active → (∀ shot, s.snd.valve.get e ≠ .pouring shot) →
          t.snd = { s.snd with level := t.snd.level })
        ∧ t.wsc = s.wsc ∧ t.ref = s.ref ∧ t.adh = s.adh ∧ t.rlq = s.rlq ∧ t.hhu = s.hhu
        ∧ t.sfc.opState = s.sfc.opState ∧ t.sfc.cfg = s.sfc.cfg)

/-- R142, R143, R145 to R149: what an arbiter grants, and the expiries of the shot, recovery, age and
emergency repeat timers. The shots left that the reports of the closes carry are those of log 26. -/
def Obligations.SandTimers : Prop :=
  (∀ (e : Side) (x : SandEntry) (s : State), grantee s e = some x →
    s.sfc.opState = .active ∧ s.snd.valve.get e = .closed ∧ permitted s x = true ∧ x.side = e
    ∧ ∃ before after, s.snd.queue = before ++ x :: after
      ∧ (∀ y ∈ before, y.side = e → permitted s y = true →
        sandPriority y.source < sandPriority x.source)
      ∧ ∀ y ∈ after, y.side = e → permitted s y = true →
        sandPriority y.source ≤ sandPriority x.source)
  ∧ (∀ (e : Side) (s : State), s.sfc.opState = .active → s.snd.valve.get e = .closed →
    grantee s e = none → ∀ y ∈ s.snd.queue, y.side = e → permitted s y = false)
  ∧ (∀ (e : Side) (shot : Shot) (charge : Nat) (s : State), s.snd.valve.get e = .pouring shot →
    shot.due ≤ s.clock → charge = (shot.flow * (s.nowMs - shot.since).toNat + 999) / 1000 →
    ∃ t, exec (.shotTimerExpiry e) s = .next t
      ∧ t.snd = { s.snd with
          level := s.snd.level.set e (s.snd.level.get e - charge)
          valve := s.snd.valve.set e (.recovery (s.clock + 300000)) }
      ∧ reported (.sand (.closed .ended (s.nowMs - shot.since).toNat charge) e shot.source shot.arrival
          (shotsLeft s e shot) (s.snd.level.get e - charge) s.nowMs) t
      ∧ (s.snd.level.get e ≤ charge → (t.fault (.sandEmpty e)).active = true)
      ∧ (charge < s.snd.level.get e → t.sfc = s.sfc)
      ∧ (∀ id, id ≠ .sandEmpty e → t.fault id = s.fault id)
      ∧ t = { s with snd := t.snd, lnk := t.lnk, sfc := { s.sfc with faults := t.sfc.faults } })
  ∧ (∀ (e : Side) (due : Nat) (s u : State), s.snd.valve.get e = .recovery due → due ≤ s.clock →
    u = { s with snd := { s.snd with valve := s.snd.valve.set e .closed } } →
    (grantee u e = none → exec (.recoveryTimerExpiry e) s = .next u)
    ∧ ∀ (x : SandEntry) (allowed : Nat), grantee u e = some x →
      allowed = min s.sfc.cfg.sand.shot (s.snd.level.get e * 1000 / s.sfc.cfg.sand.flow.get e) →
      ∃ t, exec (.recoveryTimerExpiry e) s = .next t
        ∧ t.snd = { s.snd with
            valve := s.snd.valve.set e (.pouring {
              source := x.source, arrival := x.arrival, length := s.sfc.cfg.sand.shot
              flow := s.sfc.cfg.sand.flow.get e, since := s.nowMs, allowed := allowed
              due := s.clock + allowed * 1000 })
            queue := takeShot x s.snd.queue
            sanded := s.vehicle.sLen * 1000 }
        ∧ reported (.sand (.shot allowed (s.sfc.cfg.sand.flow.get e)) e x.source x.arrival
            (x.shots - 1) (s.snd.level.get e) s.nowMs) t
        ∧ t = { s with snd := t.snd, bld := t.bld, afe := { s.afe with sup := t.afe.sup }
                       lnk := t.lnk })
  ∧ (∀ (source : SandSource) (e : Side) (x : SandEntry) (s : State),
    s.snd.queue.find? (SandEntry.isFor source e) = some x → s.expired x.age = true →
    exec (.ageTimerExpiry source e) s = .next { s with snd := { s.snd with
      queue := s.snd.queue.filter fun y => decide (¬ (y.source = source ∧ y.side = e)) } })
  ∧ ∀ s : State, s.expired s.snd.repeatTimer = true →
    (s.sfc.opState ≠ .active → exec .emergencyRepeatTimerExpiry s
      = .next { s with snd := { s.snd with repeatTimer := some (s.clock + 10000000) } })
    ∧ (s.sfc.opState = .active → ∃ t, exec .emergencyRepeatTimerExpiry s = .next t
      ∧ t.snd.repeatTimer = some (s.clock + 10000000)
      ∧ t = { s with snd := t.snd, bld := t.bld, afe := { s.afe with sup := t.afe.sup }, lnk := t.lnk }
      ∧ (s.snd.queue.any (SandEntry.isFor .emergency s.travel.leading) = true →
        s.snd.valve.get s.travel.leading ≠ .closed →
        t.snd.queue = s.snd.queue.map fun y =>
          if y.source = .emergency ∧ y.side = s.travel.leading then { y with shots := 10, age := none }
          else y)
      ∧ (s.snd.queue.any (SandEntry.isFor .emergency s.travel.leading) = false →
        ∀ fresh : SandEntry, fresh = {
          source := .emergency, side := s.travel.leading, leading := true, shots := 10, age := none
          arrival := s.snd.arrivals } →
        (s.snd.queue.length < 8 → s.snd.valve.get s.travel.leading ≠ .closed →
          t.snd = { s.snd with
            queue := s.snd.queue ++ [fresh], arrivals := s.snd.arrivals + 1
            repeatTimer := some (s.clock + 10000000) })
        ∧ (8 ≤ s.snd.queue.length → (∀ y ∈ s.snd.queue, 3 ≤ sandPriority y.source) →
          t.snd = { s.snd with repeatTimer := some (s.clock + 10000000) }
          ∧ reported (.sand .dropped s.travel.leading .emergency 0 10
              (s.snd.level.get s.travel.leading) s.nowMs) t)
        ∧ ∀ (before after : List SandEntry) (y : SandEntry), 8 ≤ s.snd.queue.length →
          s.snd.queue = before ++ y :: after → sandPriority y.source < 3 →
          (∀ z ∈ before, sandPriority y.source ≤ sandPriority z.source) →
          (∀ z ∈ after, sandPriority y.source < sandPriority z.source) →
          reported (.sand .evicted y.side y.source y.arrival y.shots (s.snd.level.get y.side) s.nowMs) t
          ∧ (s.snd.valve.get s.travel.leading ≠ .closed → t.snd = { s.snd with
              queue := before ++ after ++ [fresh], arrivals := s.snd.arrivals + 1
              repeatTimer := some (s.clock + 10000000) })))

/-! AFE and STU (R156 to R174) -/

/-- R156 to R160: a completed conversion. R162, R163: the supervision's judgement of a pressure reading, and
R125: the readers of a force, each of which takes it whole, with all its consequences, before the other: the
model's choice (log 4); both where the conversion changes no saturation cause. -/
def Obligations.AnalogConversion : Prop :=
  ∀ (c : Analog) (code : BitVec 12) (ch : AnalogChan) (s : State), s.afe.chan.get c = ch →
    (ch.gain = none → exec (.analogConversion c code) s = .next s)
    ∧ ∀ (g : Nat) (cfg : AnalogCfg), ch.gain = some g → s.sfc.cfg.analog.get c = some cfg →
      (ch.discard = true → exec (.analogConversion c code) s = .next { s with
        afe := { s.afe with chan := s.afe.chan.set c { ch with discard := false } } })
      ∧ (ch.discard = false → 1 ≤ g → ∀ (n reading : Int) (d : Nat) (saturated : Bool),
        n = ((code.toNat : Int) - 2048) * cfg.scale → d = ((code.toNat : Int) - 2048).natAbs →
        saturated = decide (code.toNat ≤ 16 ∨ 4079 ≤ code.toNat) →
        reading = n.sign * ((2 * n.natAbs + g * 1000) / (2 * (g * 1000)) : Nat) →
        ∃ t, exec (.analogConversion c code) s = .next t
          ∧ (∀ a, a ≠ c → t.afe.chan.get a = s.afe.chan.get a)
          ∧ (saturated = true → cfg.mode = .fixed ∨ g = 1 →
            t.afe.chan.get c = {
              gain := some g, discard := false, code := some code.toNat, reading := some reading
              saturated := min 3 (ch.saturated + 1), clear := 0
              cause := ch.cause || decide (2 ≤ ch.saturated) })
          ∧ (saturated = true → cfg.mode = .auto → 1 < g →
            t.afe.chan.get c = { ch with
              gain := some (g / 2), discard := true, code := some code.toNat })
          ∧ (saturated = false → ∃ (gain : Nat) (discard : Bool),
            t.afe.chan.get c = {
              gain := some gain, discard := discard, code := some code.toNat, reading := some reading
              saturated := 0, clear := min 3 (ch.clear + 1)
              cause := ch.cause && decide (ch.clear < 2) }
            ∧ (cfg.mode = .fixed → gain = g ∧ discard = false)
            ∧ (cfg.mode = .auto → 1800 < d → 1 < g → gain = g / 2 ∧ discard = true)
            ∧ (cfg.mode = .auto → d < 400 → g < cfg.gain → gain = g * 2 ∧ discard = true)
            ∧ (cfg.mode = .auto → ¬ (1800 < d ∧ 1 < g) → ¬ (d < 400 ∧ g < cfg.gain) →
              gain = g ∧ discard = false))
          ∧ (∀ x, c = .pressure x → ch.cause = false → (t.afe.chan.get c).cause = true →
            (t.fault (.pressure x)).active = true)
          ∧ (∀ x, c = .pressure x → ch.cause = true → (t.afe.chan.get c).cause = false →
            (s.afe.sup.get x).cause = false → (t.fault (.pressure x)).active = false)
          ∧ (∀ m, c = .force m → ch.cause = false → (t.afe.chan.get c).cause = true →
            (t.fault (.edFeedback m)).active = true)
          ∧ (∀ m, c = .force m → ch.cause = true → (t.afe.chan.get c).cause = false →
            (t.fault (.edFeedback m)).active = false)
          ∧ ((saturated = true → (cfg.mode = .fixed ∨ g = 1) ∧ (ch.cause = true ∨ ch.saturated < 2)) →
            (saturated = false → ch.cause = false ∨ ch.clear < 2) →
            (∀ m, c = .force m → ∃ (u : State) (readers : List (State → State)),
              u = { s with afe := { s.afe with chan := t.afe.chan }, free := u.free }
              ∧ readers.Perm [rerun, hillReading] ∧ t = inOrder readers u)
            ∧ ∀ (x : Bogie) (v : Supervision) (expected : Nat), c = .pressure x → s.afe.sup.get x = v →
              expected = (if s.dumpOpen x then 0 else s.pressure x) →
              t = { s with afe := t.afe } ∧ (∀ y, y ≠ x → t.afe.sup.get y = s.afe.sup.get y)
              ∧ (v.steady ≠ .complete → t.afe.sup.get x = v)
              ∧ (v.steady = .complete → 800 + s.pressure x / 10 < (reading - expected).natAbs →
                t.afe.sup.get x = { v with
                  agree := none
                  disagree := if v.cause then none
                    else some (v.disagree.getD (s.clock + 600000)) })
              ∧ (v.steady = .complete → (reading - expected).natAbs ≤ 800 + s.pressure x / 10 →
                t.afe.sup.get x = { v with
                  disagree := none
                  agree := if v.cause then some (v.agree.getD (s.clock + 600000)) else none }))
          ∧ t.wsc = s.wsc ∧ t.ref = s.ref ∧ t.rlq = s.rlq ∧ t.sfc.cfg = s.sfc.cfg)

/-- R160 to R163, R181: the expiries of a bogie's three supervision timers. -/
def Obligations.SupervisionTimers : Prop :=
  ∀ (x : Bogie) (v : Supervision) (s : State), s.afe.sup.get x = v →
    (s.confirmExpired v.steady = true → exec (.steadyTimerExpiry x) s = .next { s with
      afe := { s.afe with sup := s.afe.sup.set x { v with steady := .complete } } })
    ∧ (s.expired v.disagree = true →
      ((s.fault (.pressure x)).active = true → exec (.disagreementTimerExpiry x) s = .next { s with
        afe := { s.afe with sup := s.afe.sup.set x { v with disagree := none, cause := true } } })
      ∧ ((s.fault (.pressure x)).active = false → ∃ t, exec (.disagreementTimerExpiry x) s = .next t
        ∧ (t.afe.sup.get x).cause = true ∧ (t.afe.sup.get x).disagree = none
        ∧ (t.fault (.pressure x)).active = true ∧ (t.fault (.pressure x)).latched = true
        ∧ (∀ id, id ≠ .pressure x → (∀ e, id ≠ .sandEmpty e) → t.fault id = s.fault id)
        ∧ (s.sfc.opState = .active → (∃ y, y ≠ x ∧ (s.fault (.pressure y)).active = true) →
          t.sfc.opState = .failsafe)
        ∧ (s.sfc.opState ≠ .active ∨ (∀ y, y ≠ x → (s.fault (.pressure y)).active = false) →
          t.sfc.opState = s.sfc.opState ∧ t.snd = s.snd ∧ t.stu = s.stu ∧ t.hhu = s.hhu ∧ t.adh = s.adh)
        ∧ t.wsc = s.wsc ∧ t.ref = s.ref ∧ t.rlq = s.rlq ∧ t.sfc.cfg = s.sfc.cfg))
    ∧ (s.expired v.agree = true →
      ((s.afe.chan.pressure.get x).cause = true → exec (.agreementTimerExpiry x) s = .next { s with
        afe := { s.afe with sup := s.afe.sup.set x { v with agree := none, cause := false } } })
      ∧ ((s.afe.chan.pressure.get x).cause = false → exec (.agreementTimerExpiry x) s = .next { s with
        afe := { s.afe with sup := s.afe.sup.set x { v with agree := none, cause := false } }
        sfc := { s.sfc with
          faults := s.sfc.faults.set (.pressure x) { s.fault (.pressure x) with active := false } } }))

/-- R166 to R170, R173: an axle sample arrives at STU: the filter, the firing, its suppression, and the end
of an episode. R169, R172: floors that rise from 0. R165, R172: the change of demand mode that ends an
application, whose CLOSED reports carry the count after it. -/
def Obligations.TripArrival : Prop :=
  (∀ (x : Axle) (p : Sample) (s t : State) (y : Bogie) (r : BogieStu) (cfg : Trip) (dir σ : Int)
    (counts : Prop), tripArrival x p s = t → y = x.bogie → s.stu.bogie.get y = r →
    s.sfc.cfg.trip.get y = cfg → dir = (if s.travel = .forward then 1 else -1) →
    σ = Int.tdiv ((s.ref.speed * dir - p.v * dir) * 1000) (max |s.ref.speed * dir| 1000) →
    (counts ↔ s.sfc.opState = .active ∧ (s.mode = .brake ∨ s.mode = .emergency)
      ∧ 1000 ≤ s.ref.speed.natAbs ∧ r.disabled = false ∧ s.adhState x ≠ .isolated ∧ s.adhState x ≠ .fault
      ∧ p.flags.isolated = false ∧ p.flags.implausible = false
      ∧ ((cfg.source ≠ .slip ∧ p.a * dir ≤ -(cfg.decel : Int))
        ∨ (cfg.source ≠ .decel ∧ (cfg.slip : Int) ≤ σ))) →
    t = { s with stu := t.stu, bld := t.bld, afe := { s.afe with sup := t.afe.sup }, lnk := t.lnk }
    ∧ (r.episode = none →
      (¬ counts → t = { s with stu := { s.stu with counter := s.stu.counter.set x 0 } })
      ∧ (counts → cfg.filter ≤ s.stu.counter.get x → t = s)
      ∧ (counts → s.stu.counter.get x + 1 < cfg.filter → t = { s with stu := { s.stu with
          counter := s.stu.counter.set x (s.stu.counter.get x + 1) } })
      ∧ (counts → s.stu.counter.get x + 1 = cfg.filter →
        (0 < s.floor y → r.suppressed = true → t = { s with stu := { s.stu with
          counter := s.stu.counter.set x cfg.filter } })
        ∧ (0 < s.floor y → r.suppressed = false → t = { s with lnk := t.lnk, stu := {
            counter := s.stu.counter.set x cfg.filter
            bogie := s.stu.bogie.set y { r with suppressed := true } } }
          ∧ reported (.trip y x .suppressed σ p.a s.ref.speed 0 0 s.nowMs) t)
        ∧ (s.floor y = 0 → cfg.mode = .reportOnly → t = { s with lnk := t.lnk, stu := { s.stu with
            counter := s.stu.counter.set x cfg.filter } }
          ∧ reported (.trip y x .none σ p.a s.ref.speed 0 0 s.nowMs) t)
        ∧ (s.floor y = 0 → cfg.mode = .autoDump →
          t.stu = {
            counter := (s.stu.counter.set y.axles.1 0).set y.axles.2 0
            bogie := s.stu.bogie.set y { r with
              episode := some ⟨x, s.nowMs⟩, limitTimer := some (s.clock + cfg.limit * 1000) } }
          ∧ t.bld.out.get y = .steady 0
          ∧ reported (.trip y x .dump σ p.a s.ref.speed r.exhausted 0 s.nowMs) t)))
    ∧ ∀ ep, r.episode = some ep →
      (ep.axle ≠ x → t = s)
      ∧ (ep.axle = x → ∀ lost : Prop,
        (lost ↔ s.adhState x = .isolated ∨ s.adhState x = .fault ∨ p.flags.isolated = true) →
        (¬ lost → p.flags.implausible = true ∨ (s.adhesion.creep : Int) ≤ σ → t = s)
        ∧ ∀ cause, (lost ∧ cause = .axleLost)
            ∨ (¬ lost ∧ p.flags.implausible = false ∧ σ < s.adhesion.creep ∧ cause = .recovered) →
          t.stu = {
            counter := (s.stu.counter.set y.axles.1 0).set y.axles.2 0
            bogie := s.stu.bogie.set y { r with episode := none, limitTimer := none } }
          ∧ reported (.trip y x (.closed cause) σ p.a s.ref.speed r.exhausted (s.nowMs - ep.since)
              s.nowMs) t))
  ∧ (∀ (rose : PerBogie Bool) (causes : PerBogie AimCause) (s t : State),
    tripFloorRise rose causes s = t →
    (∀ y, rose.get y = true → t.stu.bogie.get y = { s.stu.bogie.get y with
        episode := none
        limitTimer := if (s.stu.bogie.get y).episode = none then (s.stu.bogie.get y).limitTimer
          else none }
      ∧ ∀ ep, (s.stu.bogie.get y).episode = some ep → reported (.trip y ep.axle (.closed .floor) 0 0
          s.ref.speed (s.stu.bogie.get y).exhausted (s.nowMs - ep.since) s.nowMs) t)
    ∧ ∀ y, rose.get y = false → t.stu.bogie.get y = s.stu.bogie.get y)
  ∧ ∀ (old new : Mode) (s t : State), tripModeChange old new s = t → s.sfc.opState = .active →
    old = .brake ∨ old = .emergency → new = .coast ∨ new = .drive →
    t.stu.counter = ⟨0, 0, 0, 0, 0, 0⟩
    ∧ ∀ (y : Bogie) (r : BogieStu), s.stu.bogie.get y = r →
      t.stu.bogie.get y = {
        episode := none, limitTimer := if r.episode = none then r.limitTimer else none
        exhausted := 0, disabled := false, suppressed := false }
      ∧ ∀ ep, r.episode = some ep → reported (.trip y ep.axle (.closed .mode) 0 0 s.ref.speed 0
          (s.nowMs - ep.since) s.nowMs) t

/-- R171 to R173: the dump limit of an open episode expires. In EMERGENCY the ramp is the model's reading
(log 40). -/
def Obligations.DumpLimit : Prop :=
  ∀ (x : Bogie) (r : BogieStu) (ep : Episode) (n : Nat) (s : State), s.stu.bogie.get x = r →
    r.episode = some ep → s.expired r.limitTimer = true → n = min 3 (r.exhausted + 1) →
    ∃ t, exec (.dumpLimitTimerExpiry x) s = .next t
      ∧ t.stu = {
          counter := (s.stu.counter.set x.axles.1 0).set x.axles.2 0
          bogie := s.stu.bogie.set x { r with
            episode := none, limitTimer := none, exhausted := n
            disabled := r.disabled || decide (n = 3) } }
      ∧ reported (.trip x ep.axle (if n = 3 then .disabled else .closed .limit) 0 0 s.ref.speed n
          (s.nowMs - ep.since) s.nowMs) t
      ∧ (s.sfc.opState = .active → s.bld.out.get x = .steady 0 → target t x ≠ 0 →
        t.bld.out.get x = .ramp 0 s.nowMs (target t x))
      ∧ t = { s with stu := t.stu, bld := t.bld, afe := { s.afe with sup := t.afe.sup }, lnk := t.lnk }

/-- R181, with what R73, R91, R116, R136, R155, R164 and R172 say of FAILSAFE entry. -/
def Obligations.ReferenceLostTimer : Prop :=
  ∀ s : State, s.expired s.sfc.refLostTimer = true →
    (s.sfc.opState ≠ .active → exec .referenceLostTimerExpiry s
      = .next { s with sfc := { s.sfc with refLostTimer := none } })
    ∧ (s.sfc.opState = .active → ∃ t, exec .referenceLostTimerExpiry s = .next t
      ∧ reported (.operatingState .failsafe .active .failsafeReference s.sfc.sent s.nowMs) t
      ∧ t.sfc.opState = .failsafe ∧ t.cv = false ∧ t.sfc.refLostTimer = none
      ∧ t.sfc.cfg = s.sfc.cfg ∧ t.sfc.sent = s.sfc.sent ∧ t.wsc = s.wsc ∧ t.rlq = s.rlq
      ∧ t.ref = s.ref ∧ t.afe.chan = s.afe.chan
      ∧ (∀ id, (∀ e, id ≠ .sandEmpty e) → t.fault id = s.fault id)
      ∧ (∀ x, t.adh.bogie.get x = BogieAdh.powerOn)
      ∧ (∀ x, t.adh.axle.get x = if s.unwatched x then { s.adh.axle.get x with recover := 0 }
          else ⟨.grip, 0⟩)
      ∧ t.hhu = { s.hhu with
          state := .off, floor := ⟨0, 0, 0⟩, ramp := ⟨none, none, none⟩, acc := PerAxle.of fun _ => 0
          confirm := .stopped, takeUp := none, blocked := false, rearm := true }
      ∧ t.snd.queue = [] ∧ t.snd.valve = ⟨.closed, .closed⟩ ∧ t.snd.repeatTimer = none
      ∧ t.snd.sanded = s.snd.sanded ∧ t.snd.arrivals = s.snd.arrivals
      ∧ (∀ e, t.snd.level.get e = s.snd.level.get e - (match s.snd.valve.get e with
          | .pouring shot => (shot.flow * (s.nowMs - shot.since).toNat + 999) / 1000
          | .closed => 0
          | .recovery _ => 0))
      ∧ (∀ e shot, s.snd.valve.get e = .pouring shot → t.snd.level.get e = 0 →
        (t.fault (.sandEmpty e)).active = true)
      ∧ t.stu = Stu.powerOn
      ∧ t.bld.demand = { s.bld.demand with timer := none }
      ∧ (∀ x, t.bld.out.get x = .steady (s.blend.pFs.get x))
      ∧ (∀ x, t.afe.sup.get x = {
          moving := false, steady := .running (s.clock + 300000), disagree := none, agree := none
          cause := (s.afe.sup.get x).cause })
      ∧ t.bld.duty = ⟨0, 0⟩ ∧ t.bld.modeDrive = false ∧ t.bld.modeBrake = false ∧ t.bld.track = true)
end

