-- ==== Sys2Proof/Tests/Slice0.lean ====
section
/-! SUPPORT. Tests on fixed values: what `WellFormed` refuses, worked figures of the spec, one step of a small
state for the commands, and for every statement with hypotheses operands and a state that meet them. -/

namespace Sys2Proof.Tests

-- Each theorem here is one evaluation by the kernel: one after another, they need one thread.
set_option Elab.async false

open Sys2Proof.Machine

/-! Small states -/

/-- Reset, with the transmit line free and choices in the store. -/
def idle : State :=
  { State.reset with lnk := { Lnk.powerOn with inFlight := none }, free := ⟨List.replicate 16 0, 0⟩ }

/-- Three replies wait: the last state that takes a request. -/
def nearFull : State :=
  { idle with lnk := { Lnk.powerOn with replies := List.replicate 3 ⟨0x01, 0, .pending⟩ } }

def full : State :=
  { idle with lnk := { Lnk.powerOn with replies := List.replicate 4 ⟨0x01, 0, .pending⟩ } }

def restarting : State := { idle with sfc := { Sfc.powerOn with restartPending := true } }

def vehicle : Vehicle := vehicleOf [480, 175, 130, 175, 200, 120, 80, 100, 40, 20, 80]

def blend : Blend := blendOf
  [300, 300, 200, 200, 1500, 500, 10, 12, 10, 6000, 5000, 6000, 8000, 400, 100, 100, 100, 50, 3000,
   3100, 3200, 4000, 3000, 4100]

def sections : Sections :=
  { Sections.powerOn with
    vehicle := some vehicle, axle := PerAxle.of fun _ => some ⟨80, 10, 6800⟩
    analog := PerAnalog.of fun _ => some ⟨.auto, 16, 1000⟩, blend := some blend }

/-- All required sections taken, in the operating state named. -/
def configured (o : OpState) : State :=
  { idle with clock := 5000000, sfc := { Sfc.powerOn with opState := o, cfg := sections, sent := 0x3F7F } }

def active : State := configured .active

def withDemand (s : State) (m : Mode) : State := { s with bld.demand.mode := m }

def restSample : Sample where
  seq := 0
  net := 0
  duration := 10000
  windows := 1
  v := 0
  a := 0
  flags := ⟨true, false, false, false, false, false, false⟩
  endTime := 0
  scale := .wheel 2136288 80

/-- A sample at 5000 mm/s that closes now. -/
def runSample : Sample :=
  { restSample with v := 5000, endTime := 5000000, flags := ⟨false, false, false, false, false, false, false⟩ }

/-- ACTIVE at 5000 mm/s, every axle channel too, with the reference in a mode. -/
def running (m : RefMode) : State :=
  { active with
    wsc.axle := PerAxle.of fun _ => { Channel.powerOn with latest := some runSample }
    ref := { Ref.powerOn with active := m, speed := 5000, updateTime := some 4990000 } }

/-- READY with every axle channel at rest. -/
def atRest : State :=
  { configured .ready with wsc.axle := PerAxle.of fun _ => { Channel.powerOn with latest := some restSample } }

def window (forward reverse periods due : Nat) : Window where
  forward := forward
  reverse := reverse
  first := none
  last := none
  periods := periods
  drop := false
  scale := .wheel 2136288 80
  due := due

def measuring (w : Window) : State :=
  { active with wsc.axle.a1 := { Channel.powerOn with state := .measuring w } }

def faulted (id : FaultId) (r : FaultRec) : State := { active with sfc.faults := active.sfc.faults.set id r }

def raisedRec : FaultRec := ⟨true, true, 255, 0, 0⟩

def latchedRec : FaultRec := ⟨false, true, 1, 0, 0⟩

def segment (id : Nat) : Segment := ⟨id, 40, 80, .wet, false, none⟩

/-- A route of `n` segments of 40 m, in its head at the position given. -/
def onRoute (n pos : Nat) (s : State) : State :=
  { s with rlq := ⟨(List.range n).map fun i => segment (i + 1), some pos, some .forward, false⟩ }

def word (id length : BitVec 16) : SegmentWord := ⟨id, length, 0, 0, 0, 0⟩

def entry (source : SandSource) (e : Side) (shots : Nat) : SandEntry := ⟨source, e, false, shots, some 0, 7⟩

def openShot : Shot := ⟨.manual, 7, 2000, 12, 3000, 2000, 5000000⟩

/-- The eight entries that fill the sand queue, MANUAL ones apart. -/
def fullSand : List SandEntry :=
  [entry .adhesion .one 10, entry .adhesion .two 1, entry .hillStart .one 10, entry .hillStart .two 1,
   entry .rollback .one 1, entry .rollback .two 10, entry .emergency .one 1, entry .emergency .two 10]

def sanding (q : List SandEntry) (v : Valve) : State :=
  { active with snd := { Snd.powerOn with queue := q, valve := ⟨v, v⟩, level := ⟨50, 50⟩ } }

def goodFrame (kind : Byte) (body : List Byte) : RxFrame where
  kind := kind
  tag := 9
  body := body
  crc := crc16 ([BitVec.ofNat 8 body.length, kind, 9] ++ body)
  framingError := false

/-- The state after a command; the state before where it stops (none does). -/
def after (c : Instr) (s : State) : State :=
  match exec c s with
  | .next t => t
  | .fault _ => s
  | .refused _ => s

/-! What is well formed -/

theorem test_wf_refuses_long_frame :
    (Instr.frameReceived (goodFrame 1 (List.replicate 256 0))).wf = false := by decide +kernel

theorem test_wf_refuses_wide_field : (Instr.configure 0 7 [65536, 10]).wf = false := by decide

theorem test_wf_refuses_wide_extra_field : (Instr.configure 0 20 [256]).wf = false := by decide

theorem test_wf_refuses_many_fields : (Instr.configure 0 20 (List.replicate 97 0)).wf = false := by
  decide +kernel

theorem test_wf_refuses_many_records :
    (Instr.segmentAppend 0 10 (List.replicate 10 (word 1 1))).wf = false := by decide

theorem test_wf_admits : (Instr.configure 0 7 [65535, 255]).wf = true
    ∧ (Instr.segmentAppend 0 9 (List.replicate 9 (word 1 1))).wf = true := by decide

/-! Worked figures of the spec -/

/-- R190. -/
theorem test_crc : crc16 [0x31, 0x32, 0x33, 0x34, 0x35, 0x36, 0x37, 0x38, 0x39] = 0x29B1 := by decide +kernel

/-- Table 3-4: five of its rows. -/
theorem test_slip_figures :
    slipOf { withDemand active .drive with ref.speed := 5003 } 5920 = 183
    ∧ slipOf { withDemand active .drive with ref.speed := 5000 } 4951 = -9
    ∧ slipOf { withDemand active .drive with ref.speed := 400 } 450 = 50
    ∧ slipOf { withDemand active .brake with ref.speed := 8000 } 7100 = 112
    ∧ slipOf { withDemand active .brake with ref.speed := 600 } (-150) = 750 := by decide +kernel

/-- Table 5-2, second line. -/
theorem test_stage_one : let t := rerun { active with snd.sanded := 1, rlq := (onRoute 1 0 active).rlq
                                                      adh.bogie.a.limit := 600 }
    t.bld.mu = 160 ∧ t.bld.fmax = ⟨274, 204, 274⟩ ∧ t.bld.cap.a = 164 := by decide +kernel

/-! Commands, one step each -/

/-- A CONFIGURE of the last missing section moves the part to READY. -/
theorem test_configured : let t := after (.configure 1 12 [0, 16, 1000]) { configured .unconfigured with
      sfc.sent := 0x2F7F }
    t.sfc.opState = .ready ∧ t.bld.out = ⟨.steady 3000, .steady 3100, .steady 3200⟩ := by decide +kernel

theorem test_start : (after (.start 1) atRest).sfc.opState = .active
    ∧ (after (.start 1) atRest).hhu.state = .holding := by decide +kernel

theorem test_stop : (after (.stop 1) active).sfc.opState = .ready := by decide +kernel

theorem test_demand : (after (.demand 1 2 0 300 1) active).bld.demand
    = ⟨.brake, .forward, 300, true, false, none, some 5400000⟩ := by decide +kernel

theorem test_tick_queues_what_is_due :
    (match step { idle with lnk.gapTimer := some 1 } with
      | .next t => decide (t.pending = [.gapTimerExpiry] ∧ t.clock = 1)
      | .fault _ => false
      | .refused _ => false) = true := by decide +kernel

theorem test_edge :
    ((after (.speedSensorEdge (.lag .a1) ⟨true, false⟩) (measuring (window 0 0 1 0))).wsc.axle.a1).state
      = .measuring { window 0 1 1 0 with first := some 5000000, last := some 5000000 } := by decide +kernel

/-- R3: the four edges of a tooth that passes in FORWARD, in their order, and the same four back; R12. -/
theorem test_edge_direction :
    (∀ e ∈ [(SensorLine.lead .t2, LineEdge.mk true false), (.lag .t2, ⟨true, true⟩), (.lead .t2, ⟨false, true⟩),
      (.lag .t2, ⟨false, false⟩)], edgeDirection e.1 e.2 = .forward)
    ∧ (∀ e ∈ [(SensorLine.lag .t2, LineEdge.mk true false), (.lead .t2, ⟨true, true⟩), (.lag .t2, ⟨false, true⟩),
      (.lead .t2, ⟨false, false⟩)], edgeDirection e.1 e.2 = .reverse)
    ∧ edgeDirection .pulse ⟨true, false⟩ = .reverse ∧ edgeDirection .pulse ⟨false, true⟩ = .forward
    ∧ sensorChan (.lag .t2) = .axle .t2 ∧ sensorChan .pulse = .ground := by
  decide

/-- R194, R199: the revision number in four bytes. -/
theorem test_identity : identityBody idle = [0x48, 0x47, 0x36, 0, 0, 0, 1, 0, 0, 0, 0] := by decide +kernel

/-- Table 8-4: RESTART sets the discard flag of an UNSET channel too. -/
theorem test_restart_sets_discard :
    (restartAfe idle).afe.chan.get (.force .b) = { AnalogChan.powerOn with discard := true }
    ∧ (restartAfe active).afe.chan.get (.force .b)
      = { AnalogChan.powerOn with gain := some 1, discard := true } := by decide +kernel

theorem test_shot_ends : let s := sanding [entry .manual .one 1] (.pouring openShot)
    (after (.shotTimerExpiry .one) s).snd.level = ⟨26, 50⟩
    ∧ (after (.shotTimerExpiry .one) s).snd.valve.one = .recovery 5300000 := by decide +kernel

/-! Hypotheses that are met, a witness for each clause -/

theorem test_hyp_TickAndOrders :
    [rerun, judgeEnds].Perm [judgeEnds, rerun] ∧ State.reset.pending = [] ∧ sandWf State.reset.snd.queue
    ∧ (sanding fullSand .closed).pending = [] ∧ sandWf (sanding fullSand .closed).snd.queue
    ∧ (Laws.requestBody (.stop 1)).isSome = true :=
  ⟨List.Perm.swap _ _ _, by decide +kernel⟩

theorem test_hyp_EveryCommandCompletes :
    (∃ u, expiryDue .gapTimerExpiry u = true) ∧ expiryDue .gapTimerExpiry idle = false
    ∧ ∀ x y, Instr.stop 0 ≠ .powerOnReset x y :=
  ⟨⟨{ idle with lnk.gapTimer := some 0 }, by decide⟩, by decide, by intros; simp⟩

theorem test_hyp_StepKeepsLink :
    let s : State := { faulted .link raisedRec with
      pending := [.frameTransmitted]
      lnk := { full.lnk with discards := 4, reports := List.replicate 16 Report.powerOn } }
    (∃ t, step s = .next t) ∧ linkWf s := ⟨⟨_, rfl⟩, by decide +kernel⟩

theorem test_hyp_StepKeepsFaultTable :
    let s : State := { faulted .demandStale raisedRec with pending := [.demand 1 0 0 0 0] }
    (∃ t, step s = .next t) ∧ faultsWf s := by
  refine ⟨⟨_, rfl⟩, fun id => ?_⟩
  have h : ∀ i ∈ FaultId.all, recordWf ((faulted .demandStale raisedRec).fault i) := by decide +kernel
  exact h id (by cases id <;> (try rename_i x; cases x) <;> decide)

theorem test_hyp_StepKeepsSandQueue :
    let s : State := { sanding fullSand (.recovery 5000000) with pending := [.recoveryTimerExpiry .one] }
    (∃ t, step s = .next t) ∧ sandWf s.snd.queue := ⟨⟨_, rfl⟩, by decide +kernel⟩

theorem test_hyp_StepKeepsRoute :
    let s : State := { onRoute 32 39999 active with pending := [.routeFlush 1] }
    (∃ t, step s = .next t) ∧ routeWf s.rlq := ⟨⟨_, rfl⟩, by decide +kernel⟩

theorem test_hyp_StepKeepsConfigured :
    let s : State := { active with pending := [.stop 1] }
    (∃ t, step s = .next t) ∧ configuredWf s.sfc := ⟨⟨_, rfl⟩, by decide⟩

theorem test_hyp_StepKeepsRestartReply :
    let s : State := { restarting with
      pending := [.frameTransmitted], lnk.inFlight := some (.reply ⟨0x05, 1, .ok []⟩) }
    (∃ t, step s = .next t) ∧ restartWf s = true := ⟨⟨_, rfl⟩, by decide⟩

theorem test_hyp_RequestReadBackFromBody :
    ∀ i ∈ [Instr.positionFix 255 0xFFFF 0xFFFFFFFF, .configure 1 7 [65535, 255], .configure 1 20 [255],
      .segmentAppend 1 4 (List.replicate 4 (word 0xFFFF 0xFFFF)), .demand 1 255 255 0xFFFF 255],
    i.wf = true ∧ Laws.lengthFits i = true ∧ (Laws.requestBody i).isSome = true := by decide +kernel

theorem test_hyp_BytesMakeTheFrame :
    idle.lnk.framer = .hunting ∧ (goodFrame 1 (List.replicate 96 0)).framingError = false
    ∧ (goodFrame 1 (List.replicate 96 0)).body.length ≤ 96 := by decide

theorem test_hyp_FramerAndDiscards :
    let inFrame : State := { idle with lnk.framer := .inFrame [2], lnk.gapTimer := some 0 }
    let empty : State := { idle with lnk.framer := .inFrame [] }
    idle.lnk.framer = .hunting ∧ (0xD0 : Byte) ≠ 0xD1
    ∧ inFrame.expired inFrame.lnk.gapTimer = true ∧ inFrame.lnk.framer = .inFrame [2]
    ∧ empty.lnk.framer = .inFrame [] ∧ 96 < (97 : Byte).toNat
    ∧ 96 < (goodFrame 1 (List.replicate 97 0)).body.length
    ∧ ({ goodFrame 1 [] with framingError := true } : RxFrame).framingError = true
    ∧ idle.sfc.restartPending = false ∧ crc16 [0, 1, 9] ≠ 0 := by decide +kernel

theorem test_hyp_GoodFrameDisposal :
    (Laws.requestBody (.faultClear 1 2 3)).isSome = true ∧ restarting.sfc.restartPending = true
    ∧ full.sfc.restartPending = false ∧ 4 ≤ full.lnk.replies.length ∧ nearFull.lnk.replies.length < 4
    ∧ ReqKind.ofByte? 0x38 = some .statusQuery ∧ requestOf .statusQuery 9 [9] = some (.statusQuery 9 9)
    ∧ requestOf .statusQuery 9 [] = none ∧ ReqKind.ofByte? 0x40 = none
    ∧ (goodFrame 0x38 [9]).body.length ≤ 96 ∧ (goodFrame 0x38 [9]).framingError = false := by
  decide +kernel

theorem test_hyp_TransmitOrder :
    let busy (r : List Reply) (p : List Report) : State :=
      { State.reset with lnk := { Lnk.powerOn with replies := r, reports := p } }
    idle.lnk.inFlight = none ∧ (busy [] []).lnk.inFlight = some (.report Report.powerOn)
    ∧ restartReplyInFlight (busy [] []) = false ∧ (busy [] []).lnk.replies = []
    ∧ (busy [⟨1, 2, .pending⟩] []).lnk.replies = [⟨1, 2, .pending⟩]
    ∧ (busy [] [Report.powerOn]).lnk.reports = [Report.powerOn] := by decide

/-- IdentifyAnswers, FaultQueryAnswers, and the first hypothesis of every statement about a request. -/
theorem test_hyp_accepts : accepts nearFull ∧ accepts active ∧ activeAccepts active := by decide

theorem test_hyp_StatusQueryAnswers :
    accepts nearFull ∧ 9 < (10 : Byte).toNat ∧ (9 : Byte).toNat ≤ 9 := by decide

theorem test_hyp_RaiseAndReport :
    ((faulted .ground raisedRec).fault .ground).active = true ∧ (active.fault .ground).active = false
    ∧ ((faulted .ground { latchedRec with count := 255 }).fault .ground).active = false
    ∧ 16 ≤ ({ full.lnk with reports := List.replicate 16 Report.powerOn } : Lnk).reports.length
    ∧ ({ full.lnk with reports := List.replicate 15 Report.powerOn } : Lnk).reports.length < 16 := by
  decide

theorem test_hyp_FaultClear :
    accepts nearFull ∧ 8 ≤ (8 : Byte).toNat ∧ (8 : Byte) ≠ 255 ∧ (254 : Byte) ≠ 255
    ∧ (∃ l, faultInstances (2 : Byte).toNat = some l ∧ l.length ≤ (3 : Byte).toNat
      ∧ l[(2 : Byte).toNat]? = some (.pressure .b))
    ∧ ((faulted (.pressure .b) raisedRec).fault (.pressure .b)).active = true
    ∧ ((faulted (.pressure .b) latchedRec).fault (.pressure .b)).active = false
    ∧ faultInstances (7 : Byte).toNat = some [.link] ∧ ∀ x, FaultId.link ≠ .pressure x :=
  ⟨by decide, by decide, by decide, by decide, ⟨_, rfl, by decide, rfl⟩, by decide, by decide, rfl,
    fun x => by cases x <;> decide⟩

def openEpisode : BogieStu :=
  { BogieStu.powerOn with episode := some ⟨.a1, 4000⟩, limitTimer := some 5000000, exhausted := 2 }

def withDump (x : Bogie) : State := { active with stu.bogie := active.stu.bogie.set x openEpisode }

theorem test_hyp_ControlRequestsRefused :
    accepts nearFull ∧ fieldsFit 19 [2, 2, 0, 3500, 150] = false ∧ 19 < (20 : Byte).toNat
    ∧ (19 : Byte).toNat ≤ 19 ∧ fieldsFit 15 [300, 1500, 20, 300, 8000, 6000, 50, 800, 40] = true
    ∧ shut active 15 ∧ fieldsFit 16 [12, 12, 2000, 500] = true ∧ ¬ shut active 16
    ∧ fieldsFit 19 [2, 2, 0, 3500, 150, 1200] = true ∧ dumping (withDump .b) 19 ∧ ¬ dumping active 19
    ∧ fieldOutOfRange 19 [2, 2, 0, 3500, 150, 299] = some 6 ∧ fieldOutOfRange 19 [3, 3, 2] = some 1
    ∧ accepts active ∧ active.sfc.opState ≠ .ready
    ∧ (let s : State := { atRest with sfc.faults := atRest.sfc.faults.set (.pressure .t) latchedRec }
      s.sfc.opState = .ready ∧ (s.fault (.pressure .t)).latched = true)
    ∧ (configured .ready).sfc.opState = .ready
    ∧ (∀ x ∈ Bogie.all, ((configured .ready).fault (.pressure x)).latched = false)
    ∧ ((configured .ready).wsc.axle.get .b2).latest = none
    ∧ (let s : State := { active with ref.active := .lost }
      accepts s ∧ s.sfc.opState = .active ∧ s.ref.active ≠ .standstill)
    ∧ 4 ≤ (4 : Byte).toNat ∧ (3 : Byte).toNat < 4 ∧ 2 ≤ (2 : Byte).toNat
    ∧ (1 : Byte).toNat < 2 ∧ 2000 < (2001 : BitVec 16).toNat ∧ (2000 : BitVec 16).toNat ≤ 2000
    ∧ nearFull.sfc.opState ≠ .active := by decide +kernel

/-- Table 9-5: each section at the ends of its ranges, and just past them at its first, its last and its
cross-field checks. -/
theorem test_section_ranges :
    (∀ p ∈ [(0, [1000, 400, 400, 200, 20, 400, 20, 400, 150, 200, 150]), (0, [150, 30, 30, 90, 20, 20, 20, 20, 0, 5, 0]),
        (1, [60, 5, 6000]), (6, [200, 50, 7400]), (7, [100, 5]), (7, [10000, 50]),
        (8, [0, 1, 1]), (12, [1, 16, 65535]),
        (13, [50, 50, 0, 0, 500, 300, 1, 1, 1, 1000, 1000, 1000, 500, 100, 0, 0, 0, 10, 1000, 1000, 1000,
          1000, 1000, 1000]),
        (13, [1000, 1000, 1000, 1000, 5000, 4800, 100, 100, 100, 16000, 16000, 16000, 20000, 1000, 1000, 800,
          800, 500, 0, 0, 0, 0, 0, 0]),
        (14, [10, 30, 1000, 300, 10, 0, 0, 50, 8000, 500, 500, 200, 500]),
        (14, [100, 300, 8000, 900, 200, 500, 1000, 1000, 20000, 3000, 3000, 3000, 5000]),
        (15, [0, 0, 0, 100, 2000, 500, 20, 500, 0]), (15, [1000, 16000, 200, 2000, 20000, 20000, 200, 1000, 150]),
        (16, [2, 2, 500, 0]), (16, [100, 100, 10000, 3000]), (17, [0, 1, 0, 1500, 50, 300]),
        (19, [2, 4, 1, 8000, 400, 3000])], fieldOutOfRange p.1 p.2 = none)
    ∧ fieldOutOfRange 0 [149, 29] = some 1 ∧ fieldOutOfRange 0 [1000, 400, 400, 199] = some 4
    ∧ fieldOutOfRange 0 [1000, 400, 400, 200, 20, 20, 20, 20, 0, 5, 151] = some 11
    ∧ fieldOutOfRange 6 [200, 50, 7401] = some 3 ∧ fieldOutOfRange 7 [99, 5] = some 1
    ∧ fieldOutOfRange 12 [1, 3, 1] = some 2 ∧ fieldOutOfRange 8 [1, 1, 0] = some 3
    ∧ fieldOutOfRange 13 [50, 50, 0, 0, 500, 301] = some 6 ∧ fieldOutOfRange 14 [21, 30] = some 2
    ∧ fieldOutOfRange 14 [10, 30, 1000, 300, 10, 500, 499] = some 7 ∧ fieldOutOfRange 15 [1001] = some 1
    ∧ fieldOutOfRange 16 [2, 2, 500, 3001] = some 4 ∧ fieldOutOfRange 17 [0, 3] = some 2 := by decide +kernel

theorem test_hyp_ConfigureTaken :
    (∀ p ∈ [((1 : Byte), [80, 10, 6800], SectionId.axle .a1), (7, [100, 5], .ground),
        (12, [1, 16, 65535], .analog (.force .b)), (17, [0, 1, 1, 1500, 50, 300], .trip .a),
        (16, [2, 100, 500, 3000], .sand), (0, [480, 175, 130, 175, 200, 120, 80, 100, 40, 20, 80], .vehicle)],
      accepts (configured .ready) ∧ fieldsFit p.1 p.2.1 = true
      ∧ SectionId.ofNumber? p.1.toNat = some p.2.2 ∧ ¬ shut (configured .ready) p.1
      ∧ ¬ dumping (configured .ready) p.1 ∧ fieldOutOfRange p.1.toNat p.2.1 = none)
    ∧ (configured .unconfigured).sfc.opState = .unconfigured
    ∧ allRequiredSent (0x2F7F#24 ||| (1#24 <<< (12 : Byte).toNat)) = true
    ∧ fieldOutOfRange 13 [300, 300, 200, 200, 1500, 500, 10, 12, 10, 6000, 5000, 6000, 8000, 400, 100,
        100, 100, 50, 3000, 3100, 3200, 4000, 3000, 4100] = none
    ∧ (let s := sanding [entry .emergency .one 1] .closed
      accepts s ∧ ¬ shut s 16 ∧ ¬ dumping s 16 ∧ fieldsFit 16 [12, 12, 2000, 500] = true
      ∧ fieldOutOfRange 16 [12, 12, 2000, 500] = none
      ∧ sandCfgOf [12, 12, 2000, 500] = s.sfc.cfg.sand
      ∧ grantee s .one = some (entry .emergency .one 1) ∧ grantee s .two = none) := by decide +kernel

theorem test_hyp_StartTaken :
    accepts atRest ∧ atRest.sfc.opState = .ready
    ∧ (∀ x ∈ Bogie.all, (atRest.fault (.pressure x)).latched = false)
    ∧ (∀ x ∈ Axle.all, (atRest.wsc.axle.get x).latest = some restSample) ∧ restSample.flags.standstill = true
    ∧ atRest.unwatched .b2 = false ∧ atRest.travel = .forward ∧ atRest.eblOpen = false
    ∧ ¬ isUnsupervised atRest .t
    ∧ (let s : State := { atRest with adh.axle := PerAxle.of fun _ => ⟨.isolated, 0⟩
                                      bld.demand.dir := .reverse, eblOpen := true }
      (∀ x ∈ Axle.all, s.unwatched x = true) ∧ s.travel = .reverse)
    ∧ isUnsupervised { atRest with adh.axle.t1 := ⟨.fault, 0⟩, adh.axle.t2 := ⟨.isolated, 0⟩ } .t
    ∧ isUnsupervised { atRest with adh.axle.a1 := ⟨.fault, 0⟩, adh.axle.a2 := ⟨.fault, 0⟩ } .a
    ∧ atRest.hhu.state = .off ∧ (after (.start 1) atRest).hhu.state = .holding
    ∧ (let s : State := { withDemand atRest .drive with bld.demand.effort := 1, bld.demand.dir := .reverse }
      s.hhu.state = .off ∧ s.travel = .reverse) := by decide +kernel

theorem test_hyp_Stop :
    accepts active ∧ active.sfc.opState = .active ∧ active.ref.active = .standstill
    ∧ ¬ ((configured .ready).sfc.opState = .active ∧ (configured .ready).ref.active = .standstill)
    ∧ (sanding [] (.pouring openShot)).snd.valve.get .one = .pouring openShot := by decide

theorem test_hyp_RestartTakesEffect :
    let s : State := { measuring (window 1 0 1 0) with
      sfc.restartPending := true, lnk.inFlight := some (.reply ⟨0x05, 9, .ok []⟩) }
    s.sfc.restartPending = true ∧ s.lnk.inFlight = some (.reply ⟨0x05, 9, .ok []⟩)
    ∧ (s.wsc.get .ground).state = .unset ∧ (s.wsc.get (.axle .a1)).state = .measuring (window 1 0 1 0) := by
  decide

theorem test_hyp_DemandRecord :
    let latched (o : LatchOrigin) (open? : Bool) (r : RefMode) : State :=
      { active with bld.demand.latch := some o, eblOpen := open?, ref.active := r }
    activeAccepts active ∧ Mode.ofCode? (2 : Byte).toNat = some .brake
    ∧ Mode.ofCode? (3 : Byte).toNat = some .emergency ∧ dirOfCode? (1 : Byte).toNat = some .reverse
    ∧ (2000 : BitVec 16).toNat ≤ 2000 ∧ boolOfCode? (1 : Byte).toNat = some true
    ∧ active.bld.demand.latch = none ∧ activeAccepts (latched .demand false .standstill)
    ∧ (latched .demand false .standstill).ref.active = .standstill
    ∧ activeAccepts (latched .demand false .lost) ∧ (latched .demand false .lost).ref.active ≠ .standstill
    ∧ activeAccepts (latched .loop true .standstill) ∧ (latched .loop true .standstill).eblOpen = true
    ∧ (.reverse : Direction) ≠ active.travel ∧ (.forward : Direction) = active.travel
    ∧ (after (.demand 1 3 0 100 0) (latched .demand true .standstill)).bld.demand.effort
        = active.bld.demand.effort
    ∧ (let s : State := { latched .loop true .standstill with
        bld.demand.mode := .emergency, adh.bogie.a.limit := 1000, bld.cap := ⟨7, 0, 0⟩ }
      let t := after (.demand 1 3 0 100 0) s
      t.bld.cap ≠ s.bld.cap ∧ t.bld.demand.effort = t.bld.cap.a + t.bld.cap.t + t.bld.cap.b) := by
  decide +kernel

/-- R111: the DEMAND that clears the latch, with permission and forces unfulfilled, leaves both timers stopped. -/
theorem test_latch_clear_stops_timers :
    let s : State := { active with bld.demand.mode := .emergency, bld.demand.latch := some .demand }
    (after (.demand 1 2 0 2000 1) s).bld.onTimer = none
    ∧ (rerun (after (.demand 1 2 0 2000 1) s)).bld.onTimer = some 5500000 := by decide +kernel

theorem test_hyp_DemandAndTrackTimers :
    (let s : State := { active with bld.demand.timer := some 5000000 }
     s.expired s.bld.demand.timer = true ∧ ¬ (s.eblOpen = true ∧ s.bld.demand.latch = some .loop))
    ∧ (let s : State := { withDemand active .brake with
        bld.demand.permitted := true, bld.onTimer := some 5000000, bld.offTimer := some 5000000 }
      s.sfc.opState = .active ∧ s.mode = .brake ∧ s.bld.demand.permitted = true
      ∧ s.expired s.bld.onTimer = true ∧ s.expired s.bld.offTimer = true) := by decide

theorem test_hyp_EmergencyLoop :
    ({ active with eblOpen := true } : State).eblOpen = true ∧ idle.eblOpen = false
    ∧ idle.sfc.opState ≠ .active ∧ active.eblOpen = false ∧ active.sfc.opState = .active
    ∧ (withDemand active .emergency).eblOpen = false
    ∧ (withDemand active .emergency).mode = .emergency := by decide

/-- R94: a state in DRIVE with an axle in SLIP and the hold in `h`. -/
def driven (h : Machine.Hold) : State :=
  { withDemand active .drive with adh.axle.a1 := ⟨.slip, 1⟩, hhu.state := h, hhu.level := ⟨700, 800, 900⟩ }

/-- R54, R142: the loop's opening out of DRIVE. -/
theorem test_hyp_modeTaken :
    turnsEffort (driven .off) (after .eblOpen (driven .off))
    ∧ (after .eblOpen (driven .off)).adhState .a1 = .grip
    ∧ (after .eblOpen (driven .off)).snd.repeatTimer = some 15000000
    ∧ ¬ turnsEffort active (after .eblOpen active) ∧ active.mode = .coast
    ∧ (after .eblOpen active).snd = (emergencySand active).snd
    ∧ active.snd.queue.any (SandEntry.isFor .emergency .one) = false ∧ active.snd.queue.length < 8
    ∧ (∃ s, s = sanding [] (.pouring openShot) ∧ s.snd.valve.get .one ≠ .closed
      ∧ s.snd.queue.any (SandEntry.isFor .emergency .one) = false)
    ∧ (let s := sanding [] .closed
      let fresh : SandEntry := ⟨.emergency, .one, true, 10, none, s.snd.arrivals⟩
      grantee { s with snd := { s.snd with queue := s.snd.queue ++ [fresh] } } .one = some fresh) :=
  ⟨by decide +kernel, by decide +kernel, by decide +kernel, by decide +kernel, by decide,
    by decide +kernel, by decide, by decide, ⟨_, rfl, by decide⟩, by decide +kernel⟩

/-- R123, R165: the DEMANDs that end a braking application with a dump open, and that leave DRIVE. -/
theorem test_hyp_modeTaken_hold :
    (let s : State := { withDemand active .brake with stu.bogie.t.episode := some ⟨.t1, 4000⟩ }
     s.mode.braking = true ∧ (after (.demand 1 0 0 0 0) s).mode.braking = false
     ∧ (s.stu.bogie.get .t).episode = some ⟨.t1, 4000⟩)
    ∧ (let s : State := { withDemand active .emergency with bld.demand.latch := some .demand }
      s.mode = .emergency ∧ (after (.demand 1 2 0 0 0) s).mode = .brake)
    ∧ (∀ h ∈ [Machine.Hold.off, .takeUp, .releasing, .holding, .rollbackCatch],
      (driven h).mode = .drive ∧ (driven h).ref.active = .standstill
      ∧ (after (.demand 1 2 0 0 0) (driven h)).mode = .brake)
    ∧ (after (.demand 1 2 0 0 0) (driven .releasing)).hhu.floor = ⟨700, 800, 900⟩
    ∧ (let s : State := { active with hhu.state := .holding }
      s.mode ≠ .drive ∧ (after (.demand 1 1 0 1 0) s).mode = .drive
      ∧ (after (.demand 1 1 0 1 0) s).hhu.state = .takeUp
      ∧ (after (.demand 1 1 1 1 0) s).travel ≠ s.travel) := by decide +kernel

theorem test_hyp_RerunCapsAndTrack :
    idle.sfc.cfg.vehicle = none ∧ active.sfc.cfg.vehicle = some vehicle ∧ idle.sfc.opState ≠ .active
    ∧ active.sfc.opState = .active ∧ (withDemand active .emergency).mode = .emergency
    ∧ active.mode = .coast ∧ (withDemand active .drive).mode = .drive
    ∧ (withDemand active .brake).mode = .brake ∧ active.bld.demand.permitted = false
    ∧ active.bld.track = false
    ∧ (let s : State := { withDemand active .brake with bld.demand.permitted := true, bld.track := true }
      s.bld.demand.permitted = true ∧ s.bld.track = true ∧ s.mode = .brake) := by decide

theorem test_hyp_RerunDrive :
    (∃ t, rerunWith allPlain (withDemand active .drive) = t) ∧ active.sfc.opState = .active
    ∧ (withDemand active .drive).mode = .drive ∧ active.mode = .coast ∧ active.hhu.state ≠ .rollbackCatch
    ∧ ({ withDemand active .drive with hhu.state := .rollbackCatch } : State).hhu.state = .rollbackCatch
    ∧ 0 < active.blend.driveMax.a ∧ 0 < active.blend.driveMax.b :=
  ⟨⟨_, rfl⟩, by decide⟩

theorem test_hyp_RerunBrake :
    500 + 200 ≤ 700 ∧ (∃ t, rerunWith allPlain (withDemand active .brake) = t)
    ∧ active.sfc.opState = .active ∧ active.mode = .coast ∧ (withDemand active .brake).mode = .brake
    ∧ (withDemand active .emergency).mode = .emergency
    ∧ fadeCap 200 700 500 700 = 200 ∧ fadeCap 200 700 500 500 = 0 ∧ fadeCap 200 700 500 501 = 1 :=
  ⟨by decide, ⟨_, rfl⟩, by decide⟩

theorem test_hyp_PressureOutputs :
    let s : State := { withDemand active .emergency with
      bld.out := ⟨.steady 1000, .ramp 1000 5000 2000, .ramp 0 4000 1000⟩ }
    s.bld.out.get .a ≠ .absent ∧ (s.bld.out.get .a).aim = 1000 ∧ s.pressure .a = 1000
    ∧ s.mode = .emergency ∧ s.pressure .a < 1001 ∧ s.pressure .a ≠ 999 ∧ ¬ s.pressure .a < 999
    ∧ s.bld.out.get .b = .ramp 0 4000 1000 ∧ s.pressure .b = 1000
    ∧ (let causes : PerBogie AimCause := ⟨.plain, .caught, .valveClosed⟩
      ((rerunWith causes s).bld.out.get .a).aim = target (rerunWith causes s) .a)
    ∧ s.sfc.opState = .active := by decide +kernel

theorem test_hyp_ReferenceSelectAndTimers :
    let s : State := { active with sfc.cfg.ground := some ⟨1000, 10⟩ }
    let t : State := { s with ref.active := .groundSensor }
    let held : State := { active with ref.active := .held, ref.heldTimer := some 5000000 }
    let lost : State := { active with
      ref.active := .lost, ref.confirm := .running 5000000, ref.speed := 100 }
    accepts active ∧ 2 ≤ (2 : Byte).toNat ∧ active.sfc.cfg.ground = none ∧ accepts s
    ∧ s.sfc.cfg.ground ≠ none ∧ s.ref.active ≠ .groundSensor ∧ accepts t
    ∧ t.sfc.cfg.ground ≠ none ∧ t.ref.active = .groundSensor
    ∧ held.ref.active = .held ∧ held.expired held.ref.heldTimer = true ∧ held.sfc.opState = .active
    ∧ (configured .ready).sfc.opState ≠ .active
    ∧ lost.confirmExpired lost.ref.confirm = true ∧ lost.ref.active ≠ .standstill
    ∧ lost.ref.speed.natAbs ≤ 100 ∧ lost.hhu.state = .off ∧ 100 < (101 : Int).natAbs
    ∧ ({ lost with hhu.state := .takeUp } : State).hhu.state = .takeUp
    ∧ ({ lost with hhu.state := .rollbackCatch } : State).hhu.state = .rollbackCatch
    ∧ lost.sfc.opState = .active ∧ lost.bld.demand.latch ≠ some .loop
    ∧ (after .standstillConfirmExpiry lost).hhu = holdingFrom (heldLevels lost)
    ∧ (after .standstillConfirmExpiry { withDemand lost .drive with bld.demand.effort := 1 }).hhu.state
        = .takeUp := by decide +kernel

def agreeing (n : Nat) : State :=
  { running .lost with ref.resync := (PerAxle.of fun _ => 3 : PerAxle Nat).set .a1 n }

theorem test_hyp_ReferenceAxleArrival :
    (-5 : Int) < 0 ∧ (0 : Int) < 5 ∧ ¬ (((0 : Int) < 0 ∧ (0 : Int) < 5) ∨ ((0 : Int) < 0 ∧ (5 : Int) < 0))
    ∧ drives active ∧ ¬ drives (withDemand active .brake) ∧ candidate active 5000000 = none
    ∧ candidate (running .axleFused) 5000000 = some runSample
    ∧ qualifies (running .axleFused) 5000000 .t1 runSample
    ∧ (∀ m ∈ [RefMode.axleFused, .held, .groundSensor, .lost, .standstill],
      ((running m).wsc.axle.get .a1).latest = some runSample ∧ (running m).ref.active = m)
    ∧ (running .groundSensor).ref.requested ≠ .groundSensor
    ∧ (configured .ready).sfc.opState ≠ .active ∧ (configured .failsafe).sfc.opState = .failsafe
    ∧ (∀ y ∈ Axle.all, qualifies { atRest with clock := 0 } 0 y restSample)
    ∧ (runSample.v - runSample.v).natAbs * 1000 ≤ 20 * max runSample.v.natAbs runSample.v.natAbs
    ∧ (agreeing 2).ref.resync.get .a2 = 3 ∧ 3 = min 3 ((agreeing 2).ref.resync.get .a1 + 1)
    ∧ 3 ≠ min 3 ((agreeing 1).ref.resync.get .a1 + 1) ∧ 100 ≤ runSample.v.natAbs
    ∧ runSample.flags.standstill = false ∧ (running .standstill).ref.prior ≠ .groundSensor
    ∧ (let s : State := { running .standstill with
        ref.prior := .groundSensor, ref.requested := .groundSensor, ref.engage := 5
        wsc.ground.latest := some runSample }
      s.ref.prior = .groundSensor ∧ s.ref.requested = .groundSensor ∧ s.ref.engage = 5
      ∧ s.wsc.ground.latest = some runSample ∧ runSample.flags.invalid = false)
    ∧ (let s : State := { running .axleFused with
        wsc.axle := PerAxle.of fun _ => { Channel.powerOn with latest := some restSample }
        ref.confirm := .complete, ref.speed := 0, clock := 0 }
      s.ref.active ≠ .standstill ∧ (refArrival .a1 restSample s).ref.active = .standstill
      ∧ s.hhu.state = .off ∧ (refArrival .a1 restSample s).hhu = holdingFrom (heldLevels s)) := by
  decide +kernel

theorem test_hyp_ReferenceGroundArrival :
    let sensor : State := { running .groundSensor with ref.requested := .groundSensor }
    let fused (n : Nat) : State := { running .axleFused with ref.requested := .groundSensor, ref.engage := n }
    (configured .ready).sfc.opState ≠ .active ∧ sensor.sfc.opState = .active
    ∧ (running .groundSensor).ref.requested = .axleFused ∧ sensor.ref.requested = .groundSensor
    ∧ runSample.flags.invalid = false ∧ runSample.flags.implausible = false
    ∧ min 5 ((fused 4).ref.engage + 1) = 5 ∧ min 5 ((fused 3).ref.engage + 1) ≠ 5
    ∧ (running .lost).ref.active = .lost
    ∧ (let s : State := { sensor with ref.confirm := .complete, ref.speed := 0 }
      s.ref.confirm = .complete ∧ (refGround { runSample with v := 0 } s).ref.active = .standstill) := by
  decide +kernel

theorem test_hyp_SensorEdges :
    (idle.wsc.get .ground).state = .unset ∧ idle.wsc.ground.state = .unset
    ∧ ((measuring (window 65534 65535 1 0)).wsc.get (.axle .a1)).state = .measuring (window 65534 65535 1 0)
    ∧ (window 65534 65535 1 0).forward < 65535
    ∧ ({ active with wsc.ground.state := .measuring (window 0 0 1 0) } : State).wsc.ground.state
        = .measuring (window 0 0 1 0)
    ∧ (Chan.axle .a1 = match SensorLine.lead .a1 with
      | .lead x => .axle x
      | .lag x => .axle x
      | .pulse => .ground) ∧ (.reverse : Direction) ≠ .forward := by decide

theorem test_hyp_WindowPeriodExpires :
    ((measuring (window 1 0 3 5000000)).wsc.get (.axle .a1)).state = .measuring (window 1 0 3 5000000)
    ∧ (window 1 0 3 5000000).due ≤ (measuring (window 1 0 3 5000000)).clock
    ∧ 1 + 0 < 2 ∧ 3 < 4 ∧ 2 ≤ (window 1 1 1 0).forward + (window 1 1 1 0).reverse
    ∧ 4 ≤ (window 0 0 4 0).periods ∧ (idle.wsc.get (.axle .a1)).prev = none
    ∧ (({ active with wsc.ground.state := .measuring (window 2 0 1 5000000) } : State).wsc.get .ground).state
        = .measuring (window 2 0 1 5000000) := by decide

theorem test_hyp_SampleFormulas :
    0 < 1 ∧ (1 : Int) ≠ 0 ∧ (30000 : Int).natAbs ≤ 30000 ∧ (30000 : Int) < 30001
    ∧ (-30001 : Int) < -30000 := by decide

theorem test_hyp_WheelTrim :
    let s := measuring (window 0 0 1 0)
    accepts s ∧ 6 ≤ (6 : Byte).toNat ∧ Axle.ofNumber? (0 : Byte).toNat = some .a1
    ∧ (5999 : BitVec 16).toNat < 6000 ∧ 7400 < (7401 : BitVec 16).toNat ∧ 6000 ≤ (6000 : BitVec 16).toNat
    ∧ (7400 : BitVec 16).toNat ≤ 7400 ∧ (active.wsc.axle.get .a1).state = .unset
    ∧ (s.wsc.axle.get .a1).state ≠ .unset ∧ s.adhState .a1 ≠ .slip ∧ s.adhState .a1 ≠ .recover
    ∧ ({ s with adh.axle.a1 := ⟨.slip, 0⟩ } : State).adhState .a1 = .slip := by decide

def lastWatched : State :=
  { active with adh.axle := (PerAxle.of fun _ => ⟨.isolated, 0⟩ : PerAxle AxleAdh).set .b2 ⟨.grip, 0⟩ }

theorem test_hyp_AxleIsolate :
    accepts active ∧ Axle.ofNumber? (5 : Byte).toNat = some .b2 ∧ 6 ≤ (6 : Byte).toNat
    ∧ ({ active with wsc.axle.b2.isolated := true } : State).wsc.axle.b2.isolated = true
    ∧ (active.wsc.axle.get .b2).isolated = false ∧ active.unwatched .a1 = false
    ∧ (∀ y ∈ Axle.all, y ≠ .b2 → lastWatched.unwatched y = true)
    ∧ lastWatched.sfc.opState = .active
    ∧ (let s : State := { active with adh.axle.b1 := ⟨.fault, 0⟩ }
      s.unwatched .a1 = false ∧ isUnsupervised (after (.axleIsolate 1 5) s) .b
      ∧ s.ref.active ≠ .lost ∧ ¬ isUnsupervised (after (.axleIsolate 1 5) active) .b) := by decide +kernel

theorem test_hyp_AxleRestore :
    accepts active ∧ Axle.ofNumber? (5 : Byte).toNat = some .b2
    ∧ ((faulted (.sensor .b2) raisedRec).fault (.sensor .b2)).active = true
    ∧ (active.fault (.sensor .b2)).active = false ∧ (active.wsc.axle.get .b2).isolated = false
    ∧ active.adhState .b2 ≠ .fault
    ∧ ({ active with adh.axle.b2 := ⟨.fault, 0⟩ } : State).adhState .b2 = .fault := by decide

theorem test_hyp_SlipRatio :
    (1 : Int) = (if active.travel = .forward then 1 else -1) ∧ (withDemand active .drive).mode = .drive
    ∧ (withDemand active .emergency).mode = .emergency ∧ |(-30000 : Int)| ≤ 30000
    ∧ |active.ref.speed| ≤ 30000 := by decide

theorem test_hyp_AdhesionTransitions :
    ((40 : Nat) : Int) ≤ 40 ∧ (39 : Int) < (40 : Nat) ∧ (29 : Int) < ((40 : Nat) : Int) - 10
    ∧ ((40 : Nat) : Int) - 10 ≤ 30
    ∧ (withDemand active .drive).mode = .drive ∧ (withDemand active .brake).mode = .brake
    ∧ judgedAxle 40 30 false false ⟨.creep, 0⟩ = ⟨.creep, 0⟩
    ∧ judgedAxle 40 29 false false ⟨.creep, 0⟩ = ⟨.grip, 0⟩ := by decide

theorem test_hyp_LimitActions :
    let s : State := { active with adh.bogie.a := { BogieAdh.powerOn with low := true, lowTimer := some 5000000 } }
    let slipping : State := { active with adh.axle.a1 := ⟨.slip, 0⟩ }
    s.expired (s.adh.bogie.get .a).lowTimer = true ∧ (s.adh.bogie.get .a).low = true
    ∧ ({ s with adh.bogie.a.low := false } : State).adh.bogie.a.low = false
    ∧ slipping.adhState .a1 = .slip ∧ (AdhState.grip ≠ .slip) ∧ active.adhState .a1 ≠ .slip
    ∧ (let s : State := { active with adh.axle.a1 := ⟨.fault, 0⟩, adh.axle.a2 := ⟨.isolated, 0⟩ }
      isUnsupervised s .a ∧ s.sfc.opState = .active ∧ s.ref.active ≠ .lost ∧ ¬ isUnsupervised s .t)
    ∧ rampRuns active .a = true ∧ rampRuns slipping .a = false
    ∧ rampCeiling active .a ≤ 999 + (250 * 4 + 0) / 1000 ∧ 998 + (250 * 4 + 0) / 1000 < rampCeiling active .a := by
  decide +kernel

/-- In DRIVE, with a wheel of the first bogie far above the reference; two entries to SLIP just before. -/
def spinning (slips : List Time) : State :=
  { running .axleFused with
    bld.demand.mode := .drive, bld.demand.effort := 300, ref.speed := 1000
    adh.bogie := PerBogie.of fun _ => { BogieAdh.powerOn with limit := 600, mark := some 4000000, slips := slips }
    snd := { Snd.powerOn with level := ⟨5000, 5000⟩ } }

theorem test_hyp_AdhesionArrival :
    let s := spinning [1000, 2000]
    s.sfc.opState = .active ∧ eligible .a1 runSample s = true
    ∧ (judgeAxle .a1 runSample s).state = .slip ∧ s.adhState .a1 ≠ .slip ∧ s.adhState .a1 ≠ .isolated
    ∧ eligible .t1 runSample s = false ∧ s.adh.axle.t1.state ≠ .slip
    ∧ ({ s with adh.axle.a1 := ⟨.isolated, 0⟩ } : State).adhState .a1 = .isolated
    ∧ (5000 - 1000 : Time).toNat ≤ 10000 ∧ s.travel = .forward ∧ s.snd.valve.get .one = .closed
    ∧ s.snd.queue = [] ∧ (sanding [] (.pouring openShot)).snd.valve.get .one ≠ .closed
    ∧ (let fresh : SandEntry := ⟨.adhesion, .one, true, 4, some 10000000, 0⟩
      grantee { s with snd := { s.snd with queue := s.snd.queue ++ [fresh] } } .one = some fresh)
    ∧ (let r : State := { s with adh.axle.a1 := ⟨.recover, 0⟩, adh.bogie.a.limit := 1000, ref.speed := 5000 }
      r.adhState .a1 = .recover ∧ (judgeAxle .a1 runSample r).state = .grip) := by decide +kernel

/-- Nine shots wait for End 1, whose valve is CLOSED. -/
def waiting : State :=
  { sanding [entry .adhesion .one 9] .closed with ref.speed := 5000 }

theorem test_hyp_adhesionRequests :
    (let q := [{ entry .adhesion .one 10 with age := some 10000000 }]
    waiting.snd.queue.any (SandEntry.isFor .adhesion .one) = true
    ∧ (∀ y ∈ waiting.snd.queue, 1 ≤ y.shots)
    ∧ grantee { waiting with snd := { waiting.snd with queue := q } } .one = q.head?)
    ∧ (sanding [entry .adhesion .one 9] (.pouring openShot)).snd.valve.get .one ≠ .closed
    ∧ (fullSand.drop 1).length < 8
    ∧ (let full := [entry .manual .one 1] ++ fullSand.drop 1
      8 ≤ full.length ∧ full.any (SandEntry.isFor .adhesion .one) = false) := by decide +kernel

/-- R139, R146: two merges into a waiting entry are judged one after the other, so that it is left with 10
shots; R70: a new entry takes both requests before its first shot is granted. -/
theorem test_slip_sand :
    (slipSand .a1 true waiting).snd.queue.map SandEntry.shots = [10]
    ∧ (slipSand .a1 true { waiting with snd.queue := [] }).snd.queue.map SandEntry.shots = [3] := by
  decide +kernel

/-- R70: the two requests of one entry to SLIP join as one entry of 4 shots, whose first is granted. -/
theorem test_slip_requests_join_first :
    let t := adhArrival .a1 runSample false (spinning [1000, 2000])
    t.snd.queue.map SandEntry.shots = [3] ∧ t.snd.arrivals = 1 := by decide +kernel

/-- R56: the report of a raise carries the limit that the same arrival leaves. -/
theorem test_fault_report_after_limit :
    let t := adhArrival .a1 runSample true (spinning [])
    t.adh.bogie.a.limit = 850 ∧ t.lnk.inFlight
      = some (.report (.axleState (.axle .a1) .fault .fault .grip 0 850 false t.nowMs)) := by decide +kernel

/-- Table 4-1: field `f` of the record is out of range. -/
def outOfRange (r : SegmentWord) (f : Nat) : Bool := decide (
  (f = 1 ∧ r.id.toNat = 0) ∨ (f = 2 ∧ (r.length.toNat = 0 ∨ 10000 < r.length.toNat))
    ∨ (f = 3 ∧ (r.grade.toInt < -150 ∨ 150 < r.grade.toInt))
    ∨ (f = 4 ∧ 3 < r.condition.toNat) ∨ (f = 5 ∧ 1 < r.sanding.toNat)
    ∨ (f = 6 ∧ r.override.toNat ≠ 0 ∧ (r.override.toNat < 20 ∨ 400 < r.override.toNat)))

/-- A record is in range where its six fields are. -/
theorem inRange_of_six {r : SegmentWord} (h : ∀ f < 7, ¬ outOfRange r f) (f : Nat) : ¬ outOfRange r f := by
  by_cases hf : f < 7
  · exact h f hf
  · unfold outOfRange; simp only [decide_eq_true_eq]; omega

/-- Table 4-1: records at the ends of the ranges, and one past each end. -/
theorem test_segment_ranges :
    (∀ r ∈ [(⟨1, 1, -150, 0, 0, 0⟩ : SegmentWord), ⟨65535, 10000, 150, 3, 1, 20⟩, ⟨1, 1, 0, 0, 0, 400⟩],
      badSegmentField 0 [r] = none ∧ ∀ f < 7, ¬ outOfRange r f)
    ∧ ∀ p ∈ [((⟨0, 0, 0, 0, 0, 0⟩ : SegmentWord), 1), (⟨1, 0, 151, 0, 0, 0⟩, 2), (⟨1, 10001, 0, 0, 0, 0⟩, 2),
        (⟨1, 1, -151, 0, 0, 0⟩, 3), (⟨1, 1, 151, 0, 0, 0⟩, 3), (⟨1, 1, 0, 4, 0, 0⟩, 4), (⟨1, 1, 0, 0, 2, 0⟩, 5),
        (⟨1, 1, 0, 0, 0, 19⟩, 6), (⟨1, 1, 0, 0, 0, 401⟩, 6)],
      badSegmentField 0 [word 1 1, p.1] = some (1 + 6 * 1 + p.2) ∧ outOfRange p.1 p.2
        ∧ ∀ f < p.2, ¬ outOfRange p.1 f := by decide +kernel

theorem test_hyp_SegmentAppend :
    let s := onRoute 31 0 active
    let queued := s.rlq.queue.map Segment.id
    accepts s ∧ [word 40 10000].length = (1 : Byte).toNat ∧ ([] : List SegmentWord).length ≠ (1 : Byte).toNat
    ∧ ([] : List SegmentWord).length = (0 : Byte).toNat ∧ 4 < (5 : Byte).toNat
    ∧ [word 40 10000, word 40 10001].length = (2 : Byte).toNat ∧ (∀ f, ¬ outOfRange (word 40 10000) f)
    ∧ outOfRange (word 40 10001) 2 ∧ (∀ f < 2, ¬ outOfRange (word 40 10001) f)
    ∧ (∀ f, ¬ outOfRange (word 31 1) f) ∧ (word 40 1).id.toNat ∉ queued ∧ (word 31 1).id.toNat ∈ queued
    ∧ (word 40 1).id ∈ [word 40 1].map SegmentWord.id ∧ ([word 40 1].map SegmentWord.id).Nodup
    ∧ s.rlq.queue.length + 1 ≤ 32 ∧ 32 < (onRoute 32 0 active).rlq.queue.length + 1
    ∧ (word 40 1).id.toNat ∉ (onRoute 32 0 active).rlq.queue.map Segment.id
    ∧ s.rlq.queue ≠ [] ∧ active.rlq.queue = [] :=
  ⟨by decide, by decide, by decide, by decide, by decide, by decide, inRange_of_six (by decide), by decide,
    by decide, inRange_of_six (by decide), by decide +kernel, by decide +kernel, by decide, by decide,
    by decide +kernel, by decide +kernel, by decide +kernel, by decide +kernel, by decide⟩

theorem test_hyp_RouteFlushAndFix :
    let s := onRoute 2 0 active
    accepts s ∧ s.rlq.queue ≠ [] ∧ active.rlq.queue = [] ∧ (2 : BitVec 16) ≠ 0
    ∧ (∀ g ∈ s.rlq.queue, g.id ≠ (3 : BitVec 16).toNat)
    ∧ s.rlq.queue = [segment 1] ++ segment 2 :: [] ∧ (segment 2).id = (2 : BitVec 16).toNat
    ∧ (∀ h ∈ [segment 1], h.id ≠ (2 : BitVec 16).toNat)
    ∧ (segment 2).length * 10 ≤ (400 : BitVec 32).toNat ∧ (399 : BitVec 32).toNat < (segment 2).length * 10 := by
  decide

theorem test_hyp_DistanceRetires :
    let s := onRoute 2 39999 active
    (∀ e ∈ Side.all, grantee active e = none)
    ∧ active.rlq.queue = [] ∧ s.rlq.queue ≠ [] ∧ ((s.rlq.pos.getD 0 : Nat) : Int) + (-40000) < 0
    ∧ ((80000 : Nat) : Int) = ((s.rlq.pos.getD 0 : Nat) : Int) + 40001
    ∧ (routeDistance 1 s).rlq.pos = some 0 ∧ (routeDistance 40001 s).rlq.queue = [] := by decide +kernel

def takingUp : State :=
  { active with hhu := { Hhu.powerOn with
      state := .takeUp, floor := ⟨3000, 0, 3000⟩, confirm := .running 5000000, takeUp := some 5000000 } }

/-- HOLDING, armed, a drive demanded, with an open shot at the leading end. -/
def holding (grade : Int) : State :=
  { active with
    bld.demand.mode := .drive, bld.demand.effort := 300, hhu.state := .holding, hhu.rearm := true
    rlq := ⟨[⟨1, 40, grade, .wet, false, none⟩], some 0, some .forward, false⟩
    snd.valve := ⟨.pouring openShot, .closed⟩ }

/-- In TAKE_UP with both motors pulling as given. -/
def pulling (n : Int) (c : Confirm) : State :=
  { takingUp with
    hhu.confirm := c
    afe.chan.force := ⟨{ AnalogChan.powerOn with reading := some n },
      { AnalogChan.powerOn with reading := some n }⟩ }

theorem test_hyp_HoldLevelsAndDrive :
    (∃ t, computeHold active = t) ∧ ((gradeForce 480 80).toNat * (1000 + 300) + 999) / 1000 = 491
    ∧ 491 * 175 / 480 = 179 ∧ (computeHold active).hhu.holdForce = 491
    ∧ (∀ g ∈ [(39 : Int), 40], let s := holding g
      s.hhu.state = .holding ∧ s.mode = .drive ∧ 0 < s.bld.demand.effort ∧ s.hhu.rearm = true
      ∧ s.sfc.opState = .active ∧ gradeTravel s = g)
    ∧ (holding 40).snd.queue.any (SandEntry.isFor .hillStart (holding 40).travel.leading) = false
    ∧ (holding 40).snd.valve.get (holding 40).travel.leading ≠ .closed ∧ active.mode ≠ .drive
    ∧ (gradeForce 480 20).toNat + 20 = 114 ∧ gradeTravel { takingUp with rlq := (holding 20).rlq } = 20
    ∧ (let v : State := { pulling 57 .complete with rlq := (holding 20).rlq }
      v.hhu.state = .takeUp ∧ v.hhu.confirm = .complete ∧ v.hhu.floor.get .a ≠ 0
      ∧ (hillReading v).hhu.state = .releasing ∧ (hillReading v).hhu.dAch = 114
      ∧ (∀ x ∈ Bogie.all, (v.fault (.pressure x)).latched = false)
      ∧ (∀ x ∈ Bogie.all, ({ v with hhu.floor := ⟨0, 0, 0⟩ } : State).hhu.floor.get x = 0))
    ∧ (let v : State := { pulling 56 .complete with rlq := (holding 20).rlq }
      v.hhu.state = .takeUp ∧ (hillReading v).hhu.dAch = 112 ∧ (hillReading v).hhu.confirm = .stopped) :=
  ⟨⟨_, rfl⟩, by decide +kernel⟩

def releasing (ramp : PerBogie (Option FloorRamp)) : State :=
  { active with hhu := { Hhu.powerOn with state := .releasing, ramp := ramp } }

theorem test_hyp_HillTimers :
    takingUp.hhu.state = .takeUp ∧ takingUp.confirmExpired takingUp.hhu.confirm = true
    ∧ takingUp.expired takingUp.hhu.takeUp = true
    ∧ (∀ x ∈ Bogie.all, (takingUp.fault (.pressure x)).latched = false) ∧ takingUp.hhu.floor.get .a ≠ 0
    ∧ (let s : State := { takingUp with sfc.faults := takingUp.sfc.faults.set (.pressure .b) latchedRec }
      (s.fault (.pressure .b)).latched = true ∧ s.hhu.blocked = false
      ∧ ({ s with hhu.blocked := true } : State).hhu.blocked = true)
    ∧ (∀ x ∈ Bogie.all, ({ takingUp with hhu.floor := ⟨0, 0, 0⟩ } : State).hhu.floor.get x = 0)
    ∧ (let s := releasing ⟨some ⟨3000, 4500⟩, none, some ⟨3000, 4501⟩⟩
      s.hhu.ramp.get .a ≠ none ∧ s.floor .a = 0 ∧ s.hhu.ramp.get .b ≠ none)
    ∧ (let s := releasing ⟨some ⟨3000, 4500⟩, none, none⟩
      s.floor .a = 0 ∧ s.hhu.ramp.get .t = none ∧ s.hhu.ramp.get .b = none) := by decide +kernel

/-- A sample that rolls back by the edges given, 1 mm an edge at a speed below the watch. -/
def backSample (n : Int) : Sample := { restSample with net := -n, scale := .ground 1000 }

def rolling (state : Machine.Hold) (far : Nat) : State :=
  { active with hhu := { Hhu.powerOn with state := state, acc := PerAxle.of fun _ => far } }

theorem test_hyp_RollbackWatch :
    (configured .ready).sfc.opState ≠ .active ∧ (backSample 1).flags.isolated = false
    ∧ (backSample 1).flags.implausible = false ∧ active.travel = .forward
    ∧ (∀ h ∈ [Machine.Hold.off, .holding, .takeUp, .releasing], (rolling h 0).hhu.state = h)
    ∧ isWatched (rolling .off 0) .a1 ∧ ¬ isWatched { active with adh.axle.a1 := ⟨.fault, 0⟩ } .a1
    ∧ 1500 ≤ (1500 : Int).natAbs ∧ (rolling .off 0).ref.speed.natAbs < 1500
    ∧ (backSample 1).net * 1 < 0 ∧ (backSample 1).net.natAbs * 1000 = 1000
    ∧ isOver (rolling .off 50001) .a1 ∧ isOver (rolling .off 50001) .a2 ∧ ¬ isOver (rolling .off 50000) .a1
    ∧ (hillArrival .a1 (backSample 1) (rolling .holding 50001)).hhu.state = .rollbackCatch
    ∧ (hillArrival .a1 (backSample 1) (rolling .holding 50000)).hhu.state = .holding
    ∧ (let s : State := { rolling .rollbackCatch 0 with
        hhu.caughtAtRest := true, wsc := atRest.wsc }
      s.hhu.caughtAtRest = true ∧ s.ref.active = .standstill ∧ s.mode ≠ .drive ∧ s.eblOpen = false
      ∧ (∀ y ∈ Axle.all, (s.wsc.axle.get y).latest = some restSample)
      ∧ (withDemand s .drive).mode = .drive ∧ s.hhu.rearm = true ∧ 0 < (holding 0).bld.demand.effort)
    ∧ (active.snd.queue.any (SandEntry.isFor .rollback .two) = false)
    ∧ (sanding [] (.pouring openShot)).snd.valve.get .two ≠ .closed := by decide +kernel

theorem test_hyp_SandRequest :
    accepts active ∧ 3 ≤ (3 : Byte).toNat ∧ (2 : Byte).toNat < 3 ∧ (0 : Byte).toNat = 0
    ∧ 10 < (11 : Byte).toNat ∧ (10 : Byte).toNat ≤ 10 ∧ (configured .ready).sfc.opState ≠ .active
    ∧ (.one : Side) = active.travel.leading
    ∧ [entry .manual .one 10].find? (SandEntry.isFor .manual .one) = some (entry .manual .one 10)
    ∧ fullSand.find? (SandEntry.isFor .manual .one) = none ∧ 8 ≤ fullSand.length
    ∧ (fullSand.drop 1).length < 8
    ∧ fullSand = [entry .adhesion .one 10] ++ entry .adhesion .two 1 :: fullSand.drop 2
    ∧ (∀ z ∈ fullSand.drop 2, z.source ≠ .adhesion)
    ∧ (let q := fullSand.drop 2 ++ [entry .manual .two 1, entry .manual .two 1]
      q.find? (SandEntry.isFor .manual .one) = none ∧ 8 ≤ q.length ∧ ∀ y ∈ q, 2 ≤ sandPriority y.source)
    ∧ (sanding fullSand (.recovery 0)).snd.valve.get .one ≠ .closed := by decide +kernel

theorem test_hyp_SandFill :
    accepts active ∧ (0 : Byte).toNat = 0 ∧ 3 ≤ (3 : Byte).toNat ∧ 60000 < (60001 : BitVec 16).toNat
    ∧ (60000 : BitVec 16).toNat ≤ 60000
    ∧ (sanding [] (.pouring openShot)).snd.valve.get .two = .pouring openShot
    ∧ nearFull.sfc.opState ≠ .active ∧ nearFull.snd.valve.get .one = .closed := by decide

theorem test_hyp_SandTimers :
    let q := [entry .manual .one 1, entry .emergency .one 10]
    let s := sanding q .closed
    grantee s .one = some (entry .emergency .one 10)
    ∧ s.sfc.opState = .active ∧ s.snd.valve.get .two = .closed ∧ grantee s .two = none
    ∧ (sanding q (.pouring openShot)).snd.valve.get .one = .pouring openShot
    ∧ openShot.due ≤ s.clock ∧ (openShot.flow * (s.nowMs - openShot.since).toNat + 999) / 1000 = 24
    ∧ (sanding q (.recovery 5000000)).snd.valve.get .one = .recovery 5000000
    ∧ q.find? (SandEntry.isFor .manual .one) = some (entry .manual .one 1)
    ∧ s.expired (entry .manual .one 1).age = true
    ∧ ({ s with snd.repeatTimer := some 5000000 } : State).expired (some 5000000) = true
    ∧ q.any (SandEntry.isFor .emergency s.travel.leading) = true
    ∧ [entry .manual .one 1].any (SandEntry.isFor .emergency .one) = false
    ∧ (let w := List.replicate 8 (entry .rollback .two 1)
      w.any (SandEntry.isFor .emergency .one) = false ∧ ∀ y ∈ w, 3 ≤ sandPriority y.source)
    ∧ (let w := fullSand.take 6 ++ [entry .manual .one 1, entry .manual .two 1]
      w.any (SandEntry.isFor .emergency .one) = false ∧ 8 ≤ w.length
      ∧ w = [entry .adhesion .one 10] ++ entry .adhesion .two 1 :: w.drop 2
      ∧ (∀ z ∈ w.drop 2, sandPriority .adhesion < sandPriority z.source)) := by decide +kernel

def converting (mode : GainMode) (g : Option Nat) (d : Bool) (saturated clear : Nat) (cause : Bool) : State :=
  { active with
    sfc.cfg.analog := active.sfc.cfg.analog.set (.pressure .a) (some ⟨mode, 16, 1000⟩)
    afe.chan := active.afe.chan.set (.pressure .a) ⟨g, d, none, none, saturated, clear, cause⟩ }

theorem test_hyp_AnalogConversion :
    ((converting .auto none false 0 0 false).afe.chan.get (.pressure .a)).gain = none
    ∧ ((converting .auto (some 1) true 0 0 false).afe.chan.get (.pressure .a)).discard = true
    ∧ ((converting .auto (some 2) false 0 0 false).sfc.cfg.analog.get (.pressure .a)) = some ⟨.auto, 16, 1000⟩
    ∧ (4079 : BitVec 12).toNat ≥ 4079 ∧ (16 : BitVec 12).toNat ≤ 16
    ∧ 1800 < (((247 : BitVec 12).toNat : Int) - 2048).natAbs
    ∧ ((after (.analogConversion (.pressure .a) 4095) (converting .fixed (some 16) false 2 0 false)).fault
        (.pressure .a)).active = true
    ∧ (after (.analogConversion (.pressure .a) 2048) (converting .fixed (some 16) false 0 2 true)).afe.chan.pressure.a.cause
        = false
    ∧ (let s : State := { converting .fixed (some 1) false 0 0 false with afe.sup.a.steady := .complete }
      (s.afe.sup.get .a).steady = .complete ∧ s.pressure .a = 0
      ∧ 800 + s.pressure .a / 10 < ((801 : Int) - 0).natAbs ∧ ((800 : Int) - 0).natAbs ≤ 800 + s.pressure .a / 10
      ∧ (active.afe.sup.get .a).steady ≠ .complete) := by decide +kernel

def supervised (v : Supervision) : State := { active with afe.sup.a := v }

theorem test_hyp_SupervisionTimers :
    let v : Supervision := ⟨false, .running 5000000, some 5000000, some 5000000, false⟩
    let s := supervised v
    s.afe.sup.get .a = v ∧ s.confirmExpired v.steady = true ∧ s.expired v.disagree = true
    ∧ s.expired v.agree = true ∧ (s.fault (.pressure .a)).active = false ∧ s.sfc.opState = .active
    ∧ ((faulted (.pressure .a) raisedRec).fault (.pressure .a)).active = true
    ∧ ((faulted (.pressure .b) raisedRec).fault (.pressure .b)).active = true
    ∧ (∀ y ∈ Bogie.all, (s.fault (.pressure y)).active = false)
    ∧ (s.afe.chan.pressure.get .a).cause = false
    ∧ ((converting .auto none false 0 0 true).afe.chan.pressure.get .a).cause = true := by decide

/-- BRAKE at 5000 mm/s, the slide counter of the first axle as given. -/
def sliding (mode : TripMode) (count : Nat) : State :=
  { withDemand (running .axleFused) .brake with
    sfc.cfg.trip := PerBogie.of fun _ => { Trip.default with filter := 2, mode := mode }
    stu.counter.a1 := count }

def slideSample : Sample := { runSample with v := 4000, a := -3500 }

theorem test_hyp_TripArrival :
    let s := sliding .autoDump 1
    let open? (x : Axle) : State := { s with stu.bogie.a.episode := some ⟨x, 4000⟩ }
    (∃ t, tripArrival .a1 slideSample s = t)
    ∧ (s.sfc.opState = .active ∧ s.mode = .brake ∧ 1000 ≤ s.ref.speed.natAbs
      ∧ (s.stu.bogie.get .a).disabled = false ∧ s.adhState .a1 = .grip ∧ slideSample.flags.implausible = false
      ∧ (s.sfc.cfg.trip.get .a).source ≠ .slip ∧ slideSample.a * 1 ≤ -((s.sfc.cfg.trip.get .a).decel : Int)
      ∧ (-3499 : Int) > -((s.sfc.cfg.trip.get .a).decel : Int))
    ∧ (s.stu.bogie.get .a).episode = none ∧ s.stu.counter.get .a1 + 1 = 2
    ∧ (sliding .autoDump 0).stu.counter.get .a1 + 1 < 2 ∧ 2 ≤ (sliding .autoDump 2).stu.counter.get .a1
    ∧ s.floor .a = 0 ∧ (sliding .reportOnly 1).floor .a = 0
    ∧ (let f : State := { s with hhu.floor := ⟨1500, 0, 0⟩ }
      0 < f.floor .a ∧ (f.stu.bogie.get .a).suppressed = false
      ∧ ({ f with stu.bogie.a.suppressed := true } : State).stu.bogie.a.suppressed = true)
    ∧ ((open? .a1).stu.bogie.get .a).episode = some ⟨.a1, 4000⟩
    ∧ ((open? .a2).stu.bogie.get .a).episode = some ⟨.a2, 4000⟩
    ∧ (s.adhesion.creep : Int) ≤ Int.tdiv ((5000 - 4000) * 1000) 5000
    ∧ Int.tdiv ((5000 - 5000) * 1000) 5000 < (s.adhesion.creep : Int)
    ∧ ({ open? .a1 with adh.axle.a1 := ⟨.isolated, 0⟩ } : State).adhState .a1 = .isolated
    ∧ (after (.dumpLimitTimerExpiry .a) s).stu = s.stu
    ∧ (withDump .b).sfc.opState = .active ∧ ((withDump .b).stu.bogie.get .b).episode = some ⟨.a1, 4000⟩ :=
  ⟨⟨_, rfl⟩, by decide +kernel⟩

/-- R165, R173: the CLOSED report of the mode change that ends an application carries the count 0. -/
theorem test_mode_close_counts_nothing :
    let t := tripModeChange .brake .coast (withDump .b)
    ((withDump .b).stu.bogie.get .b).exhausted = 2 ∧ (t.stu.bogie.get .b).exhausted = 0
    ∧ t.lnk.inFlight = some (.report (.trip .b .a1 (.closed .mode) 0 0 0 0 1000 5000)) := by decide +kernel

theorem test_hyp_DumpLimit :
    ((withDump .b).stu.bogie.get .b).episode = some ⟨.a1, 4000⟩
    ∧ (withDump .b).expired ((withDump .b).stu.bogie.get .b).limitTimer = true ∧ 3 = min 3 (2 + 1) := by decide

/-- R172: also in EMERGENCY the output ramps up from 0 when the valve closes; a hold floor is its target. -/
theorem test_dumpLimit_ramps :
    let s : State := { withDemand (withDump .b) .emergency with
      hhu.floor := ⟨0, 0, 100⟩, bld.out := ⟨.steady 0, .steady 0, .steady 0⟩ }
    s.sfc.opState = .active ∧ s.bld.out.get .b = .steady 0
    ∧ (match exec (.dumpLimitTimerExpiry .b) s with
      | .next t => decide (target t .b ≠ 0 ∧ t.bld.out.get .b = .ramp 0 s.nowMs (target t .b))
      | _ => false) = true := by decide +kernel

theorem test_hyp_ReferenceLostTimer :
    let s : State := { active with sfc.refLostTimer := some 5000000 }
    s.expired s.sfc.refLostTimer = true ∧ s.sfc.opState = .active ∧ nearFull.sfc.opState ≠ .active
    ∧ (let u : State := { sanding [] (.pouring openShot) with sfc.refLostTimer := some 5000000 }
      u.snd.valve.get .one = .pouring openShot ∧ u.sfc.opState = .active
      ∧ (after .referenceLostTimerExpiry u).snd.level.get .one = 26
      ∧ (after .referenceLostTimerExpiry { u with snd.level := ⟨24, 24⟩ }).snd.level.get .one = 0) := by
  decide +kernel

end Sys2Proof.Tests
end

section
/-! SUPPORT. The orders of deliveries (log 3), when each expiry is due (log 5), and the tick (log 2). -/

namespace Sys2Proof

/-! The topology's lists are complete (Table 0-1) -/

theorem Chan.mem_all (c : Chan) : c ∈ Chan.all := by
  rcases c with x | _
  · cases x <;> decide
  · decide

theorem Bogie.mem_all (x : Bogie) : x ∈ Bogie.all := by
  cases x <;> decide

theorem Side.mem_all (e : Side) : e ∈ Side.all := by
  cases e <;> decide

end Sys2Proof

namespace Sys2Proof.Machine

/-! Orders (log 3) -/

/-- The head's place in `l` is the number's remainder by the length; the quotient names the order of the rest. -/
theorem exists_arrange_eq_of_perm {α : Type} {m : List α} :
    ∀ {l : List α}, m.Perm l → ∃ c, arrange l.length c l = m := by
  induction m with
  | nil =>
    intro l h
    exact ⟨0, by rw [List.nil_perm.mp h]; rfl⟩
  | cons x m ih =>
    intro l h
    obtain ⟨i, hi, rfl⟩ := List.getElem_of_mem (h.subset List.mem_cons_self)
    have rest : m.Perm (l.eraseIdx i) := (h.trans (List.getElem_cons_eraseIdx_perm hi).symm).cons_inv
    obtain ⟨c, hc⟩ := ih rest
    have hlen : l.length = (l.eraseIdx i).length + 1 := by rw [List.length_eraseIdx_of_lt hi]; omega
    have hmod : (i + l.length * c) % l.length = i := by rw [Nat.add_mul_mod_self_left, Nat.mod_eq_of_lt hi]
    have hdiv : (i + l.length * c) / l.length = c := by
      rw [Nat.add_mul_div_left _ _ (by omega), Nat.div_eq_of_lt hi, Nat.zero_add]
    refine ⟨i + l.length * c, ?_⟩
    calc arrange l.length (i + l.length * c) l
        = arrange ((l.eraseIdx i).length + 1) (i + l.length * c) l := by rw [← hlen]
      _ = l[i] :: arrange (l.eraseIdx i).length c (l.eraseIdx i) := by
        simp only [arrange, hmod, hdiv, List.getElem?_eq_getElem hi]
      _ = l[i] :: m := by rw [hc]

/-! When an expiry is due (log 5) -/

section

variable (s : State) (x : Bogie) (e : Side)

theorem expired_iff (t : Timer) : s.expired t = true ↔ dueNow t s := by
  cases t <;> simp [State.expired, dueNow]

theorem confirmExpired_iff (c : Confirm) : s.confirmExpired c = true ↔ confirmDue c s := by
  cases c <;> simp [State.confirmExpired, confirmDue]

theorem expiryDue_windowPeriod_iff (c : Chan) : expiryDue (.windowPeriodExpiry c) s = true
    ↔ ∃ w, (s.wsc.get c).state = .measuring w ∧ w.due ≤ s.clock := by
  rw [expiryDue, expired_iff, windowTimer, State.chan]
  cases (s.wsc.get c).state <;> simp [dueNow]

theorem expiryDue_heldTimer_iff :
    expiryDue .heldTimerExpiry s = true ↔ s.ref.active = .held ∧ dueNow s.ref.heldTimer s := by
  rw [expiryDue, Bool.and_eq_true, decide_eq_true_iff, expired_iff]

theorem expiryDue_pressureRamp_iff : expiryDue (.pressureRampCompletion x) s = true
    ↔ ∃ start since aim, s.bld.out.get x = .ramp start since aim ∧ s.pressure x = aim := by
  rw [expiryDue, rampReached]
  cases s.bld.out.get x <;> simp [eq_comm]

theorem expiryDue_releaseConfirm_iff :
    expiryDue .releaseConfirmExpiry s = true ↔ s.hhu.state = .takeUp ∧ confirmDue s.hhu.confirm s := by
  rw [expiryDue, Bool.and_eq_true, decide_eq_true_iff, confirmExpired_iff]

theorem expiryDue_takeUpTimer_iff :
    expiryDue .takeUpTimerExpiry s = true ↔ s.hhu.state = .takeUp ∧ dueNow s.hhu.takeUp s := by
  rw [expiryDue, Bool.and_eq_true, decide_eq_true_iff, expired_iff]

theorem expiryDue_releaseRamp_iff : expiryDue (.releaseRampCompletion x) s = true
    ↔ s.hhu.state = .releasing ∧ s.hhu.ramp.get x ≠ none ∧ s.floor x = 0 := by
  simp [expiryDue, floorReached, and_assoc, Option.isSome_iff_ne_none]

theorem expiryDue_shotTimer_iff : expiryDue (.shotTimerExpiry e) s = true
    ↔ ∃ shot, s.snd.valve.get e = .pouring shot ∧ shot.due ≤ s.clock := by
  rw [expiryDue, expired_iff, shotTimer]
  cases s.snd.valve.get e <;> simp [dueNow, Valve.shot?]

theorem expiryDue_recoveryTimer_iff : expiryDue (.recoveryTimerExpiry e) s = true
    ↔ ∃ due, s.snd.valve.get e = .recovery due ∧ due ≤ s.clock := by
  rw [expiryDue, expired_iff]
  cases s.snd.valve.get e <;> simp [dueNow, Valve.recoveryTimer]

theorem expiryDue_ageTimer_iff (source : SandSource) : expiryDue (.ageTimerExpiry source e) s = true
    ↔ ∃ entry, s.snd.queue.find? (SandEntry.isFor source e) = some entry ∧ dueNow entry.age s := by
  rw [expiryDue, expired_iff, ageTimer]
  cases s.snd.queue.find? (SandEntry.isFor source e) <;> simp [dueNow]

theorem expiryDue_dumpLimitTimer_iff : expiryDue (.dumpLimitTimerExpiry x) s = true
    ↔ (s.stu.bogie.get x).episode ≠ none ∧ dueNow (s.stu.bogie.get x).limitTimer s := by
  rw [expiryDue, Bool.and_eq_true, expired_iff, State.dumpOpen, Option.isSome_iff_ne_none]

end

/-- A command with a body is none of the expiries. -/
theorem expiryDue_eq_false_of_request {i : Instr} (h : (Laws.requestBody i).isSome = true) (s : State) :
    expiryDue i s = false := by
  fun_cases Laws.requestBody i
  -- The last case holds the commands that are no request.
  case case19 => simp_all [Laws.requestBody]
  all_goals rfl

/-! The tick (log 2) -/

/-- The expiries there can be in every state: all but the age expiries. -/
def fixedExpiries : List Instr :=
  [.gapTimerExpiry, .heldTimerExpiry, .standstillConfirmExpiry, .demandTimerExpiry,
   .trackBrakeOnTimerExpiry, .trackBrakeOffTimerExpiry, .releaseConfirmExpiry, .takeUpTimerExpiry,
   .emergencyRepeatTimerExpiry, .referenceLostTimerExpiry]
    ++ Chan.all.map .windowPeriodExpiry
    ++ (Bogie.all.flatMap fun x =>
      [.lowAdhesionTimerExpiry x, .pressureRampCompletion x, .releaseRampCompletion x,
       .steadyTimerExpiry x, .disagreementTimerExpiry x, .agreementTimerExpiry x,
       .dumpLimitTimerExpiry x])
    ++ (Side.all.flatMap fun e => [.shotTimerExpiry e, .recoveryTimerExpiry e])

/-- The command that ends an entry's age. -/
def ageCommand (x : SandEntry) : Instr := .ageTimerExpiry x.source x.side

theorem expiryCommands_eq (s : State) : expiryCommands s = fixedExpiries ++ s.snd.queue.map ageCommand := rfl

theorem fixedExpiries_nodup : fixedExpiries.Nodup := by decide +kernel

theorem ageTimerExpiry_notMem_fixedExpiries (source : SandSource) (e : Side) :
    .ageTimerExpiry source e ∉ fixedExpiries := by
  cases source <;> cases e <;> decide +kernel

/-- The entry whose age timer is due stands in the sand queue. -/
theorem ageTimerExpiry_mem_of_due {source : SandSource} {e : Side} {s : State}
    (h : expiryDue (.ageTimerExpiry source e) s = true) :
    .ageTimerExpiry source e ∈ s.snd.queue.map ageCommand := by
  obtain ⟨x, hfind, -⟩ := (expiryDue_ageTimer_iff s e source).mp h
  have hfor : x.source = source ∧ x.side = e := by simpa [SandEntry.isFor] using List.find?_some hfind
  obtain ⟨rfl, rfl⟩ := hfor
  exact List.mem_map_of_mem (List.mem_of_find?_eq_some hfind)

/-- The list of candidates leaves out no expiry. -/
theorem mem_expiryCommands_of_due {i : Instr} {s : State} (h : expiryDue i s = true) :
    i ∈ expiryCommands s := by
  rw [expiryCommands_eq, List.mem_append]
  cases i
  case ageTimerExpiry => exact .inr (ageTimerExpiry_mem_of_due h)
  case windowPeriodExpiry c => left; simp [fixedExpiries, Chan.mem_all]
  case shotTimerExpiry e | recoveryTimerExpiry e => left; simp [fixedExpiries, Side.mem_all]
  case lowAdhesionTimerExpiry x | pressureRampCompletion x | releaseRampCompletion x
      | steadyTimerExpiry x | disagreementTimerExpiry x | agreementTimerExpiry x
      | dumpLimitTimerExpiry x =>
    left; simp [fixedExpiries, Bogie.mem_all]
  case gapTimerExpiry | heldTimerExpiry | standstillConfirmExpiry | demandTimerExpiry
      | trackBrakeOnTimerExpiry | trackBrakeOffTimerExpiry | releaseConfirmExpiry | takeUpTimerExpiry
      | emergencyRepeatTimerExpiry | referenceLostTimerExpiry =>
    left; simp [fixedExpiries]
  -- No other command is ever due.
  all_goals exact absurd h Bool.false_ne_true

theorem mem_dueCommands_iff {i : Instr} {s : State} : i ∈ dueCommands s ↔ expiryDue i s = true := by
  rw [dueCommands, List.mem_filter]
  exact and_iff_right_of_imp mem_expiryCommands_of_due

/-- R137: entries of distinct source and end have distinct age expiries. -/
theorem ageCommands_nodup {q : List SandEntry} (h : sourcesDistinct q) : (q.map ageCommand).Nodup := by
  have hinj : Function.Injective fun k : SandSource × Side => Instr.ageTimerExpiry k.1 k.2 := by
    rintro ⟨_, _⟩ ⟨_, _⟩ hk
    simpa using hk
  have hmap : q.map ageCommand = (q.map fun x => (x.source, x.side)).map fun k => .ageTimerExpiry k.1 k.2 := by
    rw [List.map_map]; rfl
  rw [hmap]
  exact h.map hinj

theorem dueCommands_nodup {s : State} (h : sourcesDistinct s.snd.queue) : (dueCommands s).Nodup := by
  refine List.Nodup.filter _ ?_
  rw [expiryCommands_eq]
  refine fixedExpiries_nodup.append (ageCommands_nodup h) ?_
  intro i hfixed hage
  obtain ⟨x, -, rfl⟩ := List.mem_map.mp hage
  exact ageTimerExpiry_notMem_fixedExpiries _ _ hfixed

theorem drawFrom_changes_free (past : Nat → Nat) (s : State) :
    ∃ f, (drawFrom past s).2 = { s with free := f } := by
  unfold drawFrom
  split
  · exact ⟨_, rfl⟩
  · exact ⟨_, rfl⟩

/-- All that a tick does: the clock moves, the due commands join the queue in some order, and that order may
be drawn from the store of choices. -/
theorem tick_cases (s : State) : ∃ due f, due.Perm (dueCommands { s with clock := s.clock + 1 })
    ∧ tick s = { s with clock := s.clock + 1, free := f, pending := s.pending ++ due } := by
  unfold tick
  dsimp only
  split
  · exact ⟨_, s.free, .refl _, rfl⟩
  · obtain ⟨f, hf⟩ := drawFrom_changes_free Config.freeOrder { s with clock := s.clock + 1 }
    exact ⟨_, f, arrange_perm _ _ _ rfl, by rw [hf]⟩

theorem step_of_pending_nil {s : State} (h : s.pending = []) : step s = .next (tick s) := by
  rw [step, h]

/-- An idle step: what joins the queue, and what stays. -/
theorem step_idle {s : State} (h : s.pending = []) : ∃ t, step s = .next t ∧ t.clock = s.clock + 1
    ∧ (∀ i, i ∈ t.pending ↔ expiryDue i { s with clock := s.clock + 1 } = true)
    ∧ (sandWf s.snd.queue → t.pending.Nodup)
    ∧ { t with clock := s.clock, pending := s.pending, free := s.free } = s := by
  obtain ⟨due, f, hperm, htick⟩ := tick_cases s
  refine ⟨tick s, step_of_pending_nil h, ?_⟩
  rw [htick, h, List.nil_append]
  refine ⟨rfl, fun i => hperm.mem_iff.trans mem_dueCommands_iff, ?_, by rw [← h]⟩
  rintro ⟨-, hdistinct, -⟩
  exact hperm.nodup_iff.mpr (dueCommands_nodup hdistinct)

/-- Settles O2: orders by `exists_arrange_eq_of_perm`, the idle step by `step_idle`, and one lemma for each
kind of expiry. -/
theorem tickAndOrders : Obligations.TickAndOrders := by
  unfold Obligations.TickAndOrders
  refine ⟨fun l m => exists_arrange_eq_of_perm, fun s => step_idle, fun u => ?_⟩
  exact ⟨expired_iff u _, expiryDue_windowPeriod_iff u, expiryDue_heldTimer_iff u, confirmExpired_iff u _,
    fun _ => expired_iff u _, expired_iff u _, expired_iff u _, expired_iff u _,
    expiryDue_pressureRamp_iff u, expiryDue_releaseConfirm_iff u, expiryDue_takeUpTimer_iff u,
    expiryDue_releaseRamp_iff u, expiryDue_shotTimer_iff u, expiryDue_recoveryTimer_iff u,
    fun source e => expiryDue_ageTimer_iff u e source, expired_iff u _,
    fun _ => confirmExpired_iff u _, fun _ => expired_iff u _, fun _ => expired_iff u _,
    expiryDue_dumpLimitTimer_iff u, expired_iff u _,
    fun _ h => expiryDue_eq_false_of_request h u, fun _ _ => rfl, fun _ => rfl, rfl, rfl,
    fun _ _ => rfl, fun _ => rfl, rfl, rfl, fun _ _ => rfl, fun _ _ => rfl⟩

end Sys2Proof.Machine
end

section
/-! SUPPORT. The requests of the speed channels, WHEEL TRIM and AXLE RESTORE (R7, R21), with what a reply and a
report leave of the link (R193, R196, R197). -/

namespace Sys2Proof

theorem Axle.ofNumber?_of_six_le {n : Nat} (h : 6 ≤ n) : Axle.ofNumber? n = none := by
  obtain ⟨m, rfl⟩ := Nat.exists_eq_add_of_le' h
  rfl

end Sys2Proof

namespace Sys2Proof.Machine

/-! Replies and reports (R193, R196, R197) -/

theorem asRequest_of_accepts (owner : State → State) {s : State} (h : accepts s) :
    asRequest owner s = owner s := by
  obtain ⟨running, room⟩ := h
  unfold asRequest
  rw [running, if_neg Bool.false_ne_true, if_neg (Nat.not_le.mpr room)]

theorem arbitrate_replied {k : ReqKind} {tag : Byte} {r : Result} {s : State} (h : replied k tag r s) :
    replied k tag r (arbitrate s) := by
  unfold arbitrate
  split
  · exact h
  · next free =>
    split
    · next x rest e =>
      rw [replied, e, free] at h
      rcases h with h | h
      · exact (List.mem_cons.mp h).elim (fun same => .inr (by rw [same])) .inl
      · simp at h
    · next e => simp [replied, e, free] at h

theorem sendReport_replied (x : Report) {k : ReqKind} {tag : Byte} {r : Result} {s : State}
    (h : replied k tag r s) : replied k tag r (sendReport x s) := by
  unfold sendReport
  split
  · exact h
  · exact arbitrate_replied h

theorem answer_replied (k : ReqKind) (tag : Byte) (r : Result) (s : State) :
    replied k tag r (answer k tag r s) :=
  arbitrate_replied (.inl (List.mem_append_right _ List.mem_cons_self))

/-- What waits or is in flight stays so when the arbiter begins a frame; a lost report, whose queue was full,
stays lost. -/
theorem arbitrate_reported {r : Report} {s : State} (h : r ∈ s.lnk.reports ∨ s.lnk.inFlight = some (.report r)
    ∨ (s.lnk.reportsLost = true ∧ 16 ≤ s.lnk.reports.length)) : reported r (arbitrate s) := by
  unfold arbitrate
  split
  · exact h.imp_right (Or.imp_right fun lost => ⟨lost.1, by omega⟩)
  · next free =>
    split
    · rcases h with h | h | h
      · exact .inl h
      · simp [free] at h
      · exact .inr (.inr ⟨h.1, by dsimp only; omega⟩)
    · split
      · next x rest e =>
        rw [e, free] at h
        rcases h with h | h | h
        · exact (List.mem_cons.mp h).elim (fun same => .inr (.inl (by rw [same]))) .inl
        · simp at h
        · exact .inr (.inr ⟨h.1, by simpa using h.2⟩)
      · next e => simp [e, free] at h

theorem sendReport_reported_self (r : Report) (s : State) : reported r (sendReport r s) := by
  unfold sendReport
  split
  · next full => exact .inr (.inr ⟨rfl, by dsimp only; omega⟩)
  · exact arbitrate_reported (.inl (List.mem_append_right _ List.mem_cons_self))

theorem sendReport_reported (x : Report) {r : Report} {s : State} (h : reported r s) :
    reported r (sendReport x s) := by
  unfold sendReport
  split
  · next full =>
    exact h.imp_right (Or.imp_right fun lost => ⟨rfl, lost.2⟩)
  · refine arbitrate_reported (h.imp (List.mem_append_left _) (Or.imp_right fun lost => ⟨lost.1, ?_⟩))
    have := lost.2
    simp only [List.length_append, List.length_singleton]
    omega

/-- No delivery of one block to another takes a reply back. -/
theorem stable_replied (k : ReqKind) (tag : Byte) (r : Result) : Stable (replied k tag r) where
  view e hs := by unfold replied; rwa [lnk_of_view e]
  report x _ hs := sendReport_replied x hs
  fault _ _ _ _ _ hs := hs
  sand _ _ _ hs := hs
  route _ _ _ hs := hs
  failsafe _ hs := hs

/-- No delivery of one block to another takes a report back. -/
theorem stable_reported (r : Report) : Stable (reported r) where
  view e hs := by unfold reported; rwa [lnk_of_view e]
  report x _ hs := sendReport_reported x hs
  fault _ _ _ _ _ hs := hs
  sand _ _ _ hs := hs
  route _ _ _ hs := hs
  failsafe _ hs := hs

/-! WHEEL TRIM (R7) -/

section

variable {tag axle : Byte} {diameter : BitVec 16} {s : State}

theorem exec_wheelTrim (h : accepts s) :
    exec (.wheelTrim tag axle diameter) s = .next (takeWheelTrim tag axle diameter s) :=
  congrArg Host.Outcome.next (asRequest_of_accepts (takeWheelTrim tag axle diameter) h)

/-- A trim that is not answered OK changes nothing else. -/
theorem wheelTrim_answersOnly (h : accepts s) {r : Result} (hr : trimResult axle diameter s = r)
    (refused : ∀ body, r ≠ .ok body) : answersOnly (.wheelTrim tag axle diameter) .wheelTrim tag r s := by
  subst hr
  unfold answersOnly
  rw [exec_wheelTrim h]
  unfold takeWheelTrim
  dsimp only
  split
  · next hok => exact absurd hok (refused _)
  · rfl

theorem trimResult_of_axle {x : Axle} (hx : Axle.ofNumber? axle.toNat = some x) :
    trimResult axle diameter s =
      if diameter.toNat < 6000 ∨ 7400 < diameter.toNat then .refusedRange 2
      else if (s.wsc.axle.get x).state = .unset then .refusedState
      else if s.adhState x = .slip ∨ s.adhState x = .recover then .refusedBusy
      else .ok [] := by
  rw [trimResult, hx]

theorem takeWheelTrim_of_ok {x : Axle} {body : List Byte} (hx : Axle.ofNumber? axle.toNat = some x)
    (hr : trimResult axle diameter s = .ok body) : takeWheelTrim tag axle diameter s
      = trimChannel x diameter.toNat (answer .wheelTrim tag (.ok body) s) := by
  simp only [takeWheelTrim, hx, hr]

end

/-- Settles O40: one branch of `trimResult` for each clause. -/
theorem wheelTrim : Obligations.WheelTrim := by
  unfold Obligations.WheelTrim
  refine fun tag axle diameter s h => ⟨fun large => ?_, fun x hx => ⟨fun range => ?_, fun low high =>
    ⟨fun unset => ?_, fun set busy => ?_, fun set noSlip noRecover => ?_⟩⟩⟩
  · exact wheelTrim_answersOnly h (by rw [trimResult, Axle.ofNumber?_of_six_le large]) (by simp)
  · exact wheelTrim_answersOnly h (by rw [trimResult_of_axle hx, if_pos range]) (by simp)
  all_goals have inRange : ¬ (diameter.toNat < 6000 ∨ 7400 < diameter.toNat) := by omega
  · exact wheelTrim_answersOnly h (by rw [trimResult_of_axle hx, if_neg inRange, if_pos unset]) (by simp)
  · exact wheelTrim_answersOnly h
      (by rw [trimResult_of_axle hx, if_neg inRange, if_neg set, if_pos busy]) (by simp)
  · have ok : trimResult axle diameter s = .ok [] := by
      rw [trimResult_of_axle hx, if_neg inRange, if_neg set, if_neg (not_or.mpr ⟨noSlip, noRecover⟩)]
    rw [exec_wheelTrim h, takeWheelTrim_of_ok hx ok, trimChannel, State.setChan, answer_wsc]

/-! AXLE RESTORE (R21) -/

section

variable {tag axle : Byte} {s : State}

theorem exec_axleRestore (h : accepts s) :
    exec (.axleRestore tag axle) s = .next (takeAxleRestore tag axle s) :=
  congrArg Host.Outcome.next (asRequest_of_accepts (takeAxleRestore tag axle) h)

theorem takeAxleRestore_of_axle {x : Axle} (hx : Axle.ofNumber? axle.toNat = some x) :
    takeAxleRestore tag axle s =
      if (s.fault (.sensor x)).active then answer .axleRestore tag .stillActive s
      else applyRestore x (answer .axleRestore tag (.ok []) s) := by
  rw [takeAxleRestore, hx]

/-- R21, R53, R67, R186: what an AXLE RESTORE that acts leaves, and its report. -/
theorem applyRestore_of_acts {x : Axle} (acts : (s.wsc.axle.get x).isolated = true ∨ s.adhState x = .fault) :
    ∃ u : State, u = { s with
        wsc := s.wsc.set (.axle x) { (s.wsc.axle.get x).forgotten with isolated := false }
        sfc := { s.sfc with
          faults := s.sfc.faults.set (.sensor x) { s.fault (.sensor x) with latched := false } }
        adh := { s.adh with axle := s.adh.axle.set x ⟨.grip, 0⟩ } }
      ∧ applyRestore x s = sendReport (.axleState (.axle x) .restored .grip (s.adhState x) 0
          (s.adh.bogie.get x.bogie).limit (s.adh.bogie.get x.bogie).low s.nowMs) u := by
  refine ⟨_, rfl, ?_⟩
  rw [applyRestore, if_pos acts, restoreAxle, axleReport]
  simp [State.adhState, State.setAxle, unlatchFault, State.setFault, restoreChannel, State.setChan, State.nowMs,
    State.fault]

end

/-- Settles O42: the refusals, then `applyRestore_of_acts` on the answered state. -/
theorem axleRestore : Obligations.AxleRestore := by
  unfold Obligations.AxleRestore
  refine fun tag axle s h => ⟨fun large => ?_, fun x hx => ⟨fun active => ?_, fun inactive kept noFault => ?_,
    fun inactive acts => ?_⟩⟩
  · rw [answersOnly, exec_axleRestore h, takeAxleRestore, Axle.ofNumber?_of_six_le large]
  · rw [answersOnly, exec_axleRestore h, takeAxleRestore_of_axle hx, if_pos active]
  all_goals have notActive : ¬ (s.fault (.sensor x)).active = true := by simp [inactive]
  · rw [answersOnly, exec_axleRestore h, takeAxleRestore_of_axle hx, if_neg notActive, applyRestore,
      if_neg (by simpa [State.adhState, kept] using noFault)]
  · obtain ⟨u, hu, e⟩ := applyRestore_of_acts (s := answer .axleRestore tag (.ok []) s) (x := x)
      (by simpa [State.adhState] using acts)
    have answered : replied .axleRestore tag (.ok []) u := by
      rw [hu]; exact answer_replied _ _ _ _
    refine ⟨_, by rw [exec_axleRestore h, takeAxleRestore_of_axle hx, if_neg notActive], ?_, ?_, ?_⟩
    · rw [e]; exact sendReport_replied _ answered
    · rw [e]
      have := sendReport_reported_self (.axleState (.axle x) .restored .grip (s.adhState x) 0
        (s.adh.bogie.get x.bogie).limit (s.adh.bogie.get x.bogie).low s.nowMs) u
      simpa [State.adhState, State.nowMs] using this
    · rw [e, sendReport_eq, hu]
      simp [State.fault, Channel.forgotten]

end Sys2Proof.Machine
end

section
/-! SUPPORT. Speed, acceleration and edges of the speed channels (R3, R6, R8 to R13). -/

namespace Sys2Proof.Machine

/-! Rounded quotients (R1, R6, R8 to R12) -/

theorem roundNearest_natCast (n d : Nat) : roundNearest (n : Int) d = ((2 * n + d) / (2 * d) : Nat) := by
  rcases Nat.eq_zero_or_pos n with rfl | hn
  · rcases Nat.eq_zero_or_pos d with rfl | hd
    · rfl
    · simp only [roundNearest, Int.natCast_zero, Int.sign_zero, Int.zero_mul]
      rw [Nat.div_eq_of_lt (by omega)]
      rfl
  · rw [roundNearest, Int.sign_eq_one_of_pos (by omega), Int.one_mul, Int.natAbs_natCast]

/-- R1: the quotient rounded to nearest with a sign put to it lies within half of the exact one. -/
theorem mul_roundNearest_spec (sign : Int) (n : Nat) {d : Nat} (hd : 0 < d) :
    ∃ q : Nat, sign * roundNearest (n : Int) d = sign * q
      ∧ 2 * q * d ≤ 2 * n + d ∧ 2 * n + d < 2 * (q + 1) * d := by
  have hd2 : 0 < 2 * d := by omega
  refine ⟨(2 * n + d) / (2 * d), by rw [roundNearest_natCast], ?_, ?_⟩
  · calc 2 * ((2 * n + d) / (2 * d)) * d = (2 * n + d) / (2 * d) * (2 * d) := by ring
      _ ≤ 2 * n + d := Nat.div_mul_le_self _ _
  · calc 2 * n + d < ((2 * n + d) / (2 * d) + 1) * (2 * d) := Nat.lt_mul_of_div_lt (Nat.lt_succ_self _) hd2
      _ = 2 * ((2 * n + d) / (2 * d) + 1) * d := by ring

theorem circumference_eq (d : Nat) : circumference d = (2 * (d * 31416) + 100) / 200 := by
  rw [circumference, roundNearest_natCast, Int.toNat_natCast]

theorem oneWaySpeed_wheel {circ teeth span : Nat} (net : Int) (ht : 0 < teeth) (hs : 0 < span) :
    ∃ q : Nat, oneWaySpeed (.wheel circ teeth) net span = net.sign * q
      ∧ 2 * q * (4 * teeth * span) ≤ 2 * ((net.natAbs - 1) * circ * 1000) + 4 * teeth * span
      ∧ 2 * ((net.natAbs - 1) * circ * 1000) + 4 * teeth * span < 2 * (q + 1) * (4 * teeth * span) :=
  mul_roundNearest_spec net.sign ((net.natAbs - 1) * circ * 1000) (Nat.mul_pos (Nat.mul_pos (by decide) ht) hs)

theorem reversalSpeed_wheel {circ teeth duration : Nat} (net : Int) (ht : 0 < teeth) (hd : 0 < duration) :
    ∃ q : Nat, reversalSpeed (.wheel circ teeth) net duration = net.sign * q
      ∧ 2 * q * (4 * teeth * duration) ≤ 2 * (net.natAbs * circ * 1000) + 4 * teeth * duration
      ∧ 2 * (net.natAbs * circ * 1000) + 4 * teeth * duration < 2 * (q + 1) * (4 * teeth * duration) :=
  mul_roundNearest_spec net.sign (net.natAbs * circ * 1000) (Nat.mul_pos (Nat.mul_pos (by decide) ht) hd)

theorem oneWaySpeed_ground {e span : Nat} (net : Int) (hs : 0 < span) :
    ∃ q : Nat, oneWaySpeed (.ground e) net span = net.sign * q
      ∧ 2 * q * span ≤ 2 * ((net.natAbs - 1) * e * 1000) + span
      ∧ 2 * ((net.natAbs - 1) * e * 1000) + span < 2 * (q + 1) * span := by
  simpa only [oneWaySpeed, Scale.perEdge, Nat.one_mul]
    using mul_roundNearest_spec net.sign ((net.natAbs - 1) * e * 1000) hs

theorem reversalSpeed_ground {e duration : Nat} (net : Int) (hd : 0 < duration) :
    ∃ q : Nat, reversalSpeed (.ground e) net duration = net.sign * q
      ∧ 2 * q * duration ≤ 2 * (net.natAbs * e * 1000) + duration
      ∧ 2 * (net.natAbs * e * 1000) + duration < 2 * (q + 1) * duration := by
  simpa only [reversalSpeed, Scale.perEdge, Nat.one_mul]
    using mul_roundNearest_spec net.sign (net.natAbs * e * 1000) hd

/-! Bounds of speed and acceleration (R11, R13) -/

theorem clampInt_natAbs_le (n : Nat) (x : Int) : (clampInt (-n) n x).natAbs ≤ n := by
  unfold clampInt
  omega

theorem clampSpeed_natAbs_le (v : Int) : (clampSpeed v).natAbs ≤ 30000 := clampInt_natAbs_le 30000 v

theorem overrange_iff (v : Int) : overrange v = true ↔ 30000 < v.natAbs := decide_eq_true_iff

theorem clampSpeed_of_within {v : Int} (h : v.natAbs ≤ 30000) : clampSpeed v = v := by
  unfold clampSpeed clampInt
  omega

theorem clampSpeed_of_above {v : Int} (h : 30000 < v) : clampSpeed v = 30000 := by
  unfold clampSpeed clampInt
  omega

theorem clampSpeed_of_below {v : Int} (h : v < -30000) : clampSpeed v = -30000 := by
  unfold clampSpeed clampInt
  omega

theorem accelOf_natAbs_le (prev : Option Prev) (v : Int) (now : Time) : (accelOf prev v now).natAbs ≤ 32000 := by
  cases prev with
  | none => exact Nat.zero_le _
  | some m => exact clampInt_natAbs_le 32000 _

/-- Settles O39: each quotient by `mul_roundNearest_spec`, the sample's speed by the kind of its window. -/
theorem sampleFormulas : Obligations.SampleFormulas := by
  unfold Obligations.SampleFormulas
  refine ⟨⟨by decide, by decide, by decide, circumference_eq⟩,
    fun circ teeth span net ht hs _ => oneWaySpeed_wheel net ht hs,
    fun circ teeth duration net ht hd => reversalSpeed_wheel net ht hd,
    fun e span net hs _ => oneWaySpeed_ground net hs,
    fun e duration net hd => reversalSpeed_ground net hd,
    fun raw => ⟨fun h => ⟨clampSpeed_of_within h, ?_⟩, fun h => ⟨clampSpeed_of_above h, ?_⟩,
      fun h => ⟨clampSpeed_of_below h, ?_⟩⟩,
    fun s c w o span duration net raw hnet hduration hspan hraw => ?_,
    fun v now => ⟨rfl, fun m => rfl⟩⟩
  · exact Bool.eq_false_iff.mpr fun exceeds => by rw [overrange_iff] at exceeds; omega
  · exact (overrange_iff raw).mpr (by omega)
  · exact (overrange_iff raw).mpr (by omega)
  · have same : raw = rawSpeed w o (w.periods * s.windowMs c * 1000) := by
      have spanned : span = w.span := by
        rw [hspan, Window.span]
        cases w.first <;> cases w.last <;> rfl
      rw [hraw, hduration, hnet, spanned]
      cases o <;> rfl
    rw [same]
    exact ⟨rfl, rfl, rfl⟩

/-! Edges (R3, R12) -/

theorem countEdge_of_lt {n : Nat} (h : n < 65535) (s : State) : countEdge n s = (n + 1, s) := if_pos h

theorem countEdge_changes_free (n : Nat) (s : State) : ∃ f, (countEdge n s).2 = { s with free := f } := by
  unfold countEdge
  split
  · exact ⟨s.free, rfl⟩
  · exact drawFrom_changes_free _ s

/-- R3: the window with an edge stamped now and `n` as the count of its direction. -/
def Window.stamped (w : Window) (dir : Direction) (n : Nat) (now : Time) : Window :=
  { w with
    forward := if dir = .forward then n else w.forward
    reverse := if dir = .reverse then n else w.reverse
    first := some (w.first.getD now), last := some now }

/-- The count an edge of this direction raises. -/
def Window.count (w : Window) : Direction → Nat
  | .forward => w.forward
  | .reverse => w.reverse

theorem edgeInWindow_eq (dir : Direction) (w : Window) (s : State) : edgeInWindow dir w s
    = (w.stamped dir (countEdge (w.count dir) s).1 s.nowUs, (countEdge (w.count dir) s).2) := by
  have first : (w.first <|> some s.nowUs) = some (w.first.getD s.nowUs) := by cases w.first <;> rfl
  cases dir <;> simp [edgeInWindow, Window.stamped, Window.count, first]

theorem takeEdge_of_unset {c : Chan} {s : State} (dir : Direction) (h : (s.wsc.get c).state = .unset) :
    takeEdge c dir s = s := by
  rw [takeEdge, State.chan, h]

theorem takeEdge_of_measuring {c : Chan} {s : State} {w : Window} (dir : Direction)
    (h : (s.wsc.get c).state = .measuring w) : ∃ f,
    takeEdge c dir s = { s with
      wsc := s.wsc.set c { s.wsc.get c with
        state := .measuring (w.stamped dir (countEdge (w.count dir) s).1 s.nowUs) }
      free := f } ∧ (w.count dir < 65535 → f = s.free) := by
  obtain ⟨f, hf⟩ := countEdge_changes_free (w.count dir) s
  refine ⟨f, ?_, fun small => ?_⟩
  · rw [takeEdge, State.chan, h]
    simp only [edgeInWindow_eq, hf, State.setChan, State.chan]
  · rw [countEdge_of_lt small] at hf
    exact congrArg State.free hf.symm

theorem dropGround_of_unset {s : State} (low : Bool) (h : s.wsc.ground.state = .unset) :
    dropGround low s = { s with groundLow := low } := by
  rw [dropGround, h]

theorem dropGround_of_measuring {s : State} {w : Window} (low : Bool)
    (h : s.wsc.ground.state = .measuring w) : dropGround low s = { s with
      groundLow := low
      wsc := { s.wsc with ground := { s.wsc.ground with state := .measuring { w with drop := true } } } } := by
  rw [dropGround, h]
  rfl

theorem exec_speedSensorEdge (line : SensorLine) (edge : LineEdge) (s : State) :
    exec (.speedSensorEdge line edge) s = .next (takeEdge (sensorChan line) (edgeDirection line edge) s) := rfl

theorem exec_groundValidLineDrop (low : Bool) (s : State) :
    exec (.groundValidLineDrop low) s = .next (dropGround low s) := rfl

/-- Settles O37: the written-out directions are those of `edgeDirection`, case by case; then
`takeEdge_of_measuring`. -/
theorem sensorEdges : Obligations.SensorEdges := by
  unfold Obligations.SensorEdges
  refine ⟨fun line edge c dir s hc hdir => ?_, fun low s => ⟨fun h => ?_, fun w h => ?_⟩⟩
  · have chan : sensorChan line = c := by rw [hc]; cases line <;> rfl
    have direction : edgeDirection line edge = dir := by
      obtain ⟨rises, beside⟩ := edge
      rw [hdir]
      cases line <;> cases rises <;> cases beside <;> rfl
    rw [exec_speedSensorEdge, chan, direction]
    refine ⟨fun unset => by rw [takeEdge_of_unset dir unset], fun w measuring => ?_⟩
    obtain ⟨f, e, kept⟩ := takeEdge_of_measuring dir measuring
    rw [e]
    refine ⟨fun hf hr => ?_,
      ⟨(countEdge (w.count dir) s).1, _, rfl, ?_, rfl, fun d hd => PerChan.get_set_ne _ _ hd⟩⟩
    · have small : w.count dir < 65535 := by
        cases dir with
        | forward => exact hf rfl
        | reverse => exact hr rfl
      rw [kept small, countEdge_of_lt small]
      cases dir <;> rfl
    · rw [PerChan.get_set_self]
      rfl
  · rw [exec_groundValidLineDrop, dropGround_of_unset low h]
  · rw [exec_groundValidLineDrop, dropGround_of_measuring low h]

end Sys2Proof.Machine
end

section
/-! SUPPORT. The close of a window (R4, R5, R14 to R19): its sample, the channel and the fault record after it,
and the readers' taking of the sample (R15). -/

namespace Sys2Proof

theorem PerAxle.set_set {α : Type} (p : PerAxle α) (x : Axle) (u v : α) : (p.set x u).set x v = p.set x v := by
  cases x <;> rfl

theorem PerChan.set_set {α : Type} (p : PerChan α) (c : Chan) (u v : α) : (p.set c u).set c v = p.set c v := by
  cases c <;> simp [PerChan.set, PerAxle.set_set]

end Sys2Proof

namespace Sys2Proof.Machine

/-! The decision (R5) -/

section

variable {forward reverse periods : Nat}

theorem windowOutcome_eq_stretch_iff :
    windowOutcome forward reverse periods = .stretch ↔ forward + reverse < 2 ∧ periods < 4 := by
  unfold windowOutcome
  split_ifs <;> simp <;> omega

theorem windowOutcome_eq_atRest_iff (closes : 2 ≤ forward + reverse ∨ 4 ≤ periods) :
    windowOutcome forward reverse periods = .atRest ↔ forward + reverse < 2 := by
  unfold windowOutcome
  split_ifs <;> simp <;> omega

theorem windowOutcome_eq_bothWays_iff : windowOutcome forward reverse periods = .bothWays
    ↔ 0 < forward ∧ 0 < reverse ∧ 2 ≤ forward + reverse := by
  unfold windowOutcome
  split_ifs <;> simp <;> omega

end

theorem windowExpiry_of_stretch {c : Chan} {w : Window} {s : State}
    (h : windowOutcome w.forward w.reverse w.periods = .stretch) :
    windowExpiry c w s = stretchWindow c w s := if_pos h

theorem windowExpiry_of_close {c : Chan} {w : Window} {s : State}
    (h : windowOutcome w.forward w.reverse w.periods ≠ .stretch) : windowExpiry c w s =
      let r := closeWindow c w (windowOutcome w.forward w.reverse w.periods) s
      deliverSample c r.1 r.2.1 r.2.2 := if_neg h

theorem exec_windowPeriodExpiry {c : Chan} {w : Window} {s : State}
    (h : (s.wsc.get c).state = .measuring w) (due : w.due ≤ s.clock) :
    exec (.windowPeriodExpiry c) s = .next (windowExpiry c w s) := by
  have runs : whenDue (.windowPeriodExpiry c) (windowPeriodEnd c) s = windowExpiry c w s := by
    rw [whenDue, if_pos ((expiryDue_windowPeriod_iff s c).mpr ⟨w, h, due⟩), windowPeriodEnd, State.chan, h]
  exact congrArg Host.Outcome.next runs

/-! The fault record follows the counts (R16 to R19, R185, R186) -/

theorem FaultTable.set_get_self (t : FaultTable) (id : FaultId) : t.set id (t.get id) = t := by
  cases id <;> first | rfl | (rename_i x; cases x <;> rfl)

theorem State.setFault_fault_self (s : State) (id : FaultId) : s.setFault id (s.fault id) = s := by
  rw [State.setFault, State.fault, FaultTable.set_get_self]

section

variable {c : Chan} {s : State}

theorem raisesFault_iff : raisesFault s c = true ↔ (s.fault (chanFault c)).active = false
    ∧ (3 ≤ (s.wsc.get c).implausible ∨ 3 ≤ (s.wsc.get c).dead) := by
  unfold raisesFault State.chan
  simp

theorem followCounts_of_raises (h : raisesFault s c = true) : followCounts c s =
    sendReport (.faultRaised (chanFault c) ((s.fault (chanFault c)).raised s.nowMs))
      (s.setFault (chanFault c) ((s.fault (chanFault c)).raised s.nowMs)) := by
  have inactive : ¬ (s.fault (chanFault c)).active = true := by simp [(raisesFault_iff.mp h).1]
  rw [followCounts, if_pos h, raiseFault, if_neg inactive]

theorem followCounts_of_not_raises (h : raisesFault s c = false) : followCounts c s =
    s.setFault (chanFault c) { s.fault (chanFault c) with
      active := (s.fault (chanFault c)).active && decide ((s.wsc.get c).healthy < 3) } := by
  rw [followCounts, if_neg (by simp [h])]
  unfold endsFault State.chan
  by_cases ends : ((s.fault (chanFault c)).active && decide (3 ≤ (s.wsc.get c).healthy)) = true
  · obtain ⟨active, healthy⟩ : (s.fault (chanFault c)).active = true ∧ 3 ≤ (s.wsc.get c).healthy := by
      simpa using ends
    rw [if_pos ends, endFault, active, decide_eq_false (by omega), Bool.and_false]
  · have kept : ((s.fault (chanFault c)).active && decide ((s.wsc.get c).healthy < 3))
        = (s.fault (chanFault c)).active := by
      simpa using ends
    rw [if_neg ends, kept]
    exact (State.setFault_fault_self s _).symm

theorem followCounts_fault_of_raises (h : raisesFault s c = true) :
    (followCounts c s).fault (chanFault c) = (s.fault (chanFault c)).raised s.nowMs := by
  rw [followCounts_of_raises h, State.fault, sendReport_sfc]
  exact (State.setFault_fault s _ _ _).trans (if_pos rfl)

theorem followCounts_reported_of_raises (h : raisesFault s c = true) :
    reported (.faultRaised (chanFault c) ((followCounts c s).fault (chanFault c))) (followCounts c s) := by
  rw [followCounts_fault_of_raises h, followCounts_of_raises h]
  exact sendReport_reported_self _ _

theorem followCounts_fault_of_not_raises (h : raisesFault s c = false) :
    (followCounts c s).fault (chanFault c) = { s.fault (chanFault c) with
      active := (s.fault (chanFault c)).active && decide ((s.wsc.get c).healthy < 3) } := by
  rw [followCounts_of_not_raises h, State.setFault_fault, if_pos rfl]

theorem followCounts_lnk_of_not_raises (h : raisesFault s c = false) : (followCounts c s).lnk = s.lnk := by
  rw [followCounts_of_not_raises h]
  rfl

variable (c s)

theorem followCounts_eq : followCounts c s = { s with
    sfc := { s.sfc with faults := (followCounts c s).sfc.faults }, lnk := (followCounts c s).lnk } := by
  cases h : raisesFault s c
  · rw [followCounts_of_not_raises h]; rfl
  · rw [followCounts_of_raises h, sendReport_eq]; rfl

theorem followCounts_fault_ne {j : FaultId} (hj : j ≠ chanFault c) :
    (followCounts c s).fault j = s.fault j := by
  cases h : raisesFault s c
  · rw [followCounts_of_not_raises h, State.setFault_fault, if_neg hj]
  · rw [followCounts_of_raises h, State.fault, sendReport_sfc]
    exact (State.setFault_fault s _ j _).trans (if_neg hj)

end

/-! The sample (R12, R14, R16 to R19) -/

theorem isDead_iff (s : State) (c : Chan) (p : Sample) : isDead s c p = true
    ↔ ∃ x q, c = .axle x ∧ p.flags.standstill = true ∧ (s.wsc.axle.get x.partner).latest = some q
      ∧ q.flags.implausible = false ∧ q.flags.overrange = false ∧ 2000 ≤ q.v.natAbs := by
  cases c with
  | ground => simp [isDead]
  | axle x => cases h : (s.wsc.axle.get x.partner).latest <;> simp [isDead, h, and_assoc]

theorem closesInvalid_eq (s : State) (c : Chan) (w : Window) :
    closesInvalid s c w = (decide (c = .ground) && (w.drop || (s.fault .ground).active)) := by
  cases c <;> simp [closesInvalid]

theorem sampleOf_v_natAbs_le (s : State) (c : Chan) (w : Window) (o : WindowOutcome) :
    (sampleOf s c w o).v.natAbs ≤ 30000 := clampSpeed_natAbs_le _

theorem sampleOf_a_natAbs_le (s : State) (c : Chan) (w : Window) (o : WindowOutcome) :
    (sampleOf s c w o).a.natAbs ≤ 32000 := accelOf_natAbs_le _ _ _

theorem sampleOf_a_of_no_prev {s : State} {c : Chan} (h : (s.wsc.get c).prev = none) (w : Window)
    (o : WindowOutcome) : (sampleOf s c w o).a = 0 := by
  simp [sampleOf, State.chan, h, accelOf]

theorem tally_le_three (counts : Bool) (n : Nat) : tally counts n ≤ 3 := by
  unfold tally
  split <;> omega

theorem tally_healthy (implausible dead : Bool) (n : Nat) : tally (!implausible && !dead) n
    = if implausible = false ∧ dead = false then min 3 (n + 1) else 0 := by
  simp [tally]

/-! The channel after a close (R4, R7, R14 to R18) -/

/-- The channel after the close of a window with the sample `p`, in the next window `n`. -/
def Channel.closed (ch : Channel) (p : Sample) (dead : Bool) (n : Window) : Channel :=
  { ch with
    state := .measuring n
    circ := ch.pendingCirc <|> ch.circ, pendingCirc := none
    latest := some p
    prev := some ⟨p.v, p.endTime⟩
    seq := ch.seq + 1
    implausible := tally p.flags.implausible ch.implausible
    dead := tally dead ch.dead
    healthy := tally (!p.flags.implausible && !dead) ch.healthy }

section

variable (c : Chan) (w : Window) (o : WindowOutcome) (s : State)

/-- The state in which the record is judged: the sample is published and no window is open yet. -/
def published : State := publishSample c (sampleOf s c w o) (isDead s c (sampleOf s c w o)) s

theorem closeWindow_eq : closeWindow c w o s = (sampleOf s c w o, raisesFault (published c w o s) c,
    openWindow c (followCounts c (published c w o s))) := rfl

theorem published_eq : published c w o s = { s with wsc := (published c w o s).wsc } := rfl

/-- R4: a sample's publication and a fault do not reach into the window that then opens. -/
theorem freshWindow_followCounts_published :
    freshWindow (followCounts c (published c w o s)) c = freshWindow s c := by
  rw [followCounts_eq, published_eq]
  cases c with
  | ground => rfl
  | axle x => simp [freshWindow, openScale, published, publishSample, State.setChan, State.chan, PerChan.set,
      PerChan.get, opensDropped, State.windowMs]

/-- R5, R14: what a close leaves: the channel by `Channel.closed`, the fault table and the link by
`followCounts`, and everything else as it was. -/
theorem closeWindow_state : (closeWindow c w o s).2.2 = { s with
    wsc := s.wsc.set c ((s.wsc.get c).closed (sampleOf s c w o) (isDead s c (sampleOf s c w o))
      (freshWindow s c))
    sfc := { s.sfc with faults := (followCounts c (published c w o s)).sfc.faults }
    lnk := (followCounts c (published c w o s)).lnk } := by
  rw [closeWindow_eq]
  dsimp only
  rw [openWindow, freshWindow_followCounts_published, followCounts_eq]
  simp [published, publishSample, State.setChan, State.chan, PerChan.set_set, Channel.closed]

end

/-! The fault record after a close (R16 to R19, R185, R186) -/

section

variable (c : Chan) (w : Window) (o : WindowOutcome) (s : State)

theorem closeWindow_chan : (closeWindow c w o s).2.2.wsc.get c = (s.wsc.get c).closed (sampleOf s c w o)
    (isDead s c (sampleOf s c w o)) (freshWindow s c) := by
  rw [closeWindow_state, PerChan.get_set_self]

theorem closeWindow_fault (j : FaultId) :
    (closeWindow c w o s).2.2.fault j = (followCounts c (published c w o s)).fault j := by
  rw [closeWindow_state]
  rfl

theorem closeWindow_lnk : (closeWindow c w o s).2.2.lnk = (followCounts c (published c w o s)).lnk := by
  rw [closeWindow_state]

theorem closeWindow_fault_ne {j : FaultId} (hj : j ≠ chanFault c) :
    (closeWindow c w o s).2.2.fault j = s.fault j :=
  (closeWindow_fault c w o s j).trans (followCounts_fault_ne c _ hj)

/-- The record is judged by the counts the close leaves. -/
theorem published_counts :
    ((published c w o s).wsc.get c).implausible = ((closeWindow c w o s).2.2.wsc.get c).implausible
    ∧ ((published c w o s).wsc.get c).dead = ((closeWindow c w o s).2.2.wsc.get c).dead
    ∧ ((published c w o s).wsc.get c).healthy = ((closeWindow c w o s).2.2.wsc.get c).healthy := by
  rw [closeWindow_chan, published, publishSample, State.setChan, PerChan.get_set_self]
  exact ⟨rfl, rfl, rfl⟩

theorem closeWindow_counts_le : ((closeWindow c w o s).2.2.wsc.get c).implausible ≤ 3
    ∧ ((closeWindow c w o s).2.2.wsc.get c).dead ≤ 3
    ∧ ((closeWindow c w o s).2.2.wsc.get c).healthy ≤ 3 := by
  rw [closeWindow_chan]
  exact ⟨tally_le_three _ _, tally_le_three _ _, tally_le_three _ _⟩

theorem closeWindow_raised_iff : (closeWindow c w o s).2.1 = true
    ↔ (s.fault (chanFault c)).active = false
      ∧ (((closeWindow c w o s).2.2.wsc.get c).implausible = 3
        ∨ ((closeWindow c w o s).2.2.wsc.get c).dead = 3) := by
  obtain ⟨hi, hd, -⟩ := published_counts c w o s
  obtain ⟨li, ld, -⟩ := closeWindow_counts_le c w o s
  have judged : (closeWindow c w o s).2.1 = raisesFault (published c w o s) c := rfl
  have record : (published c w o s).fault = s.fault := rfl
  rw [judged, raisesFault_iff, hi, hd, record, li.ge_iff_eq, ld.ge_iff_eq]

theorem closeWindow_of_raised (h : (closeWindow c w o s).2.1 = true) :
    (closeWindow c w o s).2.2.fault (chanFault c) = (s.fault (chanFault c)).raised s.nowMs
    ∧ reported (.faultRaised (chanFault c) ((closeWindow c w o s).2.2.fault (chanFault c)))
      (closeWindow c w o s).2.2 := by
  unfold reported
  rw [closeWindow_fault, closeWindow_lnk]
  exact ⟨followCounts_fault_of_raises h, followCounts_reported_of_raises h⟩

theorem closeWindow_of_not_raised (h : (closeWindow c w o s).2.1 = false) :
    (closeWindow c w o s).2.2.lnk = s.lnk
    ∧ (closeWindow c w o s).2.2.fault (chanFault c) = { s.fault (chanFault c) with
      active := (s.fault (chanFault c)).active
        && decide (((closeWindow c w o s).2.2.wsc.get c).healthy ≠ 3) } := by
  obtain ⟨-, -, hh⟩ := published_counts c w o s
  obtain ⟨-, -, lh⟩ := closeWindow_counts_le c w o s
  replace h : raisesFault (published c w o s) c = false := h
  rw [closeWindow_fault, closeWindow_lnk, followCounts_lnk_of_not_raises h, followCounts_fault_of_not_raises h,
    hh, decide_eq_decide.mpr lh.lt_iff_ne]
  exact ⟨rfl, rfl⟩

end

/-! The readers (R15) -/

theorem deliverSample_cases (c : Chan) (p : Sample) (raised : Bool) (s : State) : ∃ f,
    (∀ x, c = .axle x → ∃ readers : List (State → State),
      deliverSample c p raised s = inOrder readers { s with free := f }
      ∧ readers.Perm [refArrival x p, adhArrivalJudged x p raised, tripArrival x p, hillArrival x p])
    ∧ (c = .ground → deliverSample c p raised s = refGround p { s with free := f }) := by
  cases c with
  | ground => exact ⟨s.free, fun _ hx => absurd hx (by simp), fun _ => rfl⟩
  | axle x =>
    obtain ⟨f, hf⟩ := drawFrom_changes_free Config.freeOrder s
    refine ⟨f, fun y hy => ?_, fun h => absurd h (by simp)⟩
    cases hy
    refine ⟨arrange 4 (drawFrom Config.freeOrder s).1 _, ?_, arrange_perm 4 _ _ rfl⟩
    rw [← hf]
    rfl

theorem deliverSample_still (c : Chan) (p : Sample) (raised : Bool) (s : State) :
    Still s (deliverSample c p raised s) := deliverSample_keeps (stable_still s) c p raised (Still.refl s)

/-- Settles O38: a stretch is `stretchWindow`; a close leaves `closeWindow_state`, which the readers keep but for
their own blocks (`deliverSample_still`). -/
theorem windowPeriodExpires : Obligations.WindowPeriodExpires := by
  unfold Obligations.WindowPeriodExpires
  refine fun c w s measuring due => ⟨fun few short => ?_, fun closes => ?_⟩
  · rw [exec_windowPeriodExpiry measuring due,
      windowExpiry_of_stretch (windowOutcome_eq_stretch_iff.mpr ⟨few, short⟩)]
    rfl
  · have outcome : windowOutcome w.forward w.reverse w.periods ≠ .stretch := fun e => by
      have := windowOutcome_eq_stretch_iff.mp e
      omega
    rw [exec_windowPeriodExpiry measuring due, windowExpiry_of_close outcome]
    have rest := windowOutcome_eq_atRest_iff closes
    generalize ho : windowOutcome w.forward w.reverse w.periods = o at rest
    obtain ⟨f, axles, ground⟩ := deliverSample_cases c (closeWindow c w o s).1 (closeWindow c w o s).2.1
      (closeWindow c w o s).2.2
    have still := deliverSample_still c (closeWindow c w o s).1 (closeWindow c w o s).2.1
      (closeWindow c w o s).2.2
    have chan := closeWindow_chan c w o s
    have fields := closeWindow_state c w o s
    refine ⟨_, { (closeWindow c w o s).2.2 with free := f }, sampleOf s c w o,
      isDead s c (sampleOf s c w o), (closeWindow c w o s).2.1, rfl, rfl, ?_, axles, ground, still.wsc,
      isDead_iff s c _, ?_, ?_, fun id hid => ?_, ?_⟩
    · rw [fields]
    · dsimp only
      rw [chan]
      rfl
    · dsimp only
      rw [chan, Channel.closed, tally_healthy]
    · obtain rfl : id = chanFault c := hid.trans (by cases c <;> rfl)
      refine ⟨closeWindow_raised_iff c w o s, fun raises => ?_, closeWindow_of_not_raised c w o s,
        fun j hj => closeWindow_fault_ne c w o s hj⟩
      obtain ⟨record, sent⟩ := closeWindow_of_raised c w o s raises
      exact ⟨record.trans (by rw [FaultRec.raised, Nat.min_comm]), sent⟩
    · dsimp only
      rw [still.wsc, still.cfg, still.eblOpen, chan]
      refine ⟨rfl, rfl, rfl, rfl, rfl, rfl, rfl, rfl, ⟨freshWindow s c, rfl, rfl, rfl, rfl, rfl, rfl, rfl⟩,
        fun d hd => ?_, by rw [fields], by rw [fields], rfl, rfl, rfl, rfl, rfl, decide_eq_decide.mpr rest,
        decide_eq_decide.mpr (ho ▸ windowOutcome_eq_bothWays_iff), rfl, rfl, rfl, closesInvalid_eq s c w,
        fun few => ?_, fun first => sampleOf_a_of_no_prev first w o, sampleOf_v_natAbs_le s c w o,
        sampleOf_a_natAbs_le s c w o⟩
      · rw [fields]
        exact PerChan.get_set_ne _ _ hd
      · rw [rest.mpr few]
        rfl

end Sys2Proof.Machine
end

section
/-! SUPPORT. AXLE ISOLATE (R20): ADH's move of the axle, and what an entry to FAILSAFE leaves alone (R181). -/

namespace Sys2Proof

theorem PerBogie.set_get_self {α : Type} (p : PerBogie α) (x : Bogie) : p.set x (p.get x) = p := by
  cases x <;> rfl

theorem Axle.mem_all (x : Axle) : x ∈ Axle.all := by
  cases x <;> decide

end Sys2Proof

namespace Sys2Proof.Machine

/-! The route queue where the brakes, sanding and the slide trip move (R149, R155, R172) -/

theorem raiseIfEmpty_rlq (e : Side) (s : State) : (raiseIfEmpty e s).rlq = s.rlq := by
  unfold raiseIfEmpty raiseFault
  split
  · split
    · rfl
    · exact sendReport_rlq _ _
  · rfl

theorem abandonShot_rlq (e : Side) (s : State) : (abandonShot e s).rlq = s.rlq := by
  unfold abandonShot
  split
  · exact raiseIfEmpty_rlq e _
  · rfl
  · rfl

theorem leaveSand_rlq (s : State) : (leaveSand s).rlq = s.rlq :=
  inSomeOrder_rlq (fun f hf t => by
    obtain ⟨e, -, rfl⟩ := List.mem_map.mp hf
    exact abandonShot_rlq e t) s

theorem closeDump_rlq (cause : CloseCause) (slip accel : Int) (floors : PerBogie AimCause) (x : Bogie)
    (s : State) : (closeDump cause slip accel floors x s).rlq = s.rlq := by
  unfold closeDump
  dsimp only
  split
  · rfl
  · exact (sendReport_rlq _ _).trans (rlq_of_view (rerunWith_view _ _))

theorem tripFloorRise_rlq (rose : PerBogie Bool) (floors : PerBogie AimCause) (s : State) :
    (tripFloorRise rose floors s).rlq = s.rlq :=
  inSomeOrder_rlq (fun f hf t => by
    obtain ⟨x, -, rfl⟩ := List.mem_map.mp hf
    exact closeDump_rlq _ _ _ _ x t) s

theorem sandHoldChange_rlq (old new : Hold) (s : State) : (sandHoldChange old new s).rlq = s.rlq := by
  unfold sandHoldChange
  repeat' split
  all_goals rfl

theorem hillPublish_rlq (old : State) (caught force : Bool) {also : List (State → State)}
    (ha : ∀ f ∈ also, ∀ t, (f t).rlq = t.rlq) (s : State) :
    (hillPublish old caught force also s).rlq = s.rlq := by
  unfold hillPublish
  dsimp only
  refine inSomeOrder_rlq (fun f hf t => ?_) s
  simp only [List.mem_append] at hf
  rcases hf with ((hf | hf) | hf) | hf
  · split at hf
    · rw [List.mem_singleton.mp hf]; exact rlq_of_view (rerunWith_view _ t)
    · exact absurd hf List.not_mem_nil
  · split at hf
    · rw [List.mem_singleton.mp hf]; exact tripFloorRise_rlq _ _ t
    · exact absurd hf List.not_mem_nil
  · split at hf
    · rw [List.mem_singleton.mp hf]; exact sandHoldChange_rlq _ _ t
    · exact absurd hf List.not_mem_nil
  · exact ha f hf t

theorem leaveHill_rlq (s : State) : (leaveHill s).rlq = s.rlq := by
  unfold leaveHill
  exact hillPublish_rlq _ _ _ (by simp) _

/-! What an entry to FAILSAFE leaves alone (R24, R181, Table 9-6) -/

/-- What no block changes on leaving ACTIVE: the channels, REF, the route, the analog channels, the sections,
every fault record but SAND_EMPTY, and the record of an axle that is ISOLATED. -/
structure OutsideActive (s t : State) : Prop where
  wsc : t.wsc = s.wsc
  ref : t.ref = s.ref
  rlq : t.rlq = s.rlq
  chan : t.afe.chan = s.afe.chan
  cfg : t.sfc.cfg = s.sfc.cfg
  fault : ∀ id, (∀ e, id ≠ .sandEmpty e) → t.fault id = s.fault id
  isolated : ∀ x, s.adh.axle.get x = ⟨.isolated, 0⟩ → t.adh.axle.get x = ⟨.isolated, 0⟩

theorem OutsideActive.refl (s : State) : OutsideActive s s :=
  ⟨rfl, rfl, rfl, rfl, rfl, fun _ _ => rfl, fun _ h => h⟩

theorem OutsideActive.trans {s t u : State} (a : OutsideActive s t) (b : OutsideActive t u) :
    OutsideActive s u :=
  ⟨b.wsc.trans a.wsc, b.ref.trans a.ref, b.rlq.trans a.rlq, b.chan.trans a.chan, b.cfg.trans a.cfg,
    fun id h => (b.fault id h).trans (a.fault id h), fun x h => b.isolated x (a.isolated x h)⟩

theorem outsideActive_of_core {s t : State} (h : t.core = s.core) (route : t.rlq = s.rlq) :
    OutsideActive s t :=
  ⟨wsc_of_core h, ref_of_core h, route, chan_of_core h, cfg_of_core h, fun _ hid => fault_of_core h hid,
    fun x hx => by rw [adh_of_core h, hx]⟩

theorem deliverLimits_onlyBlend (old s : State) : OnlyBlend s (deliverLimits old s) := by
  unfold deliverLimits
  split
  · exact rerun_onlyBlend s
  · rfl

theorem deliverLimits_core (old s : State) : (deliverLimits old s).core = s.core := by
  unfold deliverLimits
  split
  · exact rerun_core s
  · rfl

theorem leaveAdh_outside (s : State) : OutsideActive s (leaveAdh s) := by
  have step : OutsideActive s { s with adh := { axle := s.adh.allGrip, bogie := Adh.powerOn.bogie } } :=
    ⟨rfl, rfl, rfl, rfl, rfl, fun _ _ => rfl, fun x hx => by simp [Adh.allGrip, hx]⟩
  exact step.trans (outsideActive_of_core (deliverLimits_core _ _) (rlq_of_view (deliverLimits_view _ _)))

theorem leaveHill_outside (s : State) : OutsideActive s (leaveHill s) := by
  have core := leaveHill_onlyHhu s
  exact ⟨congrArg CoreView.wsc core, congrArg CoreView.ref core, leaveHill_rlq s, congrArg CoreView.chan core,
    congrArg CoreView.cfg core,
    fun _ hid => fault_of_core (t := { s with hhu := (leaveHill s).hhu }) core hid,
    fun x hx => by rw [show (leaveHill s).adh = s.adh from congrArg CoreView.adh core, hx]⟩

theorem failsafeBlend_outside (s : State) : OutsideActive s (failsafeBlend s) := by
  unfold failsafeBlend
  exact OutsideActive.trans
    (t := { s with bld := { s.bld.idle true with demand := { s.bld.demand with timer := none } } })
    ⟨rfl, rfl, rfl, rfl, rfl, fun _ _ => rfl, fun _ h => h⟩
    (outsideActive_of_core (jumpAll_core _ _) (rlq_of_view (jumpAll_view _ _)))

/-- R181: the blocks' taking of an entry to FAILSAFE, in any order. -/
theorem enterFailsafe_outside (cause : StateCause) (s : State) : OutsideActive s (enterFailsafe cause s) := by
  unfold enterFailsafe
  split
  · unfold changeState
    refine inSomeOrder_keeps (P := OutsideActive s)
      (fun hs => hs.trans (outsideActive_of_core (drawFrom_core _ _) (rlq_of_view (drawFrom_view _ _))))
      (fun f hf t ht => ht.trans ?_)
      ⟨rfl, rfl, rfl, rfl, rfl, fun _ _ => rfl, fun _ h => h⟩
    simp only [List.mem_cons, List.not_mem_nil, or_false] at hf
    rcases hf with rfl | rfl | rfl | rfl | rfl | rfl
    · exact outsideActive_of_core (sendReport_core _ t) (sendReport_rlq _ t)
    · exact leaveAdh_outside t
    · exact leaveHill_outside t
    · exact outsideActive_of_core (leaveSand_core t) (leaveSand_rlq t)
    · exact outsideActive_of_core (leaveTrip_core t) (rlq_of_view (leaveTrip_view t))
    · exact failsafeBlend_outside t
  · exact OutsideActive.refl s

theorem judgeAxles_outside (s : State) : OutsideActive s (judgeAxles s) := by
  unfold judgeAxles
  split
  · exact enterFailsafe_outside _ s
  · exact OutsideActive.refl s

/-- No delivery of a block changes the operating state out of FAILSAFE. -/
theorem stable_failsafe : Stable (fun s => s.sfc.opState = .failsafe) where
  view e hs := (opState_of_view e).trans hs
  report r s hs := (congrArg Sfc.opState (sendReport_sfc r s)).trans hs
  fault _ _ _ _ _ hs := hs
  sand _ _ _ hs := hs
  route _ _ _ hs := hs
  failsafe _ _ := rfl

theorem enterFailsafe_opState (cause : StateCause) {s : State} (h : s.isActive = true) :
    (enterFailsafe cause s).sfc.opState = .failsafe := by
  rw [enterFailsafe, if_pos h]
  refine changeState_keeps stable_failsafe _ _ (fun f hf t ht => ?_) rfl
  simp only [List.mem_cons, List.not_mem_nil, or_false] at hf
  rcases hf with rfl | rfl | rfl | rfl | rfl
  · exact stable_failsafe.view (leaveAdh_view t) ht
  · exact leaveHill_keeps stable_failsafe ht
  · exact leaveSand_keeps stable_failsafe ht
  · exact leaveTrip_keeps stable_failsafe ht
  · exact stable_failsafe.view (failsafeBlend_view t) ht

/-- R181, AXLES: with an axle watched, or outside ACTIVE, the judgement does nothing. -/
theorem judgeAxles_of_stays {s : State} (h : s.sfc.opState ≠ .active ∨ ∃ y, s.unwatched y = false) :
    judgeAxles s = s := by
  unfold judgeAxles
  split
  · next all =>
    rcases h with h | ⟨y, hy⟩
    · rw [enterFailsafe, if_neg (by simpa [State.isActive] using h)]
    · have := List.all_eq_true.mp all y (Axle.mem_all y)
      simp [hy] at this
  · rfl

theorem judgeAxles_opState_of_enters {s : State} (active : s.sfc.opState = .active)
    (all : ∀ y, s.unwatched y = true) : (judgeAxles s).sfc.opState = .failsafe := by
  rw [judgeAxles, if_pos (List.all_eq_true.mpr fun y _ => all y)]
  exact enterFailsafe_opState _ (by simpa [State.isActive] using active)

/-! The hold of an unsupervised bogie (R65, R66, R68) -/

theorem unsupervised_iff (s : State) (x : Bogie) : unsupervised s x = true ↔ isUnsupervised s x := by
  simp [unsupervised, State.unwatched]

theorem lostHold_iff (s : State) (x : Bogie) : lostHold s x = true ↔ s.ref.active = .lost ∧ x ≠ .t := by
  cases x <;> simp [lostHold, Bogie.motor?]

theorem unsupLimit_eq (s : State) (x : Bogie) (limit : Nat) : unsupLimit s x limit =
    if x = .t then s.adhesion.unsup else min limit s.adhesion.unsup := by
  cases x <;> rfl

/-- The hold of R65 and R66 acts on the bogie. -/
def holds (s : State) (x : Bogie) : Prop :=
  s.sfc.opState = .active ∧ isUnsupervised s x ∧ ¬ (s.ref.active = .lost ∧ x ≠ .t)

theorem holdUnsupervised_eq (x : Bogie) (s : State) : ∃ n,
    holdUnsupervised x s = s.setBogie x { s.adh.bogie.get x with limit := n }
    ∧ (holds s x → n = if x = .t then s.adhesion.unsup else min (s.adh.bogie.get x).limit s.adhesion.unsup)
    ∧ (¬ holds s x → n = (s.adh.bogie.get x).limit) := by
  by_cases h : holds s x
  · obtain ⟨active, unsup, free⟩ := h
    refine ⟨unsupLimit s x (s.limit x), ?_, fun _ => unsupLimit_eq s x _,
      fun no => absurd ⟨active, unsup, free⟩ no⟩
    rw [holdUnsupervised, if_neg (by rwa [lostHold_iff]), applyHold,
      if_pos ⟨by simpa [State.isActive] using active, (unsupervised_iff s x).mpr unsup⟩]
  · refine ⟨(s.adh.bogie.get x).limit, ?_, fun yes => absurd yes h, fun _ => rfl⟩
    have kept : s.setBogie x (s.adh.bogie.get x) = s := by rw [State.setBogie, PerBogie.set_get_self]
    refine Eq.trans ?_ kept.symm
    rw [holdUnsupervised]
    split
    · rfl
    · next free =>
      rw [applyHold, if_neg]
      rintro ⟨active, unsup⟩
      exact h ⟨by simpa [State.isActive] using active, (unsupervised_iff s x).mp unsup,
        fun lost => free ((lostHold_iff s x).mpr lost)⟩

/-! ADH's move of the axle (R53, R56, R131) -/

theorem deliverLimits_sendReport (old : State) (r : Report) (s : State) :
    deliverLimits old (sendReport r s) = { s with
      bld := (deliverLimits old (sendReport r s)).bld
      afe := { s.afe with sup := (deliverLimits old (sendReport r s)).afe.sup }
      lnk := (deliverLimits old (sendReport r s)).lnk } := by
  have chan : (deliverLimits old (sendReport r s)).afe.chan = s.afe.chan :=
    chan_of_core ((deliverLimits_core _ _).trans (sendReport_core r s))
  have blend := deliverLimits_onlyBlend old (sendReport r s)
  generalize deliverLimits old (sendReport r s) = t at chan blend
  unfold OnlyBlend at blend
  rw [sendReport_eq] at blend
  have lnk := congrArg State.lnk blend
  dsimp only at lnk ⊢
  rw [← chan, lnk]
  exact blend

/-- R53: ADH's move of an axle leaves the rest of the state but for what the allocation then does; `n` is the
limit of the axle's bogie after it, which the report carries. -/
theorem withdrawAxle_eq (x : Axle) (state : AdhState) (cause : AxleCause) (s : State) : ∃ n,
    (holds (s.setAxle x ⟨state, 0⟩) x.bogie → n = if x.bogie = .t then s.adhesion.unsup
        else min (s.adh.bogie.get x.bogie).limit s.adhesion.unsup)
    ∧ (¬ holds (s.setAxle x ⟨state, 0⟩) x.bogie → n = (s.adh.bogie.get x.bogie).limit)
    ∧ withdrawAxle x state cause id s = { s with
        adh := {
          axle := s.adh.axle.set x ⟨state, 0⟩
          bogie := s.adh.bogie.set x.bogie { s.adh.bogie.get x.bogie with limit := n } }
        hhu := { s.hhu with acc := s.hhu.acc.set x 0 }
        bld := (withdrawAxle x state cause id s).bld
        afe := { s.afe with sup := (withdrawAxle x state cause id s).afe.sup }
        lnk := (withdrawAxle x state cause id s).lnk }
    ∧ reported (.axleState (.axle x) cause state (s.adhState x) 0 n (s.adh.bogie.get x.bogie).low s.nowMs)
        (withdrawAxle x state cause id s) := by
  obtain ⟨n, held, hold, free⟩ := holdUnsupervised_eq x.bogie (s.setAxle x ⟨state, 0⟩)
  have moved : withdrawAxle x state cause id s = hillUnwatch x (deliverLimits s
      (sendReport (.axleState (.axle x) cause state (s.adhState x) 0 n (s.adh.bogie.get x.bogie).low s.nowMs)
        ((s.setAxle x ⟨state, 0⟩).setBogie x.bogie { s.adh.bogie.get x.bogie with limit := n }))) := by
    unfold withdrawAxle axleReport
    dsimp only
    rw [id, held]
    simp [State.adhState, State.setBogie, State.setAxle, State.nowMs]
  refine ⟨n, hold, free, ?_, ?_⟩
  · rw [moved, hillUnwatch, deliverLimits_sendReport]
    rfl
  · rw [moved]
    exact (stable_reported _).view ((hillUnwatch_view _ _).trans (deliverLimits_view _ _))
      (sendReport_reported_self _ _)

/-! AXLE ISOLATE (R20) -/

section

variable {tag axle : Byte} {s : State}

theorem exec_axleIsolate (h : accepts s) :
    exec (.axleIsolate tag axle) s = .next (takeAxleIsolate tag axle s) :=
  congrArg Host.Outcome.next (asRequest_of_accepts (takeAxleIsolate tag axle) h)

theorem takeAxleIsolate_of_axle {x : Axle} (hx : Axle.ofNumber? axle.toNat = some x) :
    takeAxleIsolate tag axle s = applyIsolate x (answer .axleIsolate tag (.ok []) s) := by
  rw [takeAxleIsolate, hx]

end

/-- The state of an isolation before SFC judges the axles. -/
def withdrawn (x : Axle) (s : State) : State := isolateAxle x (isolateChannel x s)

theorem applyIsolate_of_clear {x : Axle} {s : State} (h : (s.wsc.axle.get x).isolated = false) :
    applyIsolate x s = judgeAxles (withdrawn x s) := by
  rw [applyIsolate, if_neg (by simp [h])]
  rfl

/-- R20, R53: the channel and ADH after the isolation of an axle, before SFC judges the axles. -/
theorem withdrawn_eq (x : Axle) (s : State) : ∃ n,
    (holds (withdrawn x s) x.bogie → n = if x.bogie = .t then s.adhesion.unsup
        else min (s.adh.bogie.get x.bogie).limit s.adhesion.unsup)
    ∧ (¬ holds (withdrawn x s) x.bogie → n = (s.adh.bogie.get x.bogie).limit)
    ∧ withdrawn x s = { s with
        wsc := s.wsc.set (.axle x) { (s.wsc.axle.get x).forgotten with isolated := true }
        adh := {
          axle := s.adh.axle.set x ⟨.isolated, 0⟩
          bogie := s.adh.bogie.set x.bogie { s.adh.bogie.get x.bogie with limit := n } }
        hhu := { s.hhu with acc := s.hhu.acc.set x 0 }
        bld := (withdrawn x s).bld
        afe := { s.afe with sup := (withdrawn x s).afe.sup }
        lnk := (withdrawn x s).lnk }
    ∧ reported (.axleState (.axle x) .isolated .isolated (s.adhState x) 0 n (s.adh.bogie.get x.bogie).low
        s.nowMs) (withdrawn x s) := by
  obtain ⟨n, hold, free, e, report⟩ := withdrawAxle_eq x .isolated .isolated (isolateChannel x s)
  have same : holds (withdrawn x s) x.bogie
      ↔ holds ((isolateChannel x s).setAxle x ⟨.isolated, 0⟩) x.bogie := by
    rw [withdrawn, isolateAxle, e]
    rfl
  exact ⟨n, fun h => hold (same.mp h), fun h => free fun yes => h (same.mpr yes), e, report⟩

theorem withdrawn_outside (x : Axle) (s : State) :
    OutsideActive { s with
      wsc := s.wsc.set (.axle x) { (s.wsc.axle.get x).forgotten with isolated := true }
      adh := { s.adh with axle := s.adh.axle.set x ⟨.isolated, 0⟩ } } (withdrawn x s) := by
  obtain ⟨n, -, -, e, -⟩ := withdrawn_eq x s
  rw [e]
  exact ⟨rfl, rfl, rfl, rfl, rfl, fun _ _ => rfl, fun _ h => h⟩

theorem withdrawn_unwatched (x : Axle) (s : State) (y : Axle) :
    (withdrawn x s).unwatched y = if y = x then true else s.unwatched y := by
  obtain ⟨n, -, -, e, -⟩ := withdrawn_eq x s
  rw [e, State.unwatched, State.adhState]
  split
  · next hy => simp [hy]
  · next hy =>
    dsimp only
    rw [PerAxle.get_set_ne _ _ hy]
    rfl

/-- Settles O41: `withdrawn_eq`, which the judgement of the axles leaves as it is while one is watched or
outside ACTIVE, and of which an entry to FAILSAFE keeps `OutsideActive`. -/
theorem axleIsolate : Obligations.AxleIsolate := by
  unfold Obligations.AxleIsolate
  refine fun tag axle s h => ⟨fun large => ?_, fun x hx => ⟨fun isolated => ?_, fun clear => ?_⟩⟩
  · rw [answersOnly, exec_axleIsolate h, takeAxleIsolate, Axle.ofNumber?_of_six_le large]
  · rw [answersOnly, exec_axleIsolate h, takeAxleIsolate_of_axle hx, applyIsolate,
      if_pos (by simpa using isolated)]
  · rw [exec_axleIsolate h, takeAxleIsolate_of_axle hx, applyIsolate_of_clear (by simpa using clear)]
    have answered := answer_replied .axleIsolate tag (.ok []) s
    generalize ha : answer .axleIsolate tag (.ok []) s = a at answered
    obtain ⟨l, rfl⟩ : ∃ l, a = { s with lnk := l } := ⟨a.lnk, by rw [← ha]; exact answer_eq _ _ _ s⟩
    have outside := (withdrawn_outside x { s with lnk := l }).trans (judgeAxles_outside _)
    have unwatched := withdrawn_unwatched x { s with lnk := l }
    have replied_u : replied .axleIsolate tag (.ok []) (withdrawn x { s with lnk := l }) :=
      withdrawAxle_keeps (stable_replied _ _ _) x _ _ (fun _ => rfl) answered
    obtain ⟨n, hold, free, e, report⟩ := withdrawn_eq x { s with lnk := l }
    generalize withdrawn x { s with lnk := l } = u at *
    have op : u.sfc.opState = s.sfc.opState := by rw [e]
    have bogie : u.adh.bogie.get x.bogie = { s.adh.bogie.get x.bogie with limit := n } := by
      rw [e]; exact PerBogie.get_set_self _ _ _
    have holds_iff : holds u x.bogie ↔ s.sfc.opState = .active ∧ isUnsupervised u x.bogie
        ∧ ¬ (s.ref.active = .lost ∧ x.bogie ≠ .t) := by
      rw [holds, op, show u.ref = s.ref by rw [e]]
    refine ⟨_, rfl, judgeAxles_keeps (stable_replied _ _ _) replied_u, outside.wsc,
      outside.isolated x (PerAxle.get_set_self _ _ _),
      ⟨n, _, judgeAxles_keeps (stable_reported _) report⟩, outside.ref, outside.rlq, outside.chan, outside.cfg,
      outside.fault, fun active others => ?_, fun stays => ?_⟩
    · refine judgeAxles_opState_of_enters (op.trans active) fun y => ?_
      by_cases hy : y = x
      · rw [unwatched, if_pos hy]
      · rw [unwatched, if_neg hy]
        exact others y hy
    · have same : judgeAxles u = u := by
        refine judgeAxles_of_stays (stays.imp (fun h => by rwa [op]) ?_)
        rintro ⟨y, hy, watched⟩
        exact ⟨y, by rw [unwatched, if_neg hy]; exact watched⟩
      rw [same, bogie]
      refine ⟨op, fun y hy => ?_, fun y hy => ?_, rfl, fun held => hold (holds_iff.mpr held),
        fun open_ => free fun held => ?_, report⟩
      · rw [e]; exact PerAxle.get_set_ne _ _ hy
      · rw [e]; exact PerBogie.get_set_ne _ _ hy
      · obtain ⟨active, unsup, notLost⟩ := holds_iff.mp held
        exact open_.elim (· active) (Or.elim · (· unsup) notLost)

end Sys2Proof.Machine
end

section
/-! SUPPORT. What the requests for sand, the distance increments and HHU's entry to HOLDING leave: the rules that
the reference unit's events need of the other blocks. -/

namespace Sys2Proof.Machine

/-! Two deliveries in an order the manual leaves open (log 3) -/

theorem inSomeOrder_pair (f g : State → State) (s : State) : ∃ n,
    inSomeOrder [f, g] s = g (f { s with free := n }) ∨ inSomeOrder [f, g] s = f (g { s with free := n }) := by
  obtain ⟨n, hn⟩ := drawFrom_changes_free Config.freeOrder s
  have drawn : inSomeOrder [f, g] s = inOrder (arrange 2 (drawFrom Config.freeOrder s).1 [f, g])
      { s with free := n } := by
    rw [← hn]; rfl
  refine ⟨n, ?_⟩
  rw [drawn]
  generalize (drawFrom Config.freeOrder s).1 = c
  rcases Nat.mod_two_eq_zero_or_one c with h | h
  · left; simp [arrange, h, inOrder, Nat.mod_one]
  · right; simp [arrange, h, inOrder, Nat.mod_one]

/-! A request for sand at the other blocks (R138 to R147) -/

/-- A request that joins the sand queue changes SND, the allocation, its output conditions and the link. -/
abbrev OnlySand (s t : State) : Prop := t = { s with bld := t.bld, snd := t.snd, afe := t.afe, lnk := t.lnk }

theorem OnlySand.trans {s t u : State} (a : OnlySand s t) (b : OnlySand t u) : OnlySand s u := by
  unfold OnlySand at *
  rw [b, a]

theorem onlySand_of_onlyBlend {s t : State} (h : OnlyBlend s t) : OnlySand s t := by
  unfold OnlySand
  rw [h]

theorem sendReport_onlySand (r : Report) (s : State) : OnlySand s (sendReport r s) := by
  unfold OnlySand
  rw [sendReport_eq]

theorem setSanded_onlySand (s : State) : OnlySand s (setSanded s) := by
  unfold setSanded
  dsimp only
  split
  · exact OnlySand.trans (t := { s with snd := { s.snd with sanded := s.vehicle.sLen * 1000 } }) rfl
      (onlySand_of_onlyBlend (rerun_onlyBlend _))
  · rfl

theorem grant_onlySand (x : SandEntry) (s : State) : OnlySand s (grant x s) := by
  unfold grant
  refine OnlySand.trans (OnlySand.trans ?_ (sendReport_onlySand _ _)) (setSanded_onlySand _)
  rfl

theorem judgeEnd_onlySand (e : Side) (s : State) : OnlySand s (judgeEnd e s) := by
  unfold judgeEnd
  split
  · rfl
  · exact grant_onlySand _ s

theorem enqueueSand_onlySand (source : SandSource) (e : Side) (leading : Bool) (shots : Nat) (s : State) :
    OnlySand s (enqueueSand source e leading shots s) := by
  unfold enqueueSand
  split
  · rfl
  · split
    · rfl
    · split
      · refine OnlySand.trans (t := evict s) ?_ rfl
        unfold evict
        split
        · rfl
        · exact OnlySand.trans (t := s.setSandQueue _) rfl (sendReport_onlySand _ _)
      · split
        · rfl
        · exact sendReport_onlySand _ s

theorem joinAll_onlySand (source : SandSource) (e : Side) (leading : Bool) (shots : List Nat) (s : State) :
    OnlySand s (joinAll source e leading shots s) := by
  induction shots generalizing s with
  | nil => rfl
  | cons n rest ih =>
    refine OnlySand.trans (t := joinNext source e leading n (!rest.isEmpty) s) ?_ (ih _)
    unfold joinNext
    dsimp only
    split
    · exact (enqueueSand_onlySand _ _ _ _ s).trans (judgeEnd_onlySand e _)
    · exact enqueueSand_onlySand _ _ _ _ s

theorem requestLeading_onlySand (source : SandSource) (shots : Nat) (s : State) :
    OnlySand s (requestLeading source shots s) := by
  unfold requestLeading requestLeadingAll
  split
  · exact joinAll_onlySand _ _ _ _ s
  · rfl

/-! A distance increment at the route (R43, R79 to R82) -/

/-- R79 to R82: the route queue after an increment of `m` mm. -/
def routeAfter (m : Int) (r : Rlq) : Rlq :=
  let p : Int := (r.pos.getD 0 : Nat) + m
  let w := retire r.queue p.toNat
  if r.queue = [] then r
  else if p < 0 then { r with pos := some 0, uncertain := true }
  else if w.queue = [] then Rlq.powerOn
  else { r with queue := w.queue, pos := some w.pos }

theorem advance_rlq (p : Nat) (s : State) : (advance p s).rlq =
    if (retire s.rlq.queue p).queue = [] then Rlq.powerOn
    else { s.rlq with queue := (retire s.rlq.queue p).queue, pos := some (retire s.rlq.queue p).pos } := by
  unfold advance
  dsimp only
  split
  · rw [segmentChange_rlq, sendReport_rlq]; rfl
  · split
    · rw [reportPassed_rlq]
    · rw [segmentChange_rlq, reportPassed_rlq]

theorem routeDistance_rlq (m : Int) (s : State) : (routeDistance m s).rlq = routeAfter m s.rlq := by
  unfold routeDistance routeAfter
  dsimp only
  split
  · rfl
  · split
    · rfl
    · exact advance_rlq _ s

theorem judgeEnds_rlq (s : State) : (judgeEnds s).rlq = s.rlq :=
  inSomeOrder_rlq (fun f hf t => by
    obtain ⟨e, -, rfl⟩ := List.mem_map.mp hf
    exact judgeEnd_rlq e t) s

theorem sandDistance_rlq (mm : Nat) (s : State) : (sandDistance mm s).rlq = s.rlq := by
  have lower : ∀ t, (lowerSanded mm t).rlq = t.rlq := fun t => rlq_of_view (lowerSanded_view mm t)
  unfold sandDistance
  split
  · refine inSomeOrder_rlq (fun f hf t => ?_) s
    rcases List.mem_cons.mp hf with rfl | hf
    · exact lower t
    · rw [List.mem_singleton.mp hf]; exact judgeEnds_rlq t
  · exact lower s

theorem distance_rlq (m : Int) (s : State) :
    (distance m s).rlq = if m = 0 then s.rlq else routeAfter m s.rlq := by
  unfold distance
  split
  · rfl
  · obtain ⟨n, h | h⟩ := inSomeOrder_pair (routeDistance m) (sandDistance m.natAbs) s
    · rw [h, sandDistance_rlq, routeDistance_rlq]
    · rw [h, routeDistance_rlq, sandDistance_rlq]

/-! Entry to HOLDING (R121, R123, R124) -/

theorem moveHold_reported (reason : HoldReason) {also : List (State → State)}
    (ha : ∀ f ∈ also, ∀ (r : Report) (t : State), reported r t → reported r (f t)) (next : Hhu) (s : State) :
    reported (holdReport s.hhu.state reason { s with hhu := next }) (moveHold reason also next s) := by
  unfold moveHold hillPublish
  dsimp only
  have kept := stable_reported (holdReport s.hhu.state reason { s with hhu := next })
  refine inSomeOrder_reaches (P := fun _ => True) (fun _ => trivial) (fun _ _ _ _ => trivial)
    (fun g hg t _ ht => ?_) (List.mem_append_right _ List.mem_cons_self)
    (fun t _ => sendReport_reported_self _ t) trivial
  simp only [List.mem_append, List.mem_cons] at hg
  rcases hg with ((hg | hg) | hg) | rfl | hg
  · split at hg
    · rw [List.mem_singleton.mp hg]; exact kept.view (rerunWith_view _ t) ht
    · exact absurd hg List.not_mem_nil
  · split at hg
    · rw [List.mem_singleton.mp hg]; exact tripFloorRise_keeps kept _ _ ht
    · exact absurd hg List.not_mem_nil
  · split at hg
    · rw [List.mem_singleton.mp hg]; exact sandHoldChange_keeps kept _ _ ht
    · exact absurd hg List.not_mem_nil
  · exact kept.report _ ht
  · exact ha g hg _ t ht

/-- The three release ramps absent, the floors published are those of the record. -/
theorem floors_of_no_ramps (s : State) (h : Hhu) (ramps : h.ramp = ⟨none, none, none⟩) :
    ({ s with hhu := h } : State).floors = h.floor := by
  rw [State.floors, PerBogie.of]
  simp only [State.floor, ramps]
  rfl

theorem enterHolding_eq (reason : HoldReason) (s : State) :
    enterHolding reason s = judgeTakeUp (moveHold reason [] (holdingFrom (holdingFloors s)) s) := rfl

theorem holdingFloors_rearm (s : State) : (holdingFloors s).rearm = s.hhu.rearm := by
  unfold holdingFloors
  split <;> rfl

theorem enterHolding_reported (reason : HoldReason) (s : State) :
    reported (.holdState .holding s.hhu.state reason (holdingFloors s).floor (holdingFloors s).holdForce
      (holdingFloors s).relThreshold (holdingFloors s).dAch s.nowMs) (enterHolding reason s) := by
  rw [enterHolding_eq]
  refine judgeTakeUp_keeps (stable_reported _) ?_
  have sent := moveHold_reported reason (also := []) (by simp) (holdingFrom (holdingFloors s)) s
  rwa [holdReport, floors_of_no_ramps _ _ rfl] at sent

/-- R123, R124: HOLDING, or at once TAKE_UP where the take-up condition holds after the deliveries of the entry,
which change of the condition no more than an effort that follows the caps (R97). -/
theorem enterHolding_hhu (reason : HoldReason) (s : State) : ∃ takes : Prop,
    (takes → s.mode = .drive)
    ∧ (s.bld.demand.latch ≠ some .loop →
      (takes ↔ s.mode = .drive ∧ 0 < s.bld.demand.effort ∧ s.hhu.rearm = true))
    ∧ (takes → (enterHolding reason s).hhu = takingUp s (holdingFrom (holdingFloors s)))
    ∧ (¬ takes → (enterHolding reason s).hhu = holdingFrom (holdingFloors s)) := by
  have core : (moveHold reason [] (holdingFrom (holdingFloors s)) s).core
      = ({ s with hhu := holdingFrom (holdingFloors s) } : State).core := moveHold_core reason (by simp) _ s
  rw [enterHolding_eq]
  generalize moveHold reason [] (holdingFrom (holdingFloors s)) s = u at core
  have hhu : u.hhu = holdingFrom (holdingFloors s) := hhu_of_core core
  have mode : u.mode = s.mode := (mode_of_core core :)
  have rearm : u.hhu.rearm = s.hhu.rearm := by rw [hhu]; exact holdingFloors_rearm s
  refine ⟨takeUpCondition u = true, fun takes => ?_, fun noLoop => ?_, fun takes => ?_, fun stays => ?_⟩
  · simp only [takeUpCondition, mode, Bool.and_eq_true, decide_eq_true_eq] at takes
    exact takes.1.1
  · have demand : u.bld.demand = s.bld.demand := (demand_of_core core fun loop => noLoop loop.2 :)
    simp [takeUpCondition, mode, demand, rearm, and_assoc]
  · rw [judgeTakeUp, if_pos ⟨by rw [hhu]; rfl, takes⟩]
    have clock : u.clock = s.clock := (clock_of_core core :)
    have cfg : u.sfc.cfg = s.sfc.cfg := (cfg_of_core core :)
    refine (congrArg CoreView.hhu (enterTakeUp_core u)).trans ?_
    rw [State.timer, clock, cfg, hhu]
    rfl
  · rw [judgeTakeUp, if_neg fun h => stays h.2]
    exact hhu

theorem enterHolding_rlq (reason : HoldReason) (s : State) : (enterHolding reason s).rlq = s.rlq := by
  have move : ∀ (why : HoldReason) (also : List (State → State)) (next : Hhu) (t : State),
      (∀ f ∈ also, ∀ u, (f u).rlq = u.rlq) → (moveHold why also next t).rlq = t.rlq :=
    fun why also next t ha => hillPublish_rlq t _ _ (fun f hf u => by
      rcases List.mem_cons.mp hf with rfl | hf
      · exact sendReport_rlq _ u
      · exact ha f hf u) _
  rw [enterHolding_eq, judgeTakeUp]
  split
  · refine (move _ _ _ _ fun f hf u => ?_).trans (move _ _ _ _ (by simp))
    split at hf
    · rw [List.mem_singleton.mp hf, requestLeading_onlySand]
    · exact absurd hf List.not_mem_nil
  · exact move _ _ _ _ (by simp)

/-! REF's entry to STANDSTILL at HHU (R39, R121, R123, R134) -/

theorem hillStandstill_rlq (s : State) : (hillStandstill s).rlq = s.rlq := by
  unfold hillStandstill
  repeat' split
  · exact enterHolding_rlq _ s
  · exact enterHolding_rlq _ s
  all_goals rfl

/-- `u` is `s` after work at REF, the route and SND, which leave all of the core but REF's record, the fault
records and the reference-lost timer. -/
abbrev OnlyRef (s u : State) : Prop :=
  u.core = ({ s with
    ref := u.ref
    sfc := { s.sfc with faults := u.sfc.faults, refLostTimer := u.sfc.refLostTimer } } : State).core

namespace OnlyRef

variable {s u : State} (h : OnlyRef s u)
include h

theorem hhu : u.hhu = s.hhu := (hhu_of_core h :)
theorem mode : u.mode = s.mode := (mode_of_core h :)
theorem clock : u.clock = s.clock := (clock_of_core h :)
theorem nowMs : u.nowMs = s.nowMs := by rw [State.nowMs, State.nowMs, h.clock]
theorem opState : u.sfc.opState = s.sfc.opState := (opState_of_core h :)
theorem cfg : u.sfc.cfg = s.sfc.cfg := (cfg_of_core h :)
theorem latch : u.bld.demand.latch = s.bld.demand.latch := (latch_of_core h :)

theorem demand (noLoop : s.bld.demand.latch ≠ some .loop) : u.bld.demand = s.bld.demand :=
  (demand_of_core h fun loop => noLoop loop.2 :)

end OnlyRef

/-- R123: the record that HOLDING is entered with from OFF needs no more than HHU's record, the sections and the
route. -/
theorem heldLevels_of_onlyRef {s u : State} (h : OnlyRef s u) :
    heldLevels u = heldLevels { s with rlq := u.rlq } := by
  simp only [heldLevels, computeHold, holdForceOf, holdLevel, gradeMagnitude, State.headSegment, State.vehicle,
    State.blend, h.hhu, h.cfg]

/-- What HHU takes of an entry to HOLDING at standstill, from either of the states left. -/
theorem enterHolding_atHillHold {s u : State} (h : OnlyRef s u) (reason : HoldReason) :
    ((enterHolding reason u).hhu.state = .holding
      ∨ s.mode = .drive ∧ (enterHolding reason u).hhu.state = .takeUp)
    ∧ reported (.holdState .holding s.hhu.state reason (holdingFloors u).floor (holdingFloors u).holdForce
        (holdingFloors u).relThreshold (holdingFloors u).dAch s.nowMs) (enterHolding reason u)
    ∧ ((enterHolding reason u).hhu.state = .holding →
      (enterHolding reason u).hhu = holdingFrom (holdingFloors u))
    ∧ ((enterHolding reason u).hhu.state = .takeUp →
      (enterHolding reason u).hhu = takingUp s (holdingFrom (holdingFloors u)))
    ∧ (s.bld.demand.latch ≠ some .loop → ((enterHolding reason u).hhu.state = .takeUp
      ↔ s.mode = .drive ∧ 0 < s.bld.demand.effort ∧ s.hhu.rearm = true)) := by
  have taking : takingUp u = takingUp s := by
    funext g
    rw [takingUp, takingUp, h.clock, h.cfg]
  have sent := enterHolding_reported reason u
  obtain ⟨takes, drive, iff, took, stayed⟩ := enterHolding_hhu reason u
  rw [h.hhu, h.nowMs] at sent
  rw [h.mode] at drive
  rw [taking] at took
  have judged : s.bld.demand.latch ≠ some .loop →
      (takes ↔ s.mode = .drive ∧ 0 < s.bld.demand.effort ∧ s.hhu.rearm = true) := fun noLoop => by
    rw [iff (by rwa [h.latch]), h.mode, h.demand noLoop, h.hhu]
  by_cases ht : takes
  · rw [took ht]
    exact ⟨.inr ⟨drive ht, rfl⟩, sent, nofun, fun _ => rfl,
      fun noLoop => iff_of_true rfl ((judged noLoop).mp ht)⟩
  · rw [stayed ht]
    exact ⟨.inl rfl, sent, fun _ => rfl, nofun,
      fun noLoop => iff_of_false nofun fun c => ht ((judged noLoop).mpr c)⟩

theorem hillStandstill_atHillHold {s u : State} (h : OnlyRef s u) :
    standstillAtHillHold u.rlq s (hillStandstill u) := by
  have hhu : u.hhu = s.hhu := h.hhu
  have opState : u.sfc.opState = s.sfc.opState := h.opState
  refine ⟨fun active state => ?_, fun kept => ?_⟩
  · have live : u.isActive = true := by simp [State.isActive, opState, active]
    rcases state with off | caught
    · have enters : hillStandstill u = enterHolding .standstill u := by
        rw [hillStandstill, if_pos live, hhu, off]
      have floors : holdingFloors u = heldLevels { s with rlq := u.rlq } := by
        rw [holdingFloors, hhu, off]; exact heldLevels_of_onlyRef h
      obtain ⟨either, sent, holding, taking, iff⟩ := enterHolding_atHillHold h .standstill
      rw [enters]
      refine ⟨either, ?_⟩
      rintro _ _ (⟨-, rfl, rfl⟩ | ⟨c, -, -⟩)
      · rw [← floors]; exact ⟨sent, holding, taking, iff⟩
      · rw [off] at c; exact nomatch c
    · have enters : hillStandstill u = enterHolding .catchEnded u := by
        rw [hillStandstill, if_pos live, hhu, caught]
      have floors : holdingFloors u = { s.hhu with level := s.hhu.floor } := by
        rw [holdingFloors, hhu, caught]
      obtain ⟨either, sent, holding, taking, iff⟩ := enterHolding_atHillHold h .catchEnded
      rw [enters]
      refine ⟨either, ?_⟩
      rintro _ _ (⟨c, -, -⟩ | ⟨-, rfl, rfl⟩)
      · rw [caught] at c; exact nomatch c
      · rw [floors] at *; exact ⟨sent, holding, taking, iff⟩
  · have same : hillStandstill u = u := by
      unfold hillStandstill
      split
      · next live =>
        rw [hhu]
        have active : s.sfc.opState = .active := by simpa [State.isActive, opState] using live
        rcases kept with h | h | h | h
        · exact absurd active h
        all_goals rw [h]
      · rfl
    rw [same, hhu]

end Sys2Proof.Machine
end

section
/-! SUPPORT. REFERENCE SELECT, the expiries of the HELD timer and of the standstill confirm, and what they bring
about at ADH, SND and HHU (R31, R35, R38, R39, R68, R138 to R147). -/

namespace Sys2Proof.Machine

/-! REFERENCE SELECT (R31) -/

section

variable {tag mode : Byte} {s : State}

theorem exec_referenceSelect (h : accepts s) :
    exec (.referenceSelect tag mode) s = .next (takeReferenceSelect tag mode s) :=
  congrArg Host.Outcome.next (asRequest_of_accepts (takeReferenceSelect tag mode) h)

theorem RefChoice.ofCode?_of_two_le {n : Nat} (h : 2 ≤ n) : RefChoice.ofCode? n = none := by
  obtain ⟨m, rfl⟩ := Nat.exists_eq_add_of_le' h
  rfl

/-- The result is settled by what an answer leaves. -/
theorem selectResult_answer (k : ReqKind) (r : Result) :
    selectResult mode (answer k tag r s) = selectResult mode s := by
  simp only [selectResult, answer_sfc, answer_ref]

/-- A selection changes REF's record only where its result lets it. -/
theorem referenceSelect_answersOnly (h : accepts s) {r : Result} (hr : selectResult mode s = r)
    (kept : RefChoice.ofCode? mode.toNat = none
      ∨ RefChoice.ofCode? mode.toNat = some .groundSensor ∧ r ≠ .pending) :
    answersOnly (.referenceSelect tag mode) .referenceSelect tag r s := by
  rw [answersOnly, exec_referenceSelect h, takeReferenceSelect, selectReference, selectResult_answer, hr]
  rcases kept with none | ⟨ground, settled⟩
  · rw [none]
  · rw [ground]
    cases r with
    | pending => exact absurd rfl settled
    | _ => rfl

theorem selectResult_ground : selectResult 1 s = if s.sfc.cfg.ground.isNone then .refusedState
    else if s.ref.active = .groundSensor then .ok [] else .pending := rfl

theorem selectResult_ground_of_section (h : s.sfc.cfg.ground ≠ none) :
    selectResult 1 s = if s.ref.active = .groundSensor then .ok [] else .pending := by
  rw [selectResult_ground, if_neg (by simpa using h)]

theorem referenceSelect_axleFused (h : accepts s) : exec (.referenceSelect tag 0) s
    = .next { withReply .referenceSelect tag (.ok []) s with
      ref := { s.ref with
        requested := .axleFused, engage := 0
        prior := if s.ref.active = .standstill then .axleFused else s.ref.prior } } := by
  rw [exec_referenceSelect h, ← answer_ref .referenceSelect tag (.ok []) s]
  rfl

theorem referenceSelect_pending (h : accepts s) (pending : selectResult 1 s = .pending) :
    exec (.referenceSelect tag 1) s = .next { withReply .referenceSelect tag .pending s with
      ref := { s.ref with requested := .groundSensor, engage := 0 } } := by
  rw [exec_referenceSelect h, takeReferenceSelect, selectReference, selectResult_answer, pending,
    ← answer_ref .referenceSelect tag .pending s]
  rfl

end

/-! The ADHESION request of one event (R138 to R140, R146, R147) -/

theorem judgeEnd_of_busy {s : State} {e : Side} (h : s.snd.valve.get e ≠ .closed) : judgeEnd e s = s := by
  rw [judgeEnd, grantee, if_neg fun c => h c.2]

theorem judgeEnd_of_grantee {s : State} {e : Side} {x : SandEntry} (h : grantee s e = some x) :
    judgeEnd e s = grant x s := by
  rw [judgeEnd, h]

theorem setSanded_queue (s : State) : (setSanded s).snd.queue = s.snd.queue :=
  sandQueue_of_view (setSanded_view s)

theorem grant_queue (x : SandEntry) (s : State) : (grant x s).snd.queue = takeShot x s.snd.queue := by
  rw [grant, setSanded_queue, sendReport_snd]
  rfl

theorem grant_reported (x : SandEntry) (s : State) : reported
    (.sand (.shot (min s.sfc.cfg.sand.shot (s.snd.level.get x.side * 1000 / s.sfc.cfg.sand.flow.get x.side))
      (s.sfc.cfg.sand.flow.get x.side)) x.side x.source x.arrival (x.shots - 1) (s.snd.level.get x.side) s.nowMs)
    (grant x s) :=
  (stable_reported _).view (setSanded_view _) (sendReport_reported_self _ _)

theorem mostUrgent_mem : ∀ {l : List SandEntry} {x : SandEntry}, mostUrgent l = some x → x ∈ l
  | y :: rest, x, h => by
    rw [mostUrgent] at h
    split at h
    · cases h; exact List.mem_cons_self
    · next z e =>
      split at h
      · cases h; exact List.mem_cons_of_mem _ (mostUrgent_mem e)
      · cases h; exact List.mem_cons_self

theorem grantee_side {s : State} {e : Side} {x : SandEntry} (h : grantee s e = some x) : x.side = e := by
  unfold grantee at h
  split at h
  · have kept := (List.mem_filter.mp (mostUrgent_mem h)).2
    simp only [Bool.and_eq_true, decide_eq_true_eq] at kept
    exact kept.1
  · exact nomatch h

theorem takeShot_append {q : List SandEntry} {x : SandEntry}
    (fresh : q.any (SandEntry.isFor x.source x.side) = false) : takeShot x (q ++ [x])
      = q ++ if x.shots ≤ 1 then [] else [{ x with shots := x.shots - 1 }] := by
  have kept : takeShot x q = q := by
    refine (List.filterMap_congr fun y hy => ?_).trans List.filterMap_some
    rw [if_neg (List.any_eq_false.mp fresh y hy)]
  have self : x.isFor x.source x.side = true := by simp [SandEntry.isFor]
  rw [takeShot, List.filterMap_append, ← takeShot, kept]
  simp only [List.filterMap_cons, List.filterMap_nil, self, if_true]
  split_ifs <;> rfl

theorem lowestPriority_pos : ∀ q : List SandEntry, 1 ≤ lowestPriority q
  | [] => by decide
  | x :: rest => by
    have one : 1 ≤ sandPriority x.source := by cases x.source <;> decide
    exact Nat.le_min.mpr ⟨one, lowestPriority_pos rest⟩

/-- What SND reads of a state to take a request. -/
structure SandSees (s u : State) : Prop where
  snd : u.snd = s.snd
  rlq : u.rlq = s.rlq
  cfg : u.sfc.cfg = s.sfc.cfg
  opState : u.sfc.opState = s.sfc.opState
  speed : u.ref.speed = s.ref.speed
  clock : u.clock = s.clock
  travel : u.travel = s.travel

theorem grantee_congr {s u : State} (h : SandSees s u) (e : Side) (d : Snd) :
    grantee { u with snd := d } e = grantee { s with snd := d } e := by
  have active : State.isActive { u with snd := d } = State.isActive { s with snd := d } := by
    simp only [State.isActive, h.opState]
  have allowed : permitted { u with snd := d } = permitted { s with snd := d } := by
    funext x
    simp only [permitted, State.sandInhibited, State.headSegment, h.rlq, h.cfg, h.speed]
  rw [grantee, grantee, active, allowed]

/-- R147: the report of a shot granted to an ADHESION entry. -/
theorem grant_adhesion_reported {s u : State} (h : SandSees s u) {x : SandEntry} {e : Side} {d : Snd}
    (side : x.side = e) (source : x.source = .adhesion) (level : d.level = s.snd.level) {allowed : Nat}
    (hallowed : allowed = min s.sfc.cfg.sand.shot (s.snd.level.get e * 1000 / s.sfc.cfg.sand.flow.get e)) :
    reported (.sand (.shot allowed (s.sfc.cfg.sand.flow.get e)) e .adhesion x.arrival (x.shots - 1)
      (s.snd.level.get e) s.nowMs) (grant x { u with snd := d }) := by
  have granted := grant_reported x { u with snd := d }
  have now : ({ u with snd := d } : State).nowMs = s.nowMs := by rw [State.nowMs, State.nowMs, h.clock]
  rwa [side, source, h.cfg, level, now, ← hallowed] at granted

/-- R139: an ADHESION entry after a merge. -/
def mergedAdhesion (e : Side) (clock n : Nat) (y : SandEntry) : SandEntry :=
  if y.source = .adhesion ∧ y.side = e then { y with shots := n, age := some (clock + 5000000) } else y

section

variable {u : State}

theorem requestLeading_adhesion (n : Nat) (active : u.isActive = true) :
    requestLeading .adhesion n u =
      if (placement .adhesion u.travel.leading n u).isSome then
        judgeEnd u.travel.leading (enqueueSand .adhesion u.travel.leading true n u)
      else enqueueSand .adhesion u.travel.leading true n u := by
  rw [requestLeading, requestLeadingAll, if_pos active, joinAll, joinAll, joinNext]
  simp

theorem placement_of_fresh {source : SandSource} {e : Side} (n : Nat)
    (fresh : u.snd.queue.any (SandEntry.isFor source e) = false) : placement source e n u =
      if u.snd.queue.length < 8 ∨ lowestPriority u.snd.queue < sandPriority source then some (u.snd.arrivals, n)
      else none := by
  have absent : u.snd.queue.find? (SandEntry.isFor source e) = none := by simpa using fresh
  rw [placement, absent]

theorem placement_of_match {source : SandSource} {e : Side} (n : Nat)
    (waits : u.snd.queue.any (SandEntry.isFor source e) = true) :
    (placement source e n u).isSome = true := by
  have found : (u.snd.queue.find? (SandEntry.isFor source e)).isSome = true := by
    rw [List.find?_isSome]; exact List.any_eq_true.mp waits
  obtain ⟨z, hz⟩ := Option.isSome_iff_exists.mp found
  rw [placement, hz]
  rfl

theorem requestLeading_of_room (n : Nat) (active : u.isActive = true)
    (fresh : u.snd.queue.any (SandEntry.isFor .adhesion u.travel.leading) = false) (room : u.snd.queue.length < 8) :
    requestLeading .adhesion n u
      = judgeEnd u.travel.leading (joinTail .adhesion u.travel.leading true n u) := by
  rw [requestLeading_adhesion n active, placement_of_fresh n fresh, if_pos (by rw [if_pos (.inl room)]; rfl),
    enqueueSand, if_neg (by rw [fresh]; exact Bool.false_ne_true), if_pos room]

theorem requestLeading_of_full (n : Nat) (active : u.isActive = true)
    (fresh : u.snd.queue.any (SandEntry.isFor .adhesion u.travel.leading) = false) (full : 8 ≤ u.snd.queue.length) :
    requestLeading .adhesion n u = sendReport (.sand .dropped u.travel.leading .adhesion 0 n
      (u.snd.level.get u.travel.leading) u.nowMs) u := by
  have room : ¬ u.snd.queue.length < 8 := Nat.not_lt.mpr full
  have low : ¬ lowestPriority u.snd.queue < sandPriority .adhesion := Nat.not_lt.mpr (lowestPriority_pos _)
  rw [requestLeading_adhesion n active, placement_of_fresh n fresh, if_neg (not_or.mpr ⟨room, low⟩),
    if_neg (by simp), enqueueSand, if_neg (by rw [fresh]; exact Bool.false_ne_true), if_neg room, if_neg low,
    if_neg (by simp)]

theorem requestLeading_of_match (n : Nat) (active : u.isActive = true)
    (waits : u.snd.queue.any (SandEntry.isFor .adhesion u.travel.leading) = true) :
    requestLeading .adhesion n u = judgeEnd u.travel.leading (u.setSandQueue (u.snd.queue.map fun y =>
      mergedAdhesion u.travel.leading u.clock (min 10 (y.shots + n)) y)) := by
  rw [requestLeading_adhesion n active, if_pos (placement_of_match n waits), enqueueSand, if_pos waits]
  congr 2
  refine List.map_congr_left fun y _ => ?_
  unfold mergedAdhesion
  by_cases hy : y.source = .adhesion ∧ y.side = u.travel.leading
  · rw [if_pos hy, if_pos (by simpa [SandEntry.isFor] using hy)]
    simp [mergeEntry, hy.1, ageOf, hasAge, State.timer]
  · rw [if_neg hy, if_neg (by simpa [SandEntry.isFor] using hy)]

end

/-- R147: the shot taken from the entry just merged, which has two shots or more. -/
theorem takeShot_merged {x : SandEntry} {q : List SandEntry} {n : Nat} (clock : Nat) (more : 1 ≤ n)
    (source : x.source = .adhesion) (shots : ∀ y ∈ q, 1 ≤ y.shots) :
    takeShot x (q.map fun y => mergedAdhesion x.side clock (min 10 (y.shots + n)) y)
      = q.map fun y => mergedAdhesion x.side clock (min 10 (y.shots + n) - 1) y := by
  rw [takeShot, List.filterMap_map, ← List.filterMap_eq_map]
  refine List.filterMap_congr fun y hy => ?_
  have := shots y hy
  simp only [Function.comp_apply, source, mergedAdhesion]
  by_cases same : y.source = .adhesion ∧ y.side = x.side
  · rw [if_pos same, if_pos same, if_pos (by simpa [SandEntry.isFor] using same), if_neg (by dsimp only; omega)]
  · rw [if_neg same, if_neg same, if_neg (by simpa [SandEntry.isFor] using same)]

/-- R138: `t` is as the request for `n` shots leaves SND, of a state that shows SND what `s` shows it; what else
the event has done takes no report back. -/
theorem adhesionRequests_of_request {n : Nat} {s u t : State} (more : 1 ≤ n) (active : s.sfc.opState = .active)
    (sees : SandSees s u) (snd : t.snd = (requestLeading .adhesion n u).snd)
    (sent : ∀ r, reported r (requestLeading .adhesion n u) → reported r t) : adhesionRequests n 0 s t := by
  intro e fresh allowed merge he hfresh hallowed hmerge
  have live : u.isActive = true := by simp [State.isActive, sees.opState, active]
  have side : u.travel.leading = e := by rw [he, sees.travel]; cases s.travel <;> rfl
  have merged : ∀ m y, merge m y = mergedAdhesion e u.clock m y := by
    intro m y; rw [hmerge, mergedAdhesion, sees.clock]
  have tail : joinTail .adhesion u.travel.leading true n u = { u with snd := { s.snd with
      queue := s.snd.queue ++ [fresh], arrivals := s.snd.arrivals + 1 } } := by
    rw [joinTail, side, hfresh, sees.snd]
    simp [ageOf, hasAge, State.timer, sees.clock]
  have shot := fun (x : SandEntry) (d : Snd) (hside : x.side = e) (hsource : x.source = .adhesion)
    (level : d.level = s.snd.level) => grant_adhesion_reported sees hside hsource level hallowed
  refine ⟨fun none room => ?_, fun none full => ?_, fun waits busy => ?_,
    fun q x hq shots waits granted source => ?_⟩
  · have joined := requestLeading_of_room n live (by rw [side, sees.snd]; exact none) (by rwa [sees.snd])
    rw [tail, side] at joined
    rw [joined] at snd sent
    refine ⟨fun busy => ?_, fun granted => ?_⟩
    · rw [snd]
      exact congrArg State.snd (judgeEnd_of_busy (by exact busy))
    · have grants := (grantee_congr sees e { s.snd with
        queue := s.snd.queue ++ [fresh], arrivals := s.snd.arrivals + 1 }).trans granted
      rw [judgeEnd_of_grantee grants] at snd sent
      have hside : fresh.side = e := by rw [hfresh]
      have hsource : fresh.source = .adhesion := by rw [hfresh]
      have hshots : fresh.shots = n := by rw [hfresh]; rfl
      refine ⟨?_, ?_⟩
      · rw [snd, grant_queue, takeShot_append (by rwa [hside, hsource]), hshots]
        simp only [Nat.add_zero]
        rw [if_congr (show n ≤ 1 ↔ n = 1 by omega) rfl rfl]
      · have := sent _ (shot fresh _ hside hsource rfl)
        rwa [hshots, show fresh.arrival = s.snd.arrivals by rw [hfresh]] at this
  · have dropped := requestLeading_of_full n live (by rw [side, sees.snd]; exact none) (by rwa [sees.snd])
    rw [side] at dropped
    rw [dropped] at snd sent
    refine ⟨by rw [snd, sendReport_snd, sees.snd], ?_, fun zero => absurd rfl zero⟩
    have := sent _ (sendReport_reported_self _ _)
    rwa [sees.snd, State.nowMs, sees.clock] at this
  · have joined := requestLeading_of_match n live (by rw [side, sees.snd]; exact waits)
    rw [side] at joined
    rw [joined, judgeEnd_of_busy (by rwa [State.setSandQueue_snd, sees.snd])] at snd
    rw [snd, State.setSandQueue_snd, sees.snd]
    simp only [merged, Nat.add_zero]
  · have joined := requestLeading_of_match n live (by rw [side, sees.snd]; exact waits)
    simp only [merged] at hq
    have queue : u.setSandQueue (u.snd.queue.map fun y => mergedAdhesion u.travel.leading u.clock
        (min 10 (y.shots + n)) y) = { u with snd := { s.snd with queue := q } } := by
      rw [side, State.setSandQueue, sees.snd, hq]
    rw [queue, side, judgeEnd_of_grantee ((grantee_congr sees e _).trans granted)] at joined
    rw [joined] at snd sent
    have hside : x.side = e := grantee_side granted
    refine ⟨?_, sent _ (shot x _ hside source rfl)⟩
    rw [snd, grant_queue]
    dsimp only
    rw [hq, ← hside, takeShot_merged u.clock more source shots]
    refine List.map_congr_left fun y _ => ?_
    rw [merged, hside, Nat.add_zero,
      show min 10 (min 10 (y.shots + n) - 1) = min 10 (y.shots + n) - 1 by omega]

/-! The HELD timer (R35, R68, R181) -/

theorem exec_heldTimerExpiry {s : State} (held : s.ref.active = .held) (due : s.expired s.ref.heldTimer = true) :
    exec .heldTimerExpiry s = .next (heldExpiry s) := by
  have runs : whenDue .heldTimerExpiry heldExpiry s = heldExpiry s :=
    if_pos ((expiryDue_heldTimer_iff s).mpr ⟨held, (expired_iff s _).mp due⟩)
  exact congrArg Host.Outcome.next runs

/-- R185: what a raise leaves, of a record that is active already too. -/
theorem raiseFault_eq (id : FaultId) (s : State) : ∃ r, r.active = true
    ∧ raiseFault id s = { s.setFault id r with lnk := (raiseFault id s).lnk } := by
  by_cases active : (s.fault id).active = true
  · refine ⟨s.fault id, active, ?_⟩
    rw [raiseFault, if_pos active, State.setFault_fault_self]
  · refine ⟨(s.fault id).raised s.nowMs, rfl, ?_⟩
    rw [raiseFault, if_neg active, sendReport_eq]

/-- R68: ADH's records after REF's active mode has become LOST. -/
def lostAdh (s : State) : Adh where
  axle := s.adh.allGrip
  bogie := ⟨{ s.adh.bogie.a with limit := s.adhesion.floor, residual := 0 }, s.adh.bogie.t,
    { s.adh.bogie.b with limit := s.adhesion.floor, residual := 0 }⟩

theorem adhLost_of_active {s : State} (active : s.isActive = true) :
    OnlyBlend { s with adh := lostAdh s } (adhLost s)
    ∧ (adhLost s).core = ({ s with adh := lostAdh s } : State).core := by
  rw [adhLost, if_pos active]
  exact ⟨deliverLimits_onlyBlend _ _, deliverLimits_core _ _⟩

theorem adhLost_of_not_active {s : State} (h : s.isActive = false) : adhLost s = s := by
  rw [adhLost, h, if_neg Bool.false_ne_true]

theorem unwatched_iff (s : State) (x : Axle) :
    s.unwatched x = true ↔ s.adhState x = .isolated ∨ s.adhState x = .fault := by
  simp [State.unwatched]

theorem allGrip_get (s : State) (x : Axle) : s.adh.allGrip.get x =
    if s.unwatched x then { s.adh.axle.get x with recover := 0 } else ⟨.grip, 0⟩ := by
  rw [Adh.allGrip, PerAxle.get_of]
  exact (if_congr (unwatched_iff s x) rfl rfl).symm

/-- R35: the state in which ADH and SND take the expiry: REF is in LOST, the record raised and both reports
sent. -/
def lostReported (s : State) : State :=
  let t := raiseFault .referenceLost { s with ref := { s.ref with
    active := .lost, heldTimer := none, resync := PerAxle.of fun _ => 0 } }
  refReport .held (if s.isActive then { t with sfc.refLostTimer := s.timer 5000 } else t)

theorem heldExpiry_eq (s : State) : heldExpiry s = inSomeOrder
    (if s.isActive then [adhLost, requestLeading .adhesion 3] else [adhLost]) (lostReported s) := rfl

theorem lostReported_eq (s : State) : ∃ r, r.active = true ∧ lostReported s = { s with
    ref := { s.ref with active := .lost, heldTimer := none, resync := PerAxle.of fun _ => 0 }
    sfc := { s.sfc with
      faults := s.sfc.faults.set .referenceLost r
      refLostTimer := if s.isActive then some (s.clock + 5000000) else s.sfc.refLostTimer }
    lnk := (lostReported s).lnk } := by
  obtain ⟨r, active, e⟩ := raiseFault_eq .referenceLost { s with ref := { s.ref with
    active := .lost, heldTimer := none, resync := PerAxle.of fun _ => 0 } }
  refine ⟨r, active, ?_⟩
  unfold lostReported refReport
  rw [sendReport_eq, e]
  split_ifs <;> rfl

theorem lostReported_reported (s : State) :
    reported (.referenceMode .lost .held s.ref.requested s.ref.speed s.nowMs) (lostReported s) := by
  obtain ⟨r, -, e⟩ := lostReported_eq s
  have sent : reported (.referenceMode (lostReported s).ref.active .held (lostReported s).ref.requested
      (lostReported s).ref.speed (lostReported s).nowMs) (lostReported s) := by
    unfold lostReported refReport
    simpa [State.nowMs] using sendReport_reported_self _ _
  rw [e] at sent ⊢
  exact sent

/-- R35, R68: what ADH's and SND's taking of the expiry in ACTIVE leaves of the state `b` in which they take it;
`u` is the state in which SND does, before ADH or after it. -/
theorem adhLost_and_request {b : State} (active : b.isActive = true) :
    ∃ t u, inSomeOrder [adhLost, requestLeading .adhesion 3] b = t
    ∧ t = { b with
        adh := lostAdh b, bld := t.bld, snd := t.snd, afe := t.afe, lnk := t.lnk, free := t.free }
    ∧ SandSees b u ∧ t.snd = (requestLeading .adhesion 3 u).snd
    ∧ ∀ r, reported r (requestLeading .adhesion 3 u) → reported r t := by
  obtain ⟨n, order⟩ := inSomeOrder_pair adhLost (requestLeading .adhesion 3) b
  rcases order with order | order
  · obtain ⟨lost, core⟩ := adhLost_of_active (s := { b with free := n }) active
    refine ⟨_, adhLost { b with free := n }, order, ?_, ?_, rfl, fun _ sent => sent⟩
    · have sand := requestLeading_onlySand .adhesion 3 (adhLost { b with free := n })
      unfold OnlySand at sand
      generalize requestLeading .adhesion 3 (adhLost { b with free := n }) = t at sand
      rw [sand, lost]
      rfl
    · have travel : (adhLost { b with free := n }).travel = b.travel := (travel_of_core core :)
      generalize adhLost { b with free := n } = u at lost travel
      unfold OnlyBlend at lost
      exact ⟨by rw [lost], by rw [lost], by rw [lost], by rw [lost], by rw [lost], by rw [lost], travel⟩
  · refine ⟨_, { b with free := n }, order, ?_, ⟨rfl, rfl, rfl, rfl, rfl, rfl, rfl⟩, ?_,
      fun r sent => (stable_reported r).view (adhLost_view _) sent⟩
    all_goals
      have sand := requestLeading_onlySand .adhesion 3 { b with free := n }
      unfold OnlySand at sand
      generalize requestLeading .adhesion 3 { b with free := n } = w at sand
      have live : w.isActive = true := by rw [sand]; exact active
      have lost := (adhLost_of_active live).1
    · rw [lost, sand]
      rfl
    · rw [lost]

theorem isActive_iff (s : State) : s.isActive = true ↔ s.sfc.opState = .active := by simp [State.isActive]

/-- R35, R68, R181: the HELD timer's expiry. -/
theorem heldExpiry_spec (s : State) : ∃ t, heldExpiry s = t
    ∧ t.ref = { s.ref with active := .lost, heldTimer := none, resync := PerAxle.of fun _ => 0 }
    ∧ (t.fault .referenceLost).active = true
    ∧ (∀ id, id ≠ .referenceLost → t.fault id = s.fault id)
    ∧ reported (.referenceMode .lost .held s.ref.requested s.ref.speed s.nowMs) t
    ∧ t.wsc = s.wsc ∧ t.hhu = s.hhu ∧ t.rlq = s.rlq ∧ t.sfc.opState = s.sfc.opState
    ∧ (s.sfc.opState ≠ .active → t.adh = s.adh ∧ t.sfc.refLostTimer = s.sfc.refLostTimer
      ∧ t.snd = s.snd ∧ t.bld = s.bld)
    ∧ (s.sfc.opState = .active → t.sfc.refLostTimer = some (s.clock + 5000000)
      ∧ t.adh = lostAdh s ∧ adhesionRequests 3 0 s t) := by
  obtain ⟨r, raised, e⟩ := lostReported_eq s
  have sent := lostReported_reported s
  have kept : reported (.referenceMode .lost .held s.ref.requested s.ref.speed s.nowMs) (heldExpiry s) := by
    rw [heldExpiry_eq]
    refine someOrder_keeps (stable_reported _) (fun f hf t ht => ?_) sent
    split at hf
    · simp only [List.mem_cons, List.not_mem_nil, or_false] at hf
      rcases hf with rfl | rfl
      · exact (stable_reported _).view (adhLost_view t) ht
      · exact requestLeading_keeps (stable_reported _) _ (by decide) (by decide) ht
    · rw [List.mem_singleton.mp hf]
      exact (stable_reported _).view (adhLost_view t) ht
  have fault : ∀ id, (lostReported s).fault id = if id = .referenceLost then r else s.fault id := fun id => by
    rw [e]; exact FaultTable.get_set _ _ _ _
  have record : ((lostReported s).fault .referenceLost).active = true := by rw [fault, if_pos rfl, raised]
  have others : ∀ id, id ≠ .referenceLost → (lostReported s).fault id = s.fault id := fun id hid => by
    rw [fault, if_neg hid]
  rw [heldExpiry_eq] at kept ⊢
  cases active : s.isActive with
  | false =>
    have dead : s.sfc.opState ≠ .active := fun h => by simp [State.isActive, h] at active
    have none : adhLost (lostReported s) = lostReported s :=
      adhLost_of_not_active (by rw [e]; exact active)
    simp only [active, if_neg Bool.false_ne_true, inSomeOrder_single, none] at kept ⊢
    refine ⟨_, rfl, ?_, record, others, kept, ?_⟩
    · rw [e]
    · rw [e, active]
      exact ⟨rfl, rfl, rfl, rfl, fun _ => ⟨rfl, rfl, rfl, rfl⟩, fun h => absurd h dead⟩
  | true =>
    simp only [active, if_pos] at kept ⊢
    obtain ⟨t, u, ht, et, sees, snd, sand⟩ := adhLost_and_request (b := lostReported s) (by rw [e]; exact active)
    rw [ht] at kept ⊢
    have sfc : t.sfc = (lostReported s).sfc := by rw [et]
    have ref : t.ref = (lostReported s).ref := by rw [et]
    rw [State.fault, ← sfc] at record
    refine ⟨t, rfl, ?_, record, fun id hid => ?_, kept, ?_⟩
    · rw [ref, e]
    · rw [State.fault, sfc]; exact others id hid
    · refine ⟨by rw [et, e], by rw [et, e], by rw [et, e], by rw [sfc, e],
        fun h => absurd ((isActive_iff s).mp active) h, fun op => ⟨by rw [sfc, e, active]; rfl, ?_, ?_⟩⟩
      · rw [et, e]; rfl
      · refine adhesionRequests_of_request (by decide) op ?_ snd sand
        have same : SandSees s (lostReported s) := by rw [e]; exact ⟨rfl, rfl, rfl, rfl, rfl, rfl, rfl⟩
        exact ⟨sees.snd.trans same.snd, sees.rlq.trans same.rlq, sees.cfg.trans same.cfg,
          sees.opState.trans same.opState, sees.speed.trans same.speed, sees.clock.trans same.clock,
          sees.travel.trans same.travel⟩

end Sys2Proof.Machine
end

section
/-! SUPPORT. REF's entry to STANDSTILL (R36, R38, R39), and the settlement of REFERENCE SELECT and REF's timers. -/

namespace Sys2Proof.Machine

/-! Entry to STANDSTILL (R38, R39) -/

/-- R39: REF's record after an entry to STANDSTILL. -/
def rested (r : Ref) : Ref :=
  { r with
    active := .standstill, prior := if r.active = .groundSensor then .groundSensor else .axleFused
    speed := 0, accel := 0, heldTimer := none, confirm := .stopped }

/-- R38: the standstill condition of a record, outside STANDSTILL. -/
abbrev atRest (r : Ref) : Prop := r.confirm = .complete ∧ r.speed.natAbs ≤ 100

/-- R36: what an entry to STANDSTILL takes back of LOST. -/
def lostEnded (s : State) : State := if s.ref.active = .lost then leaveLost s else s

theorem lostEnded_eq (s : State) : lostEnded s = { s with sfc := (lostEnded s).sfc } := by
  unfold lostEnded
  split <;> rfl

theorem lostEnded_sfc (s : State) : (lostEnded s).sfc = { s.sfc with
    faults := (lostEnded s).sfc.faults, refLostTimer := (lostEnded s).sfc.refLostTimer } := by
  unfold lostEnded
  split <;> rfl

theorem lostEnded_refLostTimer (s : State) :
    (lostEnded s).sfc.refLostTimer = if s.ref.active = .lost then none else s.sfc.refLostTimer := by
  unfold lostEnded
  split <;> rfl

theorem leaveLost_fault (s : State) (id : FaultId) : (leaveLost s).fault id =
    if id = .referenceLost then { s.fault .referenceLost with active := false } else s.fault id :=
  State.setFault_fault s _ id _

theorem lostEnded_fault (s : State) (id : FaultId) : (lostEnded s).fault id =
    if s.ref.active = .lost ∧ id = .referenceLost then { s.fault .referenceLost with active := false }
    else s.fault id := by
  unfold lostEnded
  split
  · next lost =>
    rw [leaveLost_fault]
    exact if_congr (iff_and_self.mpr fun _ => lost |>.symm ▸ rfl) rfl rfl
  · next other => rw [if_neg fun c => other c.1]

/-- REF has entered STANDSTILL and reported it; HHU has not yet taken it. -/
def standstillReported (s : State) : State := refReport s.ref.active { lostEnded s with ref := rested s.ref }

theorem enterStandstill_eq (s : State) : enterStandstill s = hillStandstill (standstillReported s) := by
  unfold enterStandstill standstillReported lostEnded
  dsimp only
  split <;> rfl

theorem standstillReported_eq (s : State) : standstillReported s =
    { lostEnded s with ref := rested s.ref, lnk := (standstillReported s).lnk } := sendReport_eq _ _

theorem standstillReported_onlyRef (s : State) : OnlyRef s (standstillReported s) := by
  unfold OnlyRef
  rw [standstillReported_eq, lostEnded_eq, lostEnded_sfc]
  rfl

theorem enterStandstill_reported (s : State) :
    reported (.referenceMode .standstill s.ref.active s.ref.requested 0 s.nowMs) (enterStandstill s) := by
  rw [enterStandstill_eq]
  refine hillStandstill_keeps (stable_reported _) ?_
  have now : s.nowMs = (lostEnded s).nowMs := by rw [lostEnded_eq]; rfl
  rw [now]
  exact sendReport_reported_self _ _

theorem enterStandstill_core (s : State) : (enterStandstill s).core
    = ({ lostEnded s with ref := rested s.ref, hhu := (enterStandstill s).hhu } : State).core := by
  rw [enterStandstill_eq]
  have hill := hillStandstill_onlyHhu (standstillReported s)
  unfold OnlyHhu at hill
  rw [hill, standstillReported_eq]
  rfl

theorem enterStandstill_rlq (s : State) : (enterStandstill s).rlq = s.rlq := by
  rw [enterStandstill_eq, hillStandstill_rlq, standstillReported_eq, lostEnded_eq]

section

variable (s : State)

theorem enterStandstill_ref : (enterStandstill s).ref = rested s.ref := (ref_of_core (enterStandstill_core s) :)

theorem enterStandstill_fault {id : FaultId} (hid : ∀ e, id ≠ .sandEmpty e) :
    (enterStandstill s).fault id = (lostEnded s).fault id := (fault_of_core (enterStandstill_core s) hid :)

theorem enterStandstill_refLostTimer : (enterStandstill s).sfc.refLostTimer = (lostEnded s).sfc.refLostTimer :=
  (refLostTimer_of_core (enterStandstill_core s) :)

end

theorem onlyRef_iff {s u : State} : OnlyRef s u ↔ u.core = { s.core with
    ref := u.ref, faults := u.core.faults, refLostTimer := u.sfc.refLostTimer } := Iff.rfl

theorem OnlyRef.trans {s t u : State} (a : OnlyRef s t) (b : OnlyRef t u) : OnlyRef s u := by
  rw [onlyRef_iff] at *
  exact b.trans (by rw [a])

theorem judgeStandstill_of_atRest {s : State} (moving : s.ref.active ≠ .standstill) (rest : atRest s.ref) :
    judgeStandstill s = enterStandstill s := if_pos ⟨moving, rest⟩

theorem judgeStandstill_of_not_atRest {s : State} (moves : ¬ atRest s.ref) : judgeStandstill s = s :=
  if_neg fun h => moves h.2

/-! The standstill confirm (R38) -/

theorem exec_standstillConfirmExpiry {s : State} (due : s.confirmExpired s.ref.confirm = true) :
    exec .standstillConfirmExpiry s =
      .next (judgeStandstill { s with ref := { s.ref with confirm := .complete } }) := by
  have runs : whenDue .standstillConfirmExpiry confirmExpiry s = confirmExpiry s := if_pos due
  exact congrArg Host.Outcome.next runs

/-- R39: HHU's taking of an entry to STANDSTILL from `u`, which REF's work alone has made of `s`. -/
theorem enterStandstill_atHillHold {s u : State} (h : OnlyRef s u) :
    standstillAtHillHold u.rlq s (enterStandstill u) := by
  have route : (standstillReported u).rlq = u.rlq := by rw [standstillReported_eq, lostEnded_eq]
  rw [enterStandstill_eq, ← route]
  exact hillStandstill_atHillHold (h.trans (standstillReported_onlyRef u))

/-- Settles O34: `selectResult` case by case, `heldExpiry_spec`, and the entry to STANDSTILL from the state whose
confirm is complete. -/
theorem referenceSelectAndTimers : Obligations.ReferenceSelectAndTimers := by
  unfold Obligations.ReferenceSelectAndTimers
  refine ⟨fun tag mode s h => ⟨fun large => ?_, fun ground none => ?_, fun ground section_ sensor => ?_,
    fun ground section_ other => ?_, fun fused => ?_⟩, fun s held due => ?_, fun s due => ⟨fun stays => ?_,
    fun moving slow => ?_⟩⟩
  · have none := RefChoice.ofCode?_of_two_le large
    exact referenceSelect_answersOnly h (by rw [selectResult, none]) (.inl none)
  · subst ground
    exact referenceSelect_answersOnly h (by rw [selectResult_ground, none]; rfl) (.inr ⟨rfl, nofun⟩)
  · subst ground
    exact referenceSelect_answersOnly h (by rw [selectResult_ground_of_section section_, if_pos sensor])
      (.inr ⟨rfl, nofun⟩)
  · subst ground
    exact referenceSelect_pending h (by rw [selectResult_ground_of_section section_, if_neg other])
  · subst fused
    exact referenceSelect_axleFused h
  · obtain ⟨t, ht, ref, record, others, sent, wsc, hhu, rlq, opState, dead, live⟩ := heldExpiry_spec s
    refine ⟨t, by rw [exec_heldTimerExpiry held due, ht], ref, record, others, sent, wsc, hhu, rlq, opState, dead,
      fun active => ?_⟩
    obtain ⟨timer, adh, sand⟩ := live active
    rw [adh]
    exact ⟨timer, rfl, rfl, rfl, allGrip_get s, sand⟩
  · rw [exec_standstillConfirmExpiry due, judgeStandstill, if_neg]
    rintro ⟨moving, -, slow⟩
    exact stays.elim moving (Nat.not_lt.mpr slow)
  · rw [exec_standstillConfirmExpiry due,
      judgeStandstill_of_atRest (s := { s with ref := { s.ref with confirm := .complete } }) moving ⟨rfl, slow⟩]
    have hill : standstillAtHillHold s.rlq s
        (enterStandstill { s with ref := { s.ref with confirm := .complete } }) :=
      enterStandstill_atHillHold rfl
    have sent := enterStandstill_reported { s with ref := { s.ref with confirm := .complete } }
    have core := enterStandstill_core { s with ref := { s.ref with confirm := .complete } }
    refine ⟨_, rfl, enterStandstill_ref _, ?_, sent, ?_, ?_, ?_, enterStandstill_rlq _, ?_, hill⟩
    · rw [enterStandstill_fault _ (by simp), lostEnded_fault]
      exact if_congr (and_iff_left rfl) rfl rfl
    · rw [enterStandstill_refLostTimer, lostEnded_refLostTimer]
    · rw [lostEnded_eq] at core; exact (wsc_of_core core :)
    · rw [lostEnded_eq] at core; exact (adh_of_core core :)
    · rw [lostEnded_eq, lostEnded_sfc] at core; exact (opState_of_core core :)

end Sys2Proof.Machine
end

section
/-! SUPPORT. An update of the reference (R27, R30, R38, R41 to R43): what it leaves of the other blocks, before and
after STANDSTILL is judged; and the settlement of the ground arrivals (R31 to R33). -/

namespace Sys2Proof.Machine

/-! The update (R27, R41 to R43) -/

/-- R42: the increment of an update over `dt` ms that publishes `r`. -/
def increment (dt : Nat) (r : Ref) (dir : Direction) : Int := (r.residual + r.speed * dt).tdiv 1000 * dir.sign

/-- R43: the route queue after an increment, an increment of 0 being none. -/
def routeMoved (m : Int) (r : Rlq) : Rlq := if m = 0 then r else routeAfter m r

theorem routeMoved_eq (m : Int) (s : State) :
    routeMoved m s.rlq = if m = 0 then s.rlq else (routeDistance m s).rlq := by
  rw [routeMoved, routeDistance_rlq]

/-- What an update over `dt` ms that publishes `next` leaves: REF's record after the odometry step, the route
after the increment, and the rest of the core as in `s`. -/
structure Moves (s : State) (dt : Nat) (next : Ref) (u : State) : Prop where
  core : u.core = ({ s with ref := travelled dt next } : State).core
  rlq : u.rlq = routeMoved (increment dt next s.travel) s.rlq

theorem odometry_moves {s u : State} {next : Ref} (dt : Nat) (h : u = { s with ref := next, lnk := u.lnk }) :
    Moves s dt next (odometry dt u) := by
  rw [h]
  exact ⟨distance_core _ _, distance_rlq _ _⟩

/-- R27: REF's record with the update time of an update of end time `now`. -/
def dated (now : Time) (r : Ref) : Ref := { r with updateTime := nextUpdateTime now r }

theorem nextUpdateTime_eq (now : Time) (r : Ref) : nextUpdateTime now r = some (match r.updateTime with
    | none => now
    | some t => t + BitVec.ofNat 32 (updateInterval now r * 1000)) := by
  unfold nextUpdateTime
  cases r.updateTime <;> rfl

theorem dated_eq (now : Time) (r : Ref) : dated now r = { r with updateTime := some (match r.updateTime with
    | none => now
    | some t => t + BitVec.ofNat 32 (updateInterval now r * 1000)) } :=
  congrArg (fun u => ({ r with updateTime := u } : Ref)) (nextUpdateTime_eq now r)

theorem update_eq (now : Time) (f : Nat → Ref → Ref) (s : State) (next : Ref)
    (hnext : next = f (updateInterval now s.ref) (dated now s.ref)) : update now f s =
      odometry (updateInterval now s.ref) (if next.active = s.ref.active then { s with ref := next }
        else refReport s.ref.active { s with ref := next }) := by
  rw [hnext]
  rfl

theorem update_moves (now : Time) (f : Nat → Ref → Ref) (s : State) :
    Moves s (updateInterval now s.ref) (f (updateInterval now s.ref) (dated now s.ref)) (update now f s) := by
  rw [update_eq now f s _ rfl]
  refine odometry_moves _ ?_
  split
  · rfl
  · exact sendReport_eq _ _

/-- R41: an update that changes the mode reports it with the speed it publishes. -/
theorem update_reported (now : Time) (f : Nat → Ref → Ref) (s : State) {next : Ref}
    (hnext : next = f (updateInterval now s.ref) (dated now s.ref)) (changes : next.active ≠ s.ref.active) :
    reported (.referenceMode next.active s.ref.active next.requested next.speed s.nowMs) (update now f s) := by
  rw [update_eq now f s next hnext, if_neg changes]
  exact odometry_keeps (stable_reported _) _ (sendReport_reported_self _ _)

/-! The update and the judgement of STANDSTILL (R38, R39) -/

theorem onlyRef_of_core {s u : State} {r : Ref} (h : u.core = ({ s with ref := r } : State).core) :
    OnlyRef s u := by
  have ref : u.ref = r := (ref_of_core h :)
  have timer : u.sfc.refLostTimer = s.sfc.refLostTimer := (refLostTimer_of_core h :)
  have faults : u.core.faults = s.core.faults := (congrArg CoreView.faults h :)
  rw [onlyRef_iff, ref, timer, faults, h]
  rfl

/-- What an arrival at REF leaves that makes an update publishing `next` over `dt` ms and then judges STANDSTILL;
`f` is SFC's record before the judgement: that of `s`, or what leaving LOST makes of it. -/
structure Arrived (s : State) (f : Sfc) (dt : Nat) (next : Ref) (t : State) : Prop where
  wsc : t.wsc = s.wsc
  adh : t.adh = s.adh
  sfc : t.sfc = { s.sfc with faults := t.sfc.faults, refLostTimer := t.sfc.refLostTimer }
  ref : t.ref = restsAt (travelled dt next)
  rlq : t.rlq = routeMoved (increment dt next s.travel) s.rlq
  rests : atRest next → reported (.referenceMode .standstill next.active next.requested 0 s.nowMs) t
    ∧ standstillAtHillHold t.rlq s t
  moves : ¬ atRest next → t.hhu = s.hhu
  refLostTimer : t.sfc.refLostTimer = if atRest next ∧ next.active = .lost then none else f.refLostTimer
  fault : ∀ id, (∀ e, id ≠ .sandEmpty e) → t.fault id =
    if atRest next ∧ next.active = .lost ∧ id = .referenceLost
    then { f.faults.get .referenceLost with active := false } else f.faults.get id

theorem sfc_of_core {s u : State} (h : u.core = s.core) : u.sfc = { s.sfc with faults := u.sfc.faults } := by
  have op := opState_of_core h
  have cfg := cfg_of_core h
  have sent := sent_of_core h
  have timer := refLostTimer_of_core h
  have pending := restartPending_of_core h
  dsimp only
  rw [← op, ← cfg, ← sent, ← timer, ← pending]

theorem OnlyRef.sfc {s u : State} (h : OnlyRef s u) : u.sfc = { s.sfc with
    faults := u.sfc.faults, refLostTimer := u.sfc.refLostTimer } := (sfc_of_core h :)

theorem judgeStandstill_arrived {s b u : State} {dt : Nat} {next : Ref} (base : OnlyRef s b)
    (route : b.rlq = s.rlq) (m : Moves b dt next u) (moving : next.active ≠ .standstill) :
    Arrived s b.sfc dt next (judgeStandstill u) := by
  have only : OnlyRef s u := base.trans (onlyRef_of_core m.core)
  have ref : u.ref = travelled dt next := (ref_of_core m.core :)
  have wsc : u.wsc = s.wsc := (wsc_of_core only :)
  have adh : u.adh = s.adh := (adh_of_core only :)
  have travel : b.travel = s.travel := (travel_of_core base :)
  have rlq : u.rlq = routeMoved (increment dt next s.travel) s.rlq := by rw [m.rlq, route, travel]
  have timer : u.sfc.refLostTimer = b.sfc.refLostTimer := (refLostTimer_of_core m.core :)
  have fault : ∀ id, (∀ e, id ≠ .sandEmpty e) → u.fault id = b.fault id := fun id hid =>
    (fault_of_core m.core hid :)
  have active : u.ref.active = next.active := by rw [ref]; rfl
  by_cases rest : atRest next
  · rw [judgeStandstill_of_atRest (by rwa [active]) (by rw [ref]; exact rest)]
    have core := enterStandstill_core u
    have sent := enterStandstill_reported u
    rw [lostEnded_eq, lostEnded_sfc] at core
    rw [active, only.nowMs, ref] at sent
    refine ⟨(wsc_of_core core).trans wsc, (adh_of_core core).trans adh, ?_, ?_, ?_, fun _ => ⟨sent, ?_⟩,
      fun h => absurd rest h, ?_, fun id hid => ?_⟩
    · rw [sfc_of_core core]
      dsimp only
      rw [only.sfc]
    · rw [enterStandstill_ref, ref]
      exact (if_pos rest).symm
    · rw [enterStandstill_rlq, rlq]
    · rw [enterStandstill_rlq]
      exact enterStandstill_atHillHold only
    · rw [enterStandstill_refLostTimer, lostEnded_refLostTimer, active, timer]
      exact (if_congr (and_iff_right rest) rfl rfl).symm
    · rw [enterStandstill_fault u hid, lostEnded_fault, active, fault id hid, fault _ (by simp)]
      exact (if_congr (and_iff_right rest) rfl rfl).symm
  · rw [judgeStandstill_of_not_atRest (by rw [ref]; exact rest)]
    refine ⟨wsc, adh, only.sfc, ?_, rlq, fun h => absurd h rest, fun _ => only.hhu, ?_, fun id hid => ?_⟩
    · rw [ref]
      exact (if_neg rest).symm
    · rw [if_neg (fun h => rest h.1), timer]
    · exact (fault id hid).trans (if_neg fun h => rest h.1).symm

theorem refLive_iff (s : State) : refLive s = true ↔ s.sfc.opState = .active ∨ s.sfc.opState = .failsafe := by
  simp [refLive, State.isActive, State.isFailsafe]

theorem sign_eq (d : Direction) : d.sign = if d = .forward then 1 else -1 := by
  cases d <;> rfl

/-! Ground arrivals (R31 to R33) -/

theorem updateInterval_eq (now : Time) (r : Ref) : updateInterval now r = match r.updateTime with
    | none => 0
    | some u => (now - u).toNat / 1000 := by
  unfold updateInterval
  cases r.updateTime <;> rfl

theorem engageCount_eq (r : Ref) (p : Sample) : engageCount r p =
    if r.requested = .axleFused then 0 else if groundValid p then min 5 (r.engage + 1) else 0 := rfl

theorem engageCount_of_invalid {r : Ref} {p : Sample} (h : groundValid p = false) : engageCount r p = 0 := by
  rw [engageCount_eq, h, if_neg Bool.false_ne_true, ite_self]

/-- The state after the engage count of a ground arrival (R32). -/
def engaged (p : Sample) (s : State) : State := { s with ref := { s.ref with engage := engageCount s.ref p } }

section

variable {p : Sample} {s : State}

theorem refGround_of_dead (h : ¬ (s.sfc.opState = .active ∨ s.sfc.opState = .failsafe)) : refGround p s = s := by
  rw [refGround, if_pos]
  rwa [← refLive_iff, Bool.not_eq_true, ← Bool.not_eq_true'] at h

variable (live : s.sfc.opState = .active ∨ s.sfc.opState = .failsafe)
include live

theorem refGround_of_return (sensor : s.ref.active = .groundSensor) (fused : s.ref.requested = .axleFused) :
    refGround p s = disengage s := by
  rw [refGround, (refLive_iff s).mpr live, if_neg (by simp), if_pos (by simp [returnsToFused, sensor, fused])]

theorem refGround_of_stays (stays : ¬ (s.ref.active = .groundSensor ∧ s.ref.requested = .axleFused)) :
    refGround p s = match s.ref.active with
      | .groundSensor =>
        if groundValid p then judgeStandstill (groundUpdate p (engaged p s))
        else if p.flags.invalid then disengage (engaged p s)
        else engaged p s
      | .axleFused =>
        if groundValid p ∧ engageCount s.ref p = 5 ∧ s.ref.requested = .groundSensor then
          judgeStandstill (groundUpdate p (engaged p s))
        else engaged p s
      | _ => engaged p s := by
  rw [refGround, (refLive_iff s).mpr live, if_neg (by simp),
    if_neg (by simpa [returnsToFused] using stays)]
  cases s.ref.active <;> rfl

end

theorem disengage_eq (s : State) :
    disengage s = { s with ref := { s.ref with active := .axleFused, engage := 0 }, lnk := (disengage s).lnk }
    ∧ reported (.referenceMode .axleFused .groundSensor s.ref.requested s.ref.speed s.nowMs) (disengage s) :=
  ⟨sendReport_eq _ _, sendReport_reported_self _ _⟩

/-- R33: REF's record that an update with the ground sample publishes. -/
def groundNext (p : Sample) (s : State) : Ref :=
  moveReference s.adhesion s.travel.sign (updateInterval p.endTime s.ref) p.v p.a
    { dated p.endTime (engaged p s).ref with active := .groundSensor }

theorem groundUpdate_arrived (p : Sample) (s : State) : Arrived s s.sfc (updateInterval p.endTime s.ref)
    (groundNext p s) (judgeStandstill (groundUpdate p (engaged p s))) := by
  have moved := update_moves p.endTime (fun dt r => moveReference s.adhesion s.travel.sign dt p.v p.a
    { r with active := .groundSensor }) (engaged p s)
  exact judgeStandstill_arrived (b := s) rfl rfl ⟨moved.core, moved.rlq⟩ (by simp [groundNext, moveReference])

theorem groundUpdate_reported (p : Sample) {s : State} (fused : s.ref.active = .axleFused) :
    reported (.referenceMode .groundSensor .axleFused s.ref.requested (groundNext p s).speed s.nowMs)
      (judgeStandstill (groundUpdate p (engaged p s))) := by
  have sent := update_reported p.endTime (fun dt r => moveReference s.adhesion s.travel.sign dt p.v p.a
    { r with active := .groundSensor }) (engaged p s) (next := groundNext p s) rfl
    (by simp [groundNext, moveReference, engaged, fused])
  have left : (engaged p s).ref.active = .axleFused := fused
  rw [left] at sent
  exact judgeStandstill_keeps (stable_reported _) sent

/-- Settles O36: the branches of `refGround`; an update is `groundUpdate_arrived`. -/
theorem referenceGroundArrival : Obligations.ReferenceGroundArrival := by
  unfold Obligations.ReferenceGroundArrival
  rintro p s _ valid n left rfl hvalid hn hleft
  have hn : n = engageCount s.ref p := by rw [hn, engageCount_eq, hvalid]; rfl
  refine ⟨fun dead => refGround_of_dead (not_or.mpr dead), fun live => ⟨fun sensor leaves => ?_,
    fun sensor asked sound wild => ?_, fun updating dir dt hdir hdt => ?_, fun fused counts => ?_,
    fun other => ?_⟩⟩
  · by_cases fused : s.ref.requested = .axleFused
    · rw [refGround_of_return live sensor fused, hleft]
      exact disengage_eq s
    · have invalid : p.flags.invalid = true := leaves.resolve_left fused
      have bad : groundValid p = false := by simp [groundValid, invalid]
      rw [refGround_of_stays live (fun c => fused c.2), sensor, hleft]
      simp only [bad, invalid, if_true, if_neg Bool.false_ne_true]
      exact disengage_eq (engaged p s)
  · have bad : groundValid p = false := by simp [groundValid, wild]
    rw [refGround_of_stays live (fun c => by rw [asked] at c; exact nomatch c.2), sensor]
    simp only [bad, sound, if_neg Bool.false_ne_true]
    rw [engaged, engageCount_of_invalid bad]
  · have asked : s.ref.requested = .groundSensor := updating.elim (·.2.1) (·.2.1)
    have good : groundValid p = true := Eq.trans hvalid.symm (updating.elim (·.2.2) (·.2.2.1))
    have updates : refGround p s = judgeStandstill (groundUpdate p (engaged p s)) := by
      rw [refGround_of_stays live (fun c => by rw [asked] at c; exact nomatch c.2)]
      rcases updating with ⟨sensor, -, -⟩ | ⟨fused, -, -, five⟩
      · simp only [sensor, good, if_true]
      · simp only [fused, good, ← hn, five, asked, and_self, if_true]
    have interval : dt = updateInterval p.endTime s.ref := hdt.trans (updateInterval_eq _ _).symm
    have arrived := groundUpdate_arrived p s
    rw [← interval] at arrived
    rw [updates]
    have unlost : ¬ (atRest (groundNext p s) ∧ (groundNext p s).active = .lost) := fun c => nomatch c.2
    have timer := arrived.refLostTimer
    rw [if_neg unlost] at timer
    refine ⟨groundNext p s, arrived.ref, ?_, fun fused => ?_, fun rest => arrived.rests rest,
      fun moves => arrived.moves moves, fun m hm => ?_, arrived.wsc, arrived.adh, ?_, fun id hid => ?_⟩
    · rw [groundNext, dated, nextUpdateTime_eq, interval, hdir, ← sign_eq, hn]
      rfl
    · have sent := groundUpdate_reported p fused
      rwa [asked] at sent
    · rw [← routeMoved_eq, arrived.rlq, hm, hdir, ← sign_eq]
      rfl
    · have sfc := arrived.sfc
      rwa [timer] at sfc
    · exact (arrived.fault id hid).trans (if_neg fun c => unlost ⟨c.1, c.2.1⟩)
  · rw [refGround_of_stays live (fun c => by rw [fused] at c; exact nomatch c.1), fused]
    dsimp only
    rw [if_neg fun c => counts ⟨c.2.2, hvalid.trans c.1, hn.trans c.2.1⟩, engaged, ← hn]
  · rw [refGround_of_stays live (fun c => by rw [c.1] at other; simp at other), hn]
    rcases other with h | h | h
    all_goals rw [h]; rfl

end Sys2Proof.Machine
end

section
/-! SUPPORT. The candidate (R26, R28, R29), the rate-limited step (R30), the extrapolation (R34) and the agreement
that ends LOST (R37). -/

namespace Sys2Proof

theorem Axle.number_injective : Function.Injective Axle.number := by
  intro x y h
  cases x <;> cases y <;> revert h <;> decide

end Sys2Proof

namespace Sys2Proof.Machine

/-! The step and the extrapolation (R30, R34) -/

theorem moveReference_eq (cfg : Adhesion) (dir v a : Int) (dt : Nat) (r : Ref) :
    moveReference cfg dir dt v a r = { r with
      speed := max (r.speed * dir - (max 1 (cfg.down * dt / 1000) : Nat))
        (min (r.speed * dir + (max 1 (cfg.up * dt / 1000) : Nat)) (v * dir)) * dir
      accel := if r.speed * dir + (max 1 (cfg.up * dt / 1000) : Nat) < v * dir then cfg.up * dir
        else if v * dir < r.speed * dir - (max 1 (cfg.down * dt / 1000) : Nat) then -cfg.down * dir
        else max (-(cfg.down : Int)) (min cfg.up (a * dir)) * dir } := rfl

theorem extrapolate_eq (dir : Int) (dt : Nat) (r : Ref) {rp moved : Int} (hrp : rp = r.speed * dir)
    (hmoved : moved = if 0 < r.heldAccel * dir then rp + (r.heldAccel.natAbs * dt / 1000 : Nat)
      else rp - (r.heldAccel.natAbs * dt / 1000 : Nat)) : extrapolate dir dt r = { r with
        speed := max (-30000) (min 30000
          (if (rp < 0 ∧ 0 < moved) ∨ (0 < rp ∧ moved < 0) then 0 else moved)) * dir
        accel := r.heldAccel } := by
  subst hrp hmoved
  rfl

/-! Qualifying samples (R26) -/

theorem qualifying_eq_some_iff (s : State) (now : Time) (y : Axle) (q : Sample) :
    qualifying s now y = some q ↔ qualifies s now y q := by
  have watched : s.unwatched y = false ↔ s.adhState y ≠ .isolated ∧ s.adhState y ≠ .fault := by
    rw [← Bool.not_eq_true, unwatched_iff, not_or]
  unfold qualifying qualifies
  cases (s.wsc.axle.get y).latest with
  | none => simp
  | some p =>
    simp only [Bool.not_eq_true', Option.ite_none_right_eq_some, Option.some.injEq, watched]
    constructor
    · rintro ⟨⟨clear, ⟨free, noFault⟩, sound, fresh⟩, rfl⟩
      exact ⟨rfl, clear, free, noFault, sound, fresh⟩
    · rintro ⟨rfl, clear, free, noFault, sound, fresh⟩
      exact ⟨⟨clear, ⟨free, noFault⟩, sound, fresh⟩, rfl⟩

theorem mem_validAxles (s : State) (now : Time) (y : Axle) (q : Sample) :
    (y, q) ∈ validAxles s now ↔ qualifies s now y q := by
  rw [validAxles, List.mem_filterMap, ← qualifying_eq_some_iff]
  constructor
  · rintro ⟨x, -, h⟩
    obtain ⟨p, hp, e⟩ := Option.map_eq_some_iff.mp h
    cases e
    exact hp
  · intro h
    exact ⟨y, Axle.mem_all y, by rw [h]; rfl⟩

theorem qualifies_unique {s : State} {now : Time} {y : Axle} {p q : Sample} (hp : qualifies s now y p)
    (hq : qualifies s now y q) : p = q := Option.some.inj (hp.1.symm.trans hq.1)

/-- The list is in channel order. -/
abbrev InChannelOrder (l : List (Axle × Sample)) : Prop := l.Pairwise fun a b => a.1.number < b.1.number

theorem validAxles_inChannelOrder (s : State) (now : Time) : InChannelOrder (validAxles s now) := by
  have all : Axle.all.Pairwise fun x y => x.number < y.number := by decide
  refine List.Pairwise.filterMap _ (fun x y hxy a ha b hb => ?_) all
  obtain ⟨p, -, rfl⟩ := Option.map_eq_some_iff.mp ha
  obtain ⟨q, -, rfl⟩ := Option.map_eq_some_iff.mp hb
  exact hxy

/-! The best of a list (R28, R29) -/

theorem firstBest_eq_none (better : Sample → Sample → Bool) :
    ∀ {l : List (Axle × Sample)}, firstBest better l = none ↔ l = []
  | [] => by simp [firstBest]
  | (x, p) :: rest => by
    simp only [firstBest, reduceCtorEq, iff_false]
    split
    · nofun
    · split <;> nofun

/-- What is found is no worse than any other, and better than all before it. -/
theorem firstBest_eq_some {better : Sample → Sample → Bool} (f : Sample → Int)
    (h : ∀ q p, better q p = true ↔ f q < f p) : ∀ {l : List (Axle × Sample)} {c : Sample},
    firstBest better l = some c → ∃ before y after, l = before ++ (y, c) :: after
      ∧ (∀ a ∈ before, f c < f a.2) ∧ ∀ a ∈ after, f c ≤ f a.2
  | [], c, e => by simp [firstBest] at e
  | (x, p) :: rest, c, e => by
    rw [firstBest] at e
    split at e
    · next none =>
      cases e
      rw [(firstBest_eq_none better).mp none]
      exact ⟨[], x, [], rfl, by simp, by simp⟩
    · next q found =>
      obtain ⟨before, y, after, rfl, hbefore, hafter⟩ := firstBest_eq_some f h found
      split at e
      · next wins =>
        cases e
        refine ⟨(x, p) :: before, y, after, rfl, ?_, hafter⟩
        rintro a (_ | ⟨_, ha⟩)
        · exact (h _ _).mp wins
        · exact hbefore a ha
      · next stays =>
        obtain rfl : p = c := Option.some.inj e
        have least : f p ≤ f q := not_lt.mp fun lt => stays ((h _ _).mpr lt)
        refine ⟨[], x, _, rfl, by simp, fun a ha => ?_⟩
        rcases List.mem_append.mp ha with ha | _ | ⟨_, ha⟩
        · exact least.trans (hbefore a ha).le
        · exact least
        · exact least.trans (hafter a ha)

/-- Of a list in channel order, the lowest channel of those that are best. -/
theorem firstBest_lowest {better : Sample → Sample → Bool} (f : Sample → Int)
    (h : ∀ q p, better q p = true ↔ f q < f p) {l : List (Axle × Sample)} (order : InChannelOrder l) {c : Sample}
    (e : firstBest better l = some c) : ∃ y, (y, c) ∈ l
      ∧ ∀ z q, (z, q) ∈ l → f c ≤ f q ∧ (z.number < y.number → f c < f q) := by
  obtain ⟨before, y, after, rfl, hbefore, hafter⟩ := firstBest_eq_some f h e
  obtain ⟨-, tail, -⟩ := List.pairwise_append.mp order
  have later := (List.pairwise_cons.mp tail).1
  refine ⟨y, by simp, fun z q hz => ?_⟩
  rcases List.mem_append.mp hz with hz | hz
  · exact ⟨(hbefore _ hz).le, fun _ => hbefore _ hz⟩
  · rcases List.mem_cons.mp hz with hz | hz
    · cases hz
      exact ⟨le_rfl, fun lt => absurd lt (lt_irrefl _)⟩
    · exact ⟨hafter _ hz, fun lt => absurd (later _ hz) lt.asymm⟩

section

variable {l : List (Axle × Sample)} {c : Sample} (order : InChannelOrder l)
include order

theorem slowest_eq_some (e : slowest l = some c) : ∃ y, (y, c) ∈ l ∧ ∀ z q, (z, q) ∈ l →
    c.v.natAbs ≤ q.v.natAbs ∧ (z.number < y.number → c.v.natAbs < q.v.natAbs) := by
  obtain ⟨y, mem, best⟩ := firstBest_lowest (fun q => (q.v.natAbs : Int))
    (fun q p => by rw [decide_eq_true_iff, Int.ofNat_lt]) order e
  exact ⟨y, mem, fun z q hz => by simpa only [Int.ofNat_le, Int.ofNat_lt] using best z q hz⟩

theorem fastest_eq_some (e : fastest l = some c) : ∃ y, (y, c) ∈ l ∧ ∀ z q, (z, q) ∈ l →
    q.v.natAbs ≤ c.v.natAbs ∧ (z.number < y.number → q.v.natAbs < c.v.natAbs) := by
  obtain ⟨y, mem, best⟩ := firstBest_lowest (fun q => -(q.v.natAbs : Int))
    (fun q p => by rw [decide_eq_true_iff, neg_lt_neg_iff, Int.ofNat_lt]) order e
  exact ⟨y, mem, fun z q hz => by
    simpa only [neg_le_neg_iff, neg_lt_neg_iff, Int.ofNat_le, Int.ofNat_lt] using best z q hz⟩

end

/-! The candidate (R28, R29) -/

theorem driveSense_iff (s : State) : driveSense s = true ↔ drives s := by
  simp [driveSense, State.isActive]

/-- R28: an axle of the trailer qualifies. -/
def trailerQualifies (s : State) (now : Time) : Bool := (validAxles s now).any fun a => !a.1.isMotor

/-- R28, R29: the axles among which the candidate is sought. -/
def candidateGroup (s : State) (now : Time) (y : Axle) : Bool :=
  if driveSense s && trailerQualifies s now then !y.isMotor else gripping s y

/-- R28, R29: the better of two samples is sought in the sense of drive. -/
def bestOf (s : State) : List (Axle × Sample) → Option Sample := if driveSense s then slowest else fastest

theorem candidate_eq (s : State) (now : Time) :
    candidate s now = bestOf s ((validAxles s now).filter fun a => candidateGroup s now a.1) := by
  unfold candidate bestOf candidateGroup trailerQualifies
  dsimp only
  cases driveSense s with
  | false => simp
  | true =>
    cases trailers : (validAxles s now).filter fun a => !a.1.isMotor with
    | nil =>
      have none : ((validAxles s now).any fun a => !a.1.isMotor) = false := by
        simpa [List.filter_eq_nil_iff] using trailers
      simp [none]
    | cons a rest =>
      have some : ((validAxles s now).any fun a => !a.1.isMotor) = true := by
        refine List.any_eq_true.mpr ⟨a, ?_⟩
        exact List.mem_filter.mp (trailers ▸ List.mem_cons_self)
      simp [some, trailers]

theorem bestOf_eq_none (s : State) {l : List (Axle × Sample)} : bestOf s l = none ↔ l = [] := by
  unfold bestOf
  split
  · exact firstBest_eq_none _
  · exact firstBest_eq_none _

theorem bestOf_eq_some {s : State} {l : List (Axle × Sample)} (order : InChannelOrder l) {c : Sample}
    (e : bestOf s l = some c) : ∃ y, (y, c) ∈ l ∧ ∀ z q, (z, q) ∈ l →
      (drives s → c.v.natAbs ≤ q.v.natAbs ∧ (z.number < y.number → c.v.natAbs < q.v.natAbs))
      ∧ (¬ drives s → q.v.natAbs ≤ c.v.natAbs ∧ (z.number < y.number → q.v.natAbs < c.v.natAbs)) := by
  unfold bestOf at e
  split at e
  · next sense =>
    obtain ⟨y, mem, best⟩ := slowest_eq_some order e
    exact ⟨y, mem, fun z q hz => ⟨fun _ => best z q hz, fun no => absurd ((driveSense_iff s).mp sense) no⟩⟩
  · next sense =>
    obtain ⟨y, mem, best⟩ := fastest_eq_some order e
    exact ⟨y, mem, fun z q hz => ⟨fun yes => absurd ((driveSense_iff s).mpr yes) sense, fun _ => best z q hz⟩⟩

theorem trailerQualifies_iff (s : State) (now : Time) :
    trailerQualifies s now = true ↔ ∃ z q, (z = .t1 ∨ z = .t2) ∧ qualifies s now z q := by
  have trailer : ∀ z : Axle, (!z.isMotor) = true ↔ z = .t1 ∨ z = .t2 := fun z => by cases z <;> decide
  rw [trailerQualifies, List.any_eq_true]
  constructor
  · rintro ⟨⟨z, q⟩, mem, h⟩
    exact ⟨z, q, (trailer z).mp h, (mem_validAxles ..).mp mem⟩
  · rintro ⟨z, q, h, mem⟩
    exact ⟨(z, q), (mem_validAxles ..).mpr mem, (trailer z).mpr h⟩

theorem candidateGroup_iff (s : State) (now : Time) (y : Axle) : candidateGroup s now y = true ↔
    (drives s ∧ (∃ z q, (z = .t1 ∨ z = .t2) ∧ qualifies s now z q) ∧ (y = .t1 ∨ y = .t2))
    ∨ (¬ (drives s ∧ ∃ z q, (z = .t1 ∨ z = .t2) ∧ qualifies s now z q)
      ∧ (s.adhState y = .grip ∨ s.adhState y = .creep)) := by
  have trailer : (!y.isMotor) = true ↔ y = .t1 ∨ y = .t2 := by cases y <;> decide
  have grip : gripping s y = true ↔ s.adhState y = .grip ∨ s.adhState y = .creep := by simp [gripping]
  rw [← driveSense_iff, ← trailerQualifies_iff, ← trailer, ← grip, candidateGroup]
  cases driveSense s <;> cases trailerQualifies s now <;> simp

theorem mem_candidates (s : State) (now : Time) (y : Axle) (q : Sample) :
    (y, q) ∈ (validAxles s now).filter (fun a => candidateGroup s now a.1)
      ↔ qualifies s now y q ∧ candidateGroup s now y = true := by
  rw [List.mem_filter, mem_validAxles]

theorem candidate_eq_none_iff (s : State) (now : Time) :
    candidate s now = none ↔ ∀ y q, qualifies s now y q → ¬ candidateGroup s now y = true := by
  rw [candidate_eq, bestOf_eq_none, List.eq_nil_iff_forall_not_mem]
  constructor
  · exact fun h y q hq hy => h (y, q) ((mem_candidates ..).mpr ⟨hq, hy⟩)
  · exact fun h a ha => (fun m => h a.1 a.2 m.1 m.2) ((mem_candidates ..).mp ha)

theorem candidate_eq_some {s : State} {now : Time} {c : Sample} (e : candidate s now = some c) :
    ∃ y, qualifies s now y c ∧ candidateGroup s now y = true
    ∧ ∀ z q, qualifies s now z q → candidateGroup s now z = true →
      (drives s → c.v.natAbs ≤ q.v.natAbs ∧ (z.number < y.number → c.v.natAbs < q.v.natAbs))
      ∧ (¬ drives s → q.v.natAbs ≤ c.v.natAbs ∧ (z.number < y.number → q.v.natAbs < c.v.natAbs)) := by
  rw [candidate_eq] at e
  obtain ⟨y, mem, best⟩ := bestOf_eq_some ((validAxles_inChannelOrder s now).filter _) e
  obtain ⟨hq, hy⟩ := (mem_candidates ..).mp mem
  exact ⟨y, hq, hy, fun z q hz group => best z q ((mem_candidates ..).mpr ⟨hz, group⟩)⟩

/-! Agreement and the partner that ends LOST (R37) -/

/-- R37: the arriving axle's sample agrees with that of another valid axle. -/
def agreesWithOther (s : State) (x : Axle) (p : Sample) : Prop :=
  ∃ y q, y ≠ x ∧ qualifies s p.endTime x p ∧ qualifies s p.endTime y q
    ∧ (p.v - q.v).natAbs * 1000 ≤ 20 * max p.v.natAbs q.v.natAbs

theorem agree_iff (v w : Int) : agree v w = true ↔ (v - w).natAbs * 1000 ≤ 20 * max v.natAbs w.natAbs :=
  decide_eq_true_iff

section

variable {s : State} {x : Axle} {p : Sample} (latest : (s.wsc.axle.get x).latest = some p)
include latest

theorem qualifying_isSome_iff (now : Time) : (qualifying s now x).isSome = true ↔ qualifies s now x p := by
  rw [Option.isSome_iff_exists]
  constructor
  · rintro ⟨q, hq⟩
    have found := (qualifying_eq_some_iff ..).mp hq
    rwa [Option.some.inj (latest.symm.trans found.1)]
  · exact fun h => ⟨p, (qualifying_eq_some_iff ..).mpr h⟩

theorem resyncCount_condition : ((qualifying s p.endTime x).isSome = true
    ∧ ((validAxles s p.endTime).filter fun a => a.1 ≠ x).any (fun a => agree p.v a.2.v) = true)
      ↔ agreesWithOther s x p := by
  rw [qualifying_isSome_iff latest, List.any_eq_true]
  constructor
  · rintro ⟨self, ⟨y, q⟩, mem, agrees⟩
    obtain ⟨valid, other⟩ := List.mem_filter.mp mem
    exact ⟨y, q, of_decide_eq_true other, self, (mem_validAxles ..).mp valid, (agree_iff ..).mp agrees⟩
  · rintro ⟨y, q, other, self, valid, agrees⟩
    exact ⟨self, (y, q), List.mem_filter.mpr ⟨(mem_validAxles ..).mpr valid, decide_eq_true other⟩,
      (agree_iff ..).mpr agrees⟩

theorem resyncCount_of_agrees (h : agreesWithOther s x p) :
    resyncCount s x p = min 3 (s.ref.resync.get x + 1) := if_pos ((resyncCount_condition latest).mpr h)

theorem resyncCount_of_not_agrees (h : ¬ agreesWithOther s x p) : resyncCount s x p = 0 :=
  if_neg fun c => h ((resyncCount_condition latest).mp c)

end

/-- R37, step 3: the axle `y` ends LOST together with the arriving one. -/
def endsLost (s : State) (x : Axle) (p : Sample) (y : Axle) (q : Sample) : Prop :=
  resyncCount s x p = 3 ∧ y ≠ x ∧ qualifies s p.endTime y q ∧ s.ref.resync.get y = 3
    ∧ (p.v - q.v).natAbs * 1000 ≤ 20 * max p.v.natAbs q.v.natAbs

theorem endsLost_iff (s : State) (x : Axle) (p : Sample) (y : Axle) (q : Sample) : endsLost s x p y q ↔
    resyncCount s x p = 3 ∧ (y, q) ∈ validAxles s p.endTime
      ∧ (y ≠ x && decide (s.ref.resync.get y = 3) && agree p.v q.v) = true := by
  rw [mem_validAxles, Bool.and_eq_true, Bool.and_eq_true, decide_eq_true_iff, decide_eq_true_iff, agree_iff]
  unfold endsLost
  tauto

theorem resyncPartner_eq_none_iff (s : State) (x : Axle) (p : Sample) :
    resyncPartner s x p = none ↔ ∀ y q, ¬ endsLost s x p y q := by
  simp only [endsLost_iff, resyncPartner]
  split
  · next full =>
    rw [List.find?_eq_none]
    exact ⟨fun h y q c => h (y, q) c.2.1 c.2.2, fun h a mem c => h a.1 a.2 ⟨full, mem, c⟩⟩
  · next short => exact iff_of_true rfl fun y q c => short c.1

theorem resyncPartner_eq_some {s : State} {x : Axle} {p : Sample} {y : Axle} {q : Sample}
    (e : resyncPartner s x p = some (y, q)) :
    endsLost s x p y q ∧ ∀ z w, endsLost s x p z w → y.number ≤ z.number := by
  simp only [endsLost_iff]
  unfold resyncPartner at e
  split at e
  · next full =>
    obtain ⟨ends, before, after, split, fails⟩ := List.find?_eq_some_iff_append.mp e
    have order := validAxles_inChannelOrder s p.endTime
    rw [split] at order ⊢
    refine ⟨⟨full, by simp, ends⟩, ?_⟩
    rintro z w ⟨-, mem, c⟩
    rcases List.mem_append.mp mem with mem | mem
    · have failed := fails _ mem
      dsimp only at failed
      rw [c] at failed
      exact nomatch failed
    · rcases List.mem_cons.mp mem with mem | mem
      · cases mem; exact le_rfl
      · exact ((List.pairwise_cons.mp (List.pairwise_append.mp order).2.1).1 _ mem).le
  · exact nomatch e

/-- Where LOST ends, the partner is the lowest channel that ends it. -/
theorem resyncPartner_of_lowest {s : State} {x : Axle} {p : Sample} {y : Axle} {q : Sample}
    (ends : endsLost s x p y q) (lowest : ∀ z w, endsLost s x p z w → y.number ≤ z.number) :
    resyncPartner s x p = some (y, q) := by
  cases e : resyncPartner s x p with
  | none => exact absurd ends ((resyncPartner_eq_none_iff ..).mp e y q)
  | some a =>
    obtain ⟨hz, least⟩ := resyncPartner_eq_some e
    have same : a.1 = y := Axle.number_injective (Nat.le_antisymm (least y q ends) (lowest _ _ hz))
    obtain ⟨z, w⟩ := a
    obtain rfl : z = y := same
    rw [show w = q from qualifies_unique hz.2.2.1 ends.2.2.1]

theorem resyncCandidate_spec {s : State} {x y : Axle} {p q : Sample} (other : y ≠ x) :
    (resyncCandidate s x p (y, q) = p ∨ resyncCandidate s x p (y, q) = q)
    ∧ (drives s → (resyncCandidate s x p (y, q)).v.natAbs = min p.v.natAbs q.v.natAbs)
    ∧ (¬ drives s → (resyncCandidate s x p (y, q)).v.natAbs = max p.v.natAbs q.v.natAbs) := by
  have pair : ∃ l : List (Axle × Sample), resyncCandidate s x p (y, q) = (bestOf s l).getD p
      ∧ InChannelOrder l ∧ ∀ a, a ∈ l ↔ a = (x, p) ∨ a = (y, q) := by
    by_cases lower : x.number < y.number
    · refine ⟨[(x, p), (y, q)], ?_, by simpa using lower, by simp⟩
      simp only [resyncCandidate, bestOf, if_pos lower]
      split <;> rfl
    · have upper : y.number < x.number :=
        lt_of_le_of_ne (not_lt.mp lower) fun e => other (Axle.number_injective e)
      refine ⟨[(y, q), (x, p)], ?_, by simpa using upper, by simp [or_comm]⟩
      simp only [resyncCandidate, bestOf, if_neg lower]
      split <;> rfl
  obtain ⟨l, e, order, mem⟩ := pair
  rw [e]
  cases found : bestOf s l with
  | none =>
    have empty := (bestOf_eq_none s).mp found
    exact absurd ((mem (x, p)).mpr (.inl rfl)) (by simp [empty])
  | some c =>
    obtain ⟨z, hz, best⟩ := bestOf_eq_some order found
    obtain ⟨px, nx⟩ := best x p ((mem _).mpr (.inl rfl))
    obtain ⟨py, ny⟩ := best y q ((mem _).mpr (.inr rfl))
    have either : c = p ∨ c = q :=
      ((mem _).mp hz).imp (fun h => congrArg Prod.snd h) (fun h => congrArg Prod.snd h)
    refine ⟨either, fun yes => ?_, fun no => ?_⟩
    · have := (px yes).1
      have := (py yes).1
      rcases either with rfl | rfl <;> simp only [Option.getD_some] <;> omega
    · have := (nx no).1
      have := (ny no).1
      rcases either with rfl | rfl <;> simp only [Option.getD_some] <;> omega

end Sys2Proof.Machine
end

section
/-! SUPPORT. An axle sample arrives at the reference (R27, R34, R36 to R40): the update of each mode, and the
settlement of the axle arrivals. -/

namespace Sys2Proof.Machine

/-! The standstill confirm at an arrival (R38) -/

/-- R38: every valid axle stands still, and there is one. -/
def allStand (s : State) (now : Time) : Prop :=
  (∃ y q, qualifies s now y q) ∧ ∀ y q, qualifies s now y q → q.flags.standstill = true

theorem standstillCondition_iff (s : State) (now : Time) : standstillCondition s now = true ↔ allStand s now := by
  rw [standstillCondition, Bool.and_eq_true, List.all_eq_true, Bool.not_eq_true',
    List.isEmpty_eq_false_iff_exists_mem]
  refine and_congr ⟨?_, ?_⟩ ⟨?_, ?_⟩
  · rintro ⟨⟨y, q⟩, mem⟩
    exact ⟨y, q, (mem_validAxles ..).mp mem⟩
  · rintro ⟨y, q, h⟩
    exact ⟨(y, q), (mem_validAxles ..).mpr h⟩
  · exact fun h y q valid => h (y, q) ((mem_validAxles ..).mpr valid)
  · exact fun h a mem => h a.1 a.2 ((mem_validAxles ..).mp mem)

/-- The state with the standstill confirm at `k`. -/
def confirmed (k : Confirm) (s : State) : State := { s with ref := { s.ref with confirm := k } }

theorem judgeConfirm_eq {now : Time} {s : State} {k : Confirm}
    (stands : allStand s now → k = (match s.ref.confirm with
      | .stopped => .running (s.clock + 500000)
      | .running due => .running due
      | .complete => .complete))
    (moves : ¬ allStand s now → k = .stopped) : judgeConfirm now s = confirmed k s := by
  by_cases h : allStand s now
  · exact congrArg (fun c => confirmed c s)
      ((if_pos ((standstillCondition_iff s now).mpr h)).trans (stands h).symm)
  · exact congrArg (fun c => confirmed c s)
      ((if_neg fun c => h ((standstillCondition_iff s now).mp c)).trans (moves h).symm)

theorem resyncPartner_confirmed (k : Confirm) (s : State) (x : Axle) (p : Sample) :
    resyncPartner (confirmed k s) x p = resyncPartner s x p := rfl

/-! The update of AXLE-FUSED, and the return to it (R28, R29, R31, R34, R40) -/

/-- R28 to R30, R34: REF's record that an AXLE-FUSED update over `dt` ms publishes from `r`. -/
def fusedNext (now : Time) (s : State) (dt : Nat) (r : Ref) : Ref :=
  match candidate s now with
  | some c => moveReference s.adhesion s.travel.sign dt c.v c.a r
  | none => heldFrom s dt r

section

variable {now : Time} {s : State}

theorem fusedNext_of_some {c : Sample} (h : candidate s now = some c) (dt : Nat) (r : Ref) :
    fusedNext now s dt r = moveReference s.adhesion s.travel.sign dt c.v c.a r := by
  rw [fusedNext, h]

theorem fusedNext_of_none (h : candidate s now = none) (dt : Nat) (r : Ref) :
    fusedNext now s dt r = extrapolate s.travel.sign dt { r with
      active := .held
      heldAccel := max (-s.adhesion.hold) (min s.adhesion.hold r.accel)
      heldTimer := some (s.clock + s.adhesion.heldTimeout * 1000) } := by
  rw [fusedNext, h]
  rfl

/-- A sample that gives a candidate keeps the mode; else HELD is entered. -/
theorem fusedNext_active (dt : Nat) (r : Ref) :
    (fusedNext now s dt r).active = r.active ∨ (fusedNext now s dt r).active = .held := by
  unfold fusedNext
  split
  · exact .inl rfl
  · exact .inr rfl

theorem fusedNext_keeps (dt : Nat) (r : Ref) : (fusedNext now s dt r).residual = r.residual
    ∧ (fusedNext now s dt r).requested = r.requested := by
  unfold fusedNext
  split
  · exact ⟨rfl, rfl⟩
  · exact ⟨rfl, rfl⟩

end

/-- R31, R40: the record published by an update at which AXLE-FUSED is entered. -/
def enteredNext (p : Sample) (s : State) : Ref :=
  fusedNext p.endTime s (updateInterval p.endTime s.ref) { dated p.endTime s.ref with active := .axleFused }

theorem refReport_after_report (first second : RefMode) (r : Ref) (u : State) :
    reported (.referenceMode r.active second r.requested r.speed u.nowMs)
      (refReport second { refReport first u with ref := r }) := by
  have now : u.nowMs = ({ refReport first u with ref := r } : State).nowMs :=
    (congrArg State.nowMs (sendReport_eq _ u)).symm
  rw [now]
  exact sendReport_reported_self _ _

section

variable {p : Sample} {s : State} (left : RefMode)

theorem enterFused_of_some {c : Sample} (h : candidate s p.endTime = some c) : enterFused left p s =
    odometry (updateInterval p.endTime s.ref) (refReport left { s with ref := enteredNext p s }) := by
  simp only [enterFused, enteredNext, fusedNext_of_some h, h]
  rfl

theorem enterFused_of_none (h : candidate s p.endTime = none) : enterFused left p s =
    odometry (updateInterval p.endTime s.ref) (refReport .axleFused { refReport left
      { s with ref := { enteredNext p s with active := .axleFused } } with ref := enteredNext p s }) := by
  simp only [enterFused, enteredNext, fusedNext, h]
  rfl

theorem enterFused_moves :
    Moves s (updateInterval p.endTime s.ref) (enteredNext p s) (enterFused left p s) := by
  cases h : candidate s p.endTime with
  | some c =>
    rw [enterFused_of_some left h]
    exact odometry_moves _ (sendReport_eq _ _)
  | none =>
    rw [enterFused_of_none left h]
    refine odometry_moves _ ?_
    rw [refReport, sendReport_eq, refReport, sendReport_eq]

/-- R41: an entry to AXLE-FUSED is reported with the speed the update publishes. -/
theorem enterFused_reported :
    reported (.referenceMode .axleFused left s.ref.requested (enteredNext p s).speed s.nowMs)
      (enterFused left p s) := by
  have asked : (enteredNext p s).requested = s.ref.requested := (fusedNext_keeps _ _).2
  cases h : candidate s p.endTime with
  | some c =>
    have active : (enteredNext p s).active = .axleFused := by rw [enteredNext, fusedNext_of_some h]; rfl
    rw [enterFused_of_some left h, ← asked, ← active]
    exact odometry_keeps (stable_reported _) _ (sendReport_reported_self _ _)
  | none =>
    rw [enterFused_of_none left h, ← asked]
    exact odometry_keeps (stable_reported _) _ (sendReport_reported _ (sendReport_reported_self _ _))

/-- R41, log 17: where the entry to AXLE-FUSED finds no candidate, HELD is reported after it. -/
theorem enterFused_reported_held (h : candidate s p.endTime = none) :
    reported (.referenceMode .held .axleFused s.ref.requested (enteredNext p s).speed s.nowMs)
      (enterFused left p s) := by
  have asked : (enteredNext p s).requested = s.ref.requested := (fusedNext_keeps _ _).2
  have active : (enteredNext p s).active = .held := by rw [enteredNext, fusedNext_of_none h]; rfl
  rw [enterFused_of_none left h, ← asked, ← active]
  exact odometry_keeps (stable_reported _) _ (refReport_after_report _ _ _ _)

end

end Sys2Proof.Machine
end

section
/-! SUPPORT. An axle sample arrives at the reference, mode by mode (R27, R31, R34, R36 to R40); and the settlement
of the axle arrivals. -/

namespace Sys2Proof.Machine

/-! What every axle arrival leaves (R27, R38, R39, R42, R43) -/

/-- What an axle arrival leaves in every mode, where its update over `dt` ms publishes `next`. -/
structure AxleStep (s : State) (dt : Nat) (next : Ref) (t : State) : Prop where
  wsc : t.wsc = s.wsc
  cfg : t.sfc.cfg = s.sfc.cfg
  opState : t.sfc.opState = s.sfc.opState
  adh : t.adh = s.adh
  ref : t.ref = if s.ref.active = .standstill then travelled dt next else restsAt (travelled dt next)
  rests : s.ref.active ≠ .standstill → atRest next →
    reported (.referenceMode .standstill next.active s.ref.requested 0 s.nowMs) t ∧ standstillAtHillHold t.rlq s t
  moves : ¬ (s.ref.active ≠ .standstill ∧ atRest next) → t.hhu = s.hhu
  refLostTimer : s.ref.active ≠ .lost → t.sfc.refLostTimer = s.sfc.refLostTimer
  route : t.rlq = routeMoved (increment dt next s.travel) s.rlq
  residual : next.residual = s.ref.residual
  changes : next.active ≠ s.ref.active → s.ref.active ≠ .groundSensor → s.ref.active ≠ .standstill →
    reported (.referenceMode next.active s.ref.active s.ref.requested next.speed s.nowMs) t

theorem Arrived.axleStep {s : State} {f : Sfc} {dt : Nat} {next : Ref} {t : State} (h : Arrived s f dt next t)
    (moving : s.ref.active ≠ .standstill) (asked : next.requested = s.ref.requested)
    (residual : next.residual = s.ref.residual)
    (timer : s.ref.active ≠ .lost → next.active ≠ .lost ∧ f.refLostTimer = s.sfc.refLostTimer)
    (changes : next.active ≠ s.ref.active → s.ref.active ≠ .groundSensor →
      reported (.referenceMode next.active s.ref.active s.ref.requested next.speed s.nowMs) t) :
    AxleStep s dt next t where
  wsc := h.wsc
  cfg := by rw [h.sfc]
  opState := by rw [h.sfc]
  adh := h.adh
  ref := by rw [h.ref, if_neg moving]
  rests _ rest := asked ▸ h.rests rest
  moves stays := h.moves fun rest => stays ⟨moving, rest⟩
  refLostTimer other := by
    obtain ⟨unlost, same⟩ := timer other
    rw [h.refLostTimer, if_neg fun c => unlost c.2, same]
  route := h.rlq
  residual := residual
  changes differs noGround _ := changes differs noGround

theorem Moves.axleStep {s : State} {dt : Nat} {next : Ref} {t : State} (h : Moves s dt next t)
    (still : s.ref.active = .standstill) (residual : next.residual = s.ref.residual) : AxleStep s dt next t where
  wsc := (wsc_of_core h.core :)
  cfg := (cfg_of_core h.core :)
  opState := (opState_of_core h.core :)
  adh := (adh_of_core h.core :)
  ref := by rw [if_pos still]; exact (ref_of_core h.core :)
  rests moving := absurd still moving
  moves _ := (hhu_of_core h.core :)
  refLostTimer _ := (refLostTimer_of_core h.core :)
  route := h.rlq
  residual := residual
  changes _ _ moving := absurd still moving

/-! The records that the updates publish (R34, R36, R37) -/

/-- R34: REF's record that an update in HELD over `dt` ms publishes from `r`. -/
def heldNext (now : Time) (s : State) (dt : Nat) (r : Ref) : Ref :=
  match candidate s now with
  | some c => moveReference s.adhesion s.travel.sign dt c.v c.a { r with active := .axleFused, heldTimer := none }
  | none => extrapolate s.travel.sign dt r

theorem heldNext_of_some {now : Time} {s : State} {c : Sample} (h : candidate s now = some c) (dt : Nat) (r : Ref) :
    heldNext now s dt r = moveReference s.adhesion s.travel.sign dt c.v c.a
      { r with active := .axleFused, heldTimer := none } := by
  rw [heldNext, h]

theorem heldNext_of_none {now : Time} {s : State} (h : candidate s now = none) (dt : Nat) (r : Ref) :
    heldNext now s dt r = extrapolate s.travel.sign dt r := by
  rw [heldNext, h]

theorem heldNext_keeps (now : Time) (s : State) (dt : Nat) (r : Ref) :
    (heldNext now s dt r).residual = r.residual ∧ (heldNext now s dt r).requested = r.requested := by
  unfold heldNext
  split
  · exact ⟨rfl, rfl⟩
  · exact ⟨rfl, rfl⟩

theorem heldNext_active (now : Time) (s : State) (dt : Nat) {r : Ref} (h : r.active = .held) :
    (heldNext now s dt r).active = .axleFused ∨ (heldNext now s dt r).active = .held := by
  unfold heldNext
  split
  · exact .inl rfl
  · exact .inr h

/-- R36: REF's record that an update in LOST publishes from `r`, where LOST stays. -/
def lostNext (x : Axle) (p : Sample) (s : State) (r : Ref) : Ref :=
  { r with accel := 0, resync := r.resync.set x (resyncCount s x p) }

/-- R37: REF's record that an update over `dt` ms publishes from `r`, where LOST ends with `partner`. -/
def resyncNext (x : Axle) (p : Sample) (s : State) (partner : Axle × Sample) (dt : Nat) (r : Ref) : Ref :=
  moveReference s.adhesion s.travel.sign dt (resyncCandidate s x p partner).v (resyncCandidate s x p partner).a
    { r with active := .axleFused, resync := r.resync.set x (resyncCount s x p) }

section

variable {s : State} {x : Axle} {p : Sample} (k : Confirm)

theorem lostUpdate_of_none (h : resyncPartner s x p = none) : lostUpdate x p (confirmed k s) =
    update p.endTime (fun _ => lostNext x p s) (confirmed k s) := by
  rw [lostUpdate, resyncPartner_confirmed, h]
  rfl

theorem lostUpdate_of_some {partner : Axle × Sample} (h : resyncPartner s x p = some partner) :
    lostUpdate x p (confirmed k s) =
      update p.endTime (resyncNext x p s partner) (leaveLost (confirmed k s)) := by
  rw [lostUpdate, resyncPartner_confirmed, h]
  rfl

end

/-! The branches of an axle arrival (R25, R27, R31, R38) -/

section

variable {x : Axle} {p : Sample} {s : State}

theorem refArrival_of_dead (dead : ¬ (s.sfc.opState = .active ∨ s.sfc.opState = .failsafe)) :
    refArrival x p s = s := by
  rw [refArrival, if_pos]
  rwa [← refLive_iff, Bool.not_eq_true, ← Bool.not_eq_true'] at dead

variable (live : s.sfc.opState = .active ∨ s.sfc.opState = .failsafe)
include live

theorem refArrival_of_standstill (still : s.ref.active = .standstill) :
    refArrival x p s = standstillArrival x p s := by
  rw [refArrival, (refLive_iff s).mpr live, if_neg (by simp), if_pos still]

theorem refArrival_of_moving (moving : s.ref.active ≠ .standstill) : refArrival x p s = movingArrival x p s := by
  rw [refArrival, (refLive_iff s).mpr live, if_neg (by simp), if_neg moving]

variable {k : Confirm} (judged : judgeConfirm p.endTime s = confirmed k s)
include judged

theorem refArrival_of_stays (stays : ¬ (s.ref.active = .groundSensor ∧ s.ref.requested = .axleFused))
    (moving : s.ref.active ≠ .standstill) : refArrival x p s = match s.ref.active with
      | .axleFused => judgeStandstill (fusedUpdate p (confirmed k s))
      | .held => judgeStandstill (heldUpdate p (confirmed k s))
      | .lost => judgeStandstill (lostUpdate x p (confirmed k s))
      | _ => confirmed k s := by
  rw [refArrival_of_moving live moving, movingArrival, judged]
  have no : returnsToFused (confirmed k s) = false := by
    rw [← Bool.not_eq_true]
    simp only [returnsToFused, Bool.and_eq_true, decide_eq_true_iff]
    exact stays
  have active : (confirmed k s).ref.active = s.ref.active := rfl
  rw [no, active, if_neg Bool.false_ne_true]
  cases s.ref.active <;> rfl

theorem refArrival_of_axleFused (fused : s.ref.active = .axleFused) :
    refArrival x p s = judgeStandstill (fusedUpdate p (confirmed k s)) := by
  rw [refArrival_of_stays live judged (by simp [fused]) (by simp [fused]), fused]

theorem refArrival_of_held (held : s.ref.active = .held) :
    refArrival x p s = judgeStandstill (heldUpdate p (confirmed k s)) := by
  rw [refArrival_of_stays live judged (by simp [held]) (by simp [held]), held]

theorem refArrival_of_lost (lost : s.ref.active = .lost) :
    refArrival x p s = judgeStandstill (lostUpdate x p (confirmed k s)) := by
  rw [refArrival_of_stays live judged (by simp [lost]) (by simp [lost]), lost]

theorem refArrival_of_asked_ground (sensor : s.ref.active = .groundSensor) (asked : s.ref.requested = .groundSensor) :
    refArrival x p s = confirmed k s := by
  rw [refArrival_of_stays live judged (by simp [asked]) (by simp [sensor]), sensor]

theorem refArrival_of_return (sensor : s.ref.active = .groundSensor) (asked : s.ref.requested = .axleFused) :
    refArrival x p s = judgeStandstill (enterFused .groundSensor p (confirmed k s)) := by
  rw [refArrival_of_moving live (by simp [sensor]), movingArrival, judged,
    if_pos (by simp [returnsToFused, confirmed, sensor, asked])]

end

/-! The arrival outside STANDSTILL (R27, R31, R34, R36 to R38) -/

section

variable {p : Sample} {s : State} {k : Confirm} {dt : Nat}

/-- R27, R38: the record from which an update outside STANDSTILL starts. -/
def judgedRef (k : Confirm) (now : Time) (r : Ref) : Ref := { dated now r with confirm := k }

theorem update_arrived {b : State} {f : Nat → Ref → Ref} {next : Ref} (base : OnlyRef s b) (route : b.rlq = s.rlq)
    (start : b.ref = { s.ref with confirm := k })
    (hnext : next = f (updateInterval p.endTime s.ref) (judgedRef k p.endTime s.ref))
    (moving : next.active ≠ .standstill) :
    Arrived s b.sfc (updateInterval p.endTime s.ref) next (judgeStandstill (update p.endTime f b)) := by
  have moved := update_moves p.endTime f b
  rw [start] at moved
  subst hnext
  exact judgeStandstill_arrived base route moved moving

theorem update_axleStep {b : State} {f : Nat → Ref → Ref} {next : Ref} (base : OnlyRef s b)
    (route : b.rlq = s.rlq)
    (start : b.ref = { s.ref with confirm := k })
    (hnext : next = f (updateInterval p.endTime s.ref) (judgedRef k p.endTime s.ref))
    (moving : s.ref.active ≠ .standstill) (goes : next.active ≠ .standstill)
    (keeps : next.residual = s.ref.residual ∧ next.requested = s.ref.requested)
    (timer : s.ref.active ≠ .lost → next.active ≠ .lost ∧ b.sfc.refLostTimer = s.sfc.refLostTimer) :
    AxleStep s (updateInterval p.endTime s.ref) next (judgeStandstill (update p.endTime f b)) := by
  refine (update_arrived base route start hnext goes).axleStep moving keeps.2 keeps.1 timer fun changes _ => ?_
  have sent := update_reported p.endTime f b (next := next) (by rw [start]; exact hnext) (by rwa [start])
  rw [start, keeps.2, base.nowMs] at sent
  exact judgeStandstill_keeps (stable_reported _) sent

variable {x : Axle} (live : s.sfc.opState = .active ∨ s.sfc.opState = .failsafe)
  (judged : judgeConfirm p.endTime s = confirmed k s)
include live judged

theorem axleFused_step (fused : s.ref.active = .axleFused) : AxleStep s (updateInterval p.endTime s.ref)
    (fusedNext p.endTime s (updateInterval p.endTime s.ref) (judgedRef k p.endTime s.ref)) (refArrival x p s) := by
  have active := fusedNext_active (now := p.endTime) (s := s) (updateInterval p.endTime s.ref)
    (judgedRef k p.endTime s.ref)
  rw [show (judgedRef k p.endTime s.ref).active = .axleFused from fused] at active
  rw [refArrival_of_axleFused live judged fused]
  exact update_axleStep (b := confirmed k s) (f := fusedNext p.endTime s) rfl rfl rfl rfl (by simp [fused])
    (by rcases active with h | h <;> simp [h]) (fusedNext_keeps _ _)
    fun _ => ⟨by rcases active with h | h <;> simp [h], rfl⟩

theorem held_step (held : s.ref.active = .held) : AxleStep s (updateInterval p.endTime s.ref)
    (heldNext p.endTime s (updateInterval p.endTime s.ref) (judgedRef k p.endTime s.ref)) (refArrival x p s) := by
  have active := heldNext_active p.endTime s (updateInterval p.endTime s.ref)
    (r := judgedRef k p.endTime s.ref) held
  rw [refArrival_of_held live judged held]
  exact update_axleStep (b := confirmed k s) (f := heldNext p.endTime s) rfl rfl rfl rfl (by simp [held])
    (by rcases active with h | h <;> simp [h]) (heldNext_keeps ..)
    fun _ => ⟨by rcases active with h | h <;> simp [h], rfl⟩

/-- R31: a pending return to AXLE-FUSED. -/
theorem return_step (sensor : s.ref.active = .groundSensor) (asked : s.ref.requested = .axleFused) :
    AxleStep s (updateInterval p.endTime s.ref) (enteredNext p (confirmed k s)) (refArrival x p s)
    ∧ reported (.referenceMode .axleFused .groundSensor .axleFused (enteredNext p (confirmed k s)).speed s.nowMs)
      (refArrival x p s)
    ∧ (candidate s p.endTime = none → reported
      (.referenceMode .held .axleFused .axleFused (enteredNext p (confirmed k s)).speed s.nowMs)
      (refArrival x p s)) := by
  have active : (enteredNext p (confirmed k s)).active = .axleFused
    ∨ (enteredNext p (confirmed k s)).active = .held := fusedNext_active _ _
  have keeps : (enteredNext p (confirmed k s)).residual = s.ref.residual
    ∧ (enteredNext p (confirmed k s)).requested = s.ref.requested := fusedNext_keeps _ _
  have arrived := judgeStandstill_arrived (s := s) (b := confirmed k s) rfl rfl
    (enterFused_moves (p := p) (s := confirmed k s) .groundSensor) (by rcases active with h | h <;> simp [h])
  have fused := enterFused_reported (p := p) (s := confirmed k s) .groundSensor
  have held := enterFused_reported_held (p := p) (s := confirmed k s) .groundSensor
  rw [show (confirmed k s).ref.requested = .axleFused from asked] at fused held
  rw [refArrival_of_return live judged sensor asked]
  exact ⟨arrived.axleStep (by simp [sensor]) keeps.2 keeps.1
      (fun _ => ⟨by rcases active with h | h <;> simp [h], rfl⟩) (fun _ no => absurd sensor no),
    judgeStandstill_keeps (stable_reported _) fused,
    fun none => judgeStandstill_keeps (stable_reported _) (held none)⟩

/-- R36: LOST stays. -/
theorem lost_step (lost : s.ref.active = .lost) (none : resyncPartner s x p = none) {next : Ref}
    (hnext : next = lostNext x p s (judgedRef k p.endTime s.ref)) :
    AxleStep s (updateInterval p.endTime s.ref) next (refArrival x p s)
    ∧ (refArrival x p s).fault .referenceLost =
      (if atRest next then { s.fault .referenceLost with active := false } else s.fault .referenceLost)
    ∧ (refArrival x p s).sfc.refLostTimer = if atRest next then Option.none else s.sfc.refLostTimer := by
  have active : next.active = .lost := by rw [hnext]; exact lost
  rw [refArrival_of_lost live judged lost, lostUpdate_of_none k none]
  have arrived := update_arrived (p := p) (s := s) (b := confirmed k s) (k := k)
    (f := fun _ => lostNext x p s) rfl rfl rfl hnext (by simp [active])
  refine ⟨update_axleStep (b := confirmed k s) rfl rfl rfl hnext (by simp [lost]) (by simp [active])
    (by rw [hnext]; exact ⟨rfl, rfl⟩) (fun no => absurd lost no), ?_, ?_⟩
  · rw [arrived.fault _ (by simp)]
    exact if_congr (by simp [active]) rfl rfl
  · rw [arrived.refLostTimer]
    exact if_congr (by simp [active]) rfl rfl

/-- R37: LOST ends. -/
theorem resync_step (lost : s.ref.active = .lost) {partner : Axle × Sample}
    (found : resyncPartner s x p = some partner) {next : Ref}
    (hnext : next = resyncNext x p s partner (updateInterval p.endTime s.ref) (judgedRef k p.endTime s.ref)) :
    AxleStep s (updateInterval p.endTime s.ref) next (refArrival x p s)
    ∧ (refArrival x p s).fault .referenceLost = { s.fault .referenceLost with active := false }
    ∧ (refArrival x p s).sfc.refLostTimer = none := by
  have active : next.active = .axleFused := by rw [hnext]; rfl
  rw [refArrival_of_lost live judged lost, lostUpdate_of_some k found]
  have arrived := update_arrived (p := p) (s := s) (b := leaveLost (confirmed k s)) (k := k)
    (f := resyncNext x p s partner) rfl rfl rfl hnext (by simp [active])
  refine ⟨update_axleStep (b := leaveLost (confirmed k s)) rfl rfl rfl hnext (by simp [lost]) (by simp [active])
    (by rw [hnext]; exact ⟨rfl, rfl⟩) (fun no => absurd lost no), ?_, ?_⟩
  · rw [arrived.fault _ (by simp), if_neg (by simp [active])]
    exact (leaveLost_fault (confirmed k s) .referenceLost).trans (if_pos rfl)
  · rw [arrived.refLostTimer, if_neg (by simp [active])]
    rfl

end

/-! The arrival in STANDSTILL (R39, R40) -/

/-- R40: the latest ground sample is valid. -/
def groundSound (s : State) : Prop :=
  ∃ q, s.wsc.ground.latest = some q ∧ q.flags.invalid = false ∧ q.flags.implausible = false

theorem groundAvailable_iff (s : State) : groundAvailable s = true ↔
    s.ref.requested = .groundSensor ∧ s.ref.engage = 5 ∧ groundSound s := by
  unfold groundAvailable groundSound groundValid
  cases s.wsc.ground.latest with
  | none => simp
  | some q => simp [and_assoc]

section

variable {p : Sample} {s : State} {x : Axle} (live : s.sfc.opState = .active ∨ s.sfc.opState = .failsafe)
  (still : s.ref.active = .standstill)
include live still

/-- R39: STANDSTILL stays; with no distance made, nothing is sent. -/
theorem standstill_step (stays : endsStandstill s x p = false) {next : Ref}
    (hnext : next = { dated p.endTime s.ref with speed := 0, accel := 0 }) :
    AxleStep s (updateInterval p.endTime s.ref) next (refArrival x p s)
    ∧ (s.ref.residual.natAbs < 1000 → (refArrival x p s).lnk = s.lnk) := by
  have arrival : refArrival x p s = update p.endTime (fun _ r => { r with speed := 0, accel := 0 }) s := by
    rw [refArrival_of_standstill live still, standstillArrival, stays, if_neg Bool.false_ne_true]
  have moved := update_moves p.endTime (fun _ r => { r with speed := 0, accel := 0 }) s
  rw [← hnext] at moved
  rw [arrival]
  refine ⟨moved.axleStep still (by rw [hnext]; rfl), fun small => ?_⟩
  have same : next.active = s.ref.active := by rw [hnext]; rfl
  have total : next.residual + next.speed * updateInterval p.endTime s.ref = s.ref.residual := by
    rw [hnext]; simp [dated]
  have whole : s.ref.residual.tdiv 1000 = 0 :=
    Int.natAbs_eq_zero.mp ((Int.natAbs_tdiv ..).trans (Nat.div_eq_of_lt small))
  rw [update_eq p.endTime _ s next hnext, if_pos same, odometry]
  dsimp only
  rw [total, whole, zero_mul, distance, if_pos rfl]

/-- R40: STANDSTILL ends in GROUND-SENSOR. -/
theorem standstill_ground_step (ends : endsStandstill s x p = true) (prior : s.ref.prior = .groundSensor)
    (available : groundAvailable s = true) {next : Ref}
    (hnext : next = { dated p.endTime s.ref with active := .groundSensor }) :
    AxleStep s (updateInterval p.endTime s.ref) next (refArrival x p s)
    ∧ reported (.referenceMode .groundSensor .standstill s.ref.requested next.speed s.nowMs)
      (refArrival x p s) := by
  have arrival : refArrival x p s = update p.endTime (fun _ r => { r with active := .groundSensor }) s := by
    rw [refArrival_of_standstill live still, standstillArrival, if_pos ends, if_pos ⟨prior, available⟩]
  have moved := update_moves p.endTime (fun _ r => { r with active := .groundSensor }) s
  have sent := update_reported p.endTime (fun _ r => { r with active := .groundSensor }) s hnext
    (by simp [hnext, still])
  rw [← hnext] at moved
  rw [still, show next.active = .groundSensor by rw [hnext], show next.requested = s.ref.requested by rw [hnext]; rfl]
    at sent
  rw [arrival]
  exact ⟨moved.axleStep still (by rw [hnext]; rfl), sent⟩

/-- R40: STANDSTILL ends in AXLE-FUSED, and where there is no candidate in HELD. -/
theorem standstill_fused_step (ends : endsStandstill s x p = true)
    (no : ¬ (s.ref.prior = .groundSensor ∧ groundAvailable s = true)) :
    AxleStep s (updateInterval p.endTime s.ref) (enteredNext p s) (refArrival x p s)
    ∧ reported (.referenceMode .axleFused .standstill s.ref.requested (enteredNext p s).speed s.nowMs)
      (refArrival x p s)
    ∧ (candidate s p.endTime = none → reported
      (.referenceMode .held .axleFused s.ref.requested (enteredNext p s).speed s.nowMs) (refArrival x p s)) := by
  rw [refArrival_of_standstill live still, standstillArrival, if_pos ends, if_neg no]
  exact ⟨(enterFused_moves _).axleStep still (fusedNext_keeps _ _).1, enterFused_reported _,
    enterFused_reported_held _⟩

end

end Sys2Proof.Machine
end

section
/-! SUPPORT. The settlement of the axle arrivals: the update in each mode, and the obligation from it. -/

namespace Sys2Proof.Machine

/-- R36, R37: what an axle arrival in LOST leaves, where its update publishes `next`. -/
structure LostStep (x : Axle) (p : Sample) (s : State) (k : Confirm) (next : Ref) (t : State) : Prop where
  stays : resyncPartner s x p = none → next = lostNext x p s (judgedRef k p.endTime s.ref)
    ∧ t.fault .referenceLost =
      (if atRest next then { s.fault .referenceLost with active := false } else s.fault .referenceLost)
    ∧ t.sfc.refLostTimer = if atRest next then none else s.sfc.refLostTimer
  ends : ∀ partner, resyncPartner s x p = some partner →
    next = resyncNext x p s partner (updateInterval p.endTime s.ref) (judgedRef k p.endTime s.ref)
    ∧ t.fault .referenceLost = { s.fault .referenceLost with active := false } ∧ t.sfc.refLostTimer = none

/-- R31, R40: what an arrival leaves at which `left` is left for AXLE-FUSED, where its update publishes `next`. -/
structure EntryReported (left : RefMode) (p : Sample) (s : State) (next : Ref) (t : State) : Prop where
  entry : reported (.referenceMode .axleFused left s.ref.requested next.speed s.nowMs) t
  held : candidate s p.endTime = none →
    reported (.referenceMode .held .axleFused s.ref.requested next.speed s.nowMs) t

/-- R39, R40: what an axle arrival in STANDSTILL leaves, where its update publishes `next`. -/
structure StandstillStep (x : Axle) (p : Sample) (s : State) (next : Ref) (t : State) : Prop where
  stays : endsStandstill s x p = false → next = { dated p.endTime s.ref with speed := 0, accel := 0 }
    ∧ (s.ref.residual.natAbs < 1000 → t.lnk = s.lnk)
  ground : endsStandstill s x p = true → s.ref.prior = .groundSensor ∧ groundAvailable s = true →
    next = { dated p.endTime s.ref with active := .groundSensor }
    ∧ reported (.referenceMode .groundSensor .standstill s.ref.requested next.speed s.nowMs) t
  fused : endsStandstill s x p = true → ¬ (s.ref.prior = .groundSensor ∧ groundAvailable s = true) →
    next = enteredNext p s ∧ EntryReported .standstill p s next t

section

variable {x : Axle} {p : Sample} {s : State} (live : s.sfc.opState = .active ∨ s.sfc.opState = .failsafe)
include live

theorem lost_arrival {k : Confirm} (judged : judgeConfirm p.endTime s = confirmed k s)
    (lost : s.ref.active = .lost) : ∃ next, AxleStep s (updateInterval p.endTime s.ref) next (refArrival x p s)
      ∧ LostStep x p s k next (refArrival x p s) := by
  cases partner : resyncPartner s x p with
  | none =>
    obtain ⟨step, fault, timer⟩ := lost_step live judged lost partner rfl
    exact ⟨_, step, fun _ => ⟨rfl, fault, timer⟩, fun _ c => nomatch partner.symm.trans c⟩
  | some y =>
    obtain ⟨step, fault, timer⟩ := resync_step live judged lost partner rfl
    refine ⟨_, step, fun c => absurd (partner.symm.trans c) nofun, fun z c => ?_⟩
    obtain rfl : y = z := Option.some.inj (partner.symm.trans c)
    exact ⟨rfl, fault, timer⟩

theorem standstill_arrival (still : s.ref.active = .standstill) :
    ∃ next, AxleStep s (updateInterval p.endTime s.ref) next (refArrival x p s)
      ∧ StandstillStep x p s next (refArrival x p s) := by
  by_cases ends : endsStandstill s x p = true
  · by_cases ground : s.ref.prior = .groundSensor ∧ groundAvailable s = true
    · obtain ⟨step, sent⟩ := standstill_ground_step live still ends ground.1 ground.2 rfl
      exact ⟨_, step, fun c => absurd ends (by simp [c]), fun _ _ => ⟨rfl, sent⟩,
        fun _ no => absurd ground no⟩
    · obtain ⟨step, sent, held⟩ := standstill_fused_step live still ends ground
      exact ⟨_, step, fun c => absurd ends (by simp [c]), fun _ c => absurd c ground,
        fun _ _ => ⟨rfl, sent, held⟩⟩
  · obtain ⟨step, silent⟩ := standstill_step live still (Bool.not_eq_true _ ▸ ends) rfl
    exact ⟨_, step, fun _ => ⟨rfl, silent⟩, fun c => absurd c ends, fun c => absurd c ends⟩

/-- R27: an axle arrival that updates the reference, by the mode in which it arrives. -/
theorem refArrival_updates {k : Confirm} (judged : judgeConfirm p.endTime s = confirmed k s)
    (updates : ¬ (s.ref.active = .groundSensor ∧ s.ref.requested = .groundSensor)) :
    ∃ next, AxleStep s (updateInterval p.endTime s.ref) next (refArrival x p s)
    ∧ (s.ref.active = .axleFused →
      next = fusedNext p.endTime s (updateInterval p.endTime s.ref) (judgedRef k p.endTime s.ref))
    ∧ (s.ref.active = .held →
      next = heldNext p.endTime s (updateInterval p.endTime s.ref) (judgedRef k p.endTime s.ref))
    ∧ (s.ref.active = .groundSensor → s.ref.requested = .axleFused ∧ next = enteredNext p (confirmed k s)
      ∧ EntryReported .groundSensor p s next (refArrival x p s))
    ∧ (s.ref.active = .lost → LostStep x p s k next (refArrival x p s))
    ∧ (s.ref.active = .standstill → StandstillStep x p s next (refArrival x p s)) := by
  cases mode : s.ref.active with
  | axleFused => exact ⟨_, axleFused_step live judged mode, fun _ => rfl, nofun, nofun, nofun, nofun⟩
  | held => exact ⟨_, held_step live judged mode, nofun, fun _ => rfl, nofun, nofun, nofun⟩
  | groundSensor =>
    have asked : s.ref.requested = .axleFused := by
      cases asked : s.ref.requested with
      | axleFused => rfl
      | groundSensor => exact absurd ⟨mode, asked⟩ updates
    obtain ⟨step, sent, held⟩ := return_step live judged mode asked
    exact ⟨_, step, nofun, nofun, fun _ => ⟨asked, rfl, asked ▸ sent, asked ▸ held⟩, nofun, nofun⟩
  | lost =>
    obtain ⟨next, step, lost⟩ := lost_arrival (x := x) live judged mode
    exact ⟨next, step, nofun, nofun, nofun, fun _ => lost, nofun⟩
  | standstill =>
    obtain ⟨next, step, still⟩ := standstill_arrival (x := x) (p := p) live mode
    exact ⟨next, step, nofun, nofun, nofun, nofun, fun _ => still⟩

end

theorem endsStandstill_iff {s : State} {x : Axle} {p : Sample} (latest : (s.wsc.axle.get x).latest = some p) :
    endsStandstill s x p = true ↔
      qualifies s p.endTime x p ∧ 100 ≤ p.v.natAbs ∧ p.flags.standstill = false := by
  rw [endsStandstill, Bool.and_eq_true, Bool.and_eq_true, qualifying_isSome_iff latest, decide_eq_true_iff,
    Bool.not_eq_true', and_assoc]

/-- R37, steps 1 and 2: the count by its two cases. -/
theorem eq_resyncCount {s : State} {x : Axle} {p : Sample} (latest : (s.wsc.axle.get x).latest = some p) {n : Nat}
    (agrees : agreesWithOther s x p → n = min 3 (s.ref.resync.get x + 1))
    (disagrees : ¬ agreesWithOther s x p → n = 0) : n = resyncCount s x p := by
  by_cases h : agreesWithOther s x p
  · exact (agrees h).trans (resyncCount_of_agrees latest h).symm
  · exact (disagrees h).trans (resyncCount_of_not_agrees latest h).symm

/-- Settles O35: the step and the extrapolation by their definitions, the candidate by `candidate_eq_some`, and the
arrival by `refArrival_updates`, whose records are those of the statement. -/
theorem referenceAxleArrival : Obligations.ReferenceAxleArrival := by
  unfold Obligations.ReferenceAxleArrival
  refine ⟨fun cfg dir v a dt up down r hup hdown => ?_, fun dir rp moved dt r hrp hmoved => ⟨fun crosses => ?_,
    fun stays => ?_⟩, fun s now group hgroup => ?_, ?_⟩
  · rw [hup, hdown]
    exact moveReference_eq ..
  · rw [extrapolate_eq dir dt r hrp hmoved, if_pos crosses]
    simp
  · rw [extrapolate_eq dir dt r hrp hmoved, if_neg stays]
  · have same : ∀ y, group y ↔ candidateGroup s now y = true := fun y =>
      (hgroup y).trans (candidateGroup_iff s now y).symm
    simp only [same]
    exact ⟨candidate_eq_none_iff s now, fun c => candidate_eq_some⟩
  · rintro x p s _ dir dt k r rfl latest hdir hdt hr stands moves
    have hdt : dt = updateInterval p.endTime s.ref := hdt.trans (updateInterval_eq _ _).symm
    rw [hdt] at hr
    have hr : r = dated p.endTime s.ref := hr.trans (dated_eq _ _).symm
    have hdir : dir = s.travel.sign := hdir.trans (sign_eq _).symm
    have judged : judgeConfirm p.endTime s = confirmed k s := judgeConfirm_eq stands moves
    subst hdt hr hdir
    by_cases live : s.sfc.opState = .active ∨ s.sfc.opState = .failsafe
    swap
    · rw [refArrival_of_dead live]
      exact ⟨rfl, rfl, rfl, rfl, fun _ => rfl, fun c => absurd c live⟩
    by_cases sensed : s.ref.active = .groundSensor ∧ s.ref.requested = .groundSensor
    · rw [refArrival_of_asked_ground live judged sensed.1 sensed.2]
      exact ⟨rfl, rfl, rfl, rfl, fun dead => absurd live (not_or.mpr dead),
        fun _ => ⟨fun _ _ => rfl, fun no => absurd sensed no⟩⟩
    obtain ⟨next, step, fused, held, ground, lost, still⟩ := refArrival_updates (x := x) live judged sensed
    refine ⟨step.wsc, step.cfg, step.opState, step.adh, fun dead => absurd live (not_or.mpr dead),
      fun _ => ⟨fun mode asked => absurd ⟨mode, asked⟩ sensed, fun _ => ⟨next, step.ref, step.changes,
        fun rests hrests => ⟨fun rest => ?_, fun no => ?_⟩, step.refLostTimer, fun m hm => ?_,
        fun mode => ?_, fun mode => ?_, fun mode u hu => ?_, fun mode n ends agree disagree hends => ?_,
        fun mode => ?_⟩⟩⟩
    · obtain ⟨moving, rest⟩ := hrests.mp rest
      exact step.rests moving rest
    · exact step.moves fun c => no (hrests.mpr c)
    · rw [← routeMoved_eq, step.route, hm, increment, step.residual]
    · rw [fused mode]
      exact ⟨fun c found => fusedNext_of_some found ..,
        fun none => fusedNext_of_none none _ (judgedRef k p.endTime s.ref)⟩
    · rw [held mode]
      exact ⟨fun c found => heldNext_of_some found .., fun none => heldNext_of_none none ..⟩
    · obtain ⟨asked, hnext, sent⟩ := ground mode
      have entry := sent.entry
      have later := sent.held
      rw [asked] at entry later
      rw [hu]
      exact ⟨fun c found => ⟨hnext.trans (fusedNext_of_some found ..), entry⟩,
        fun none => ⟨hnext.trans (fusedNext_of_none none ..), entry, later none⟩⟩
    · have hn : n = resyncCount s x p := eq_resyncCount latest agree disagree
      rw [hn] at hends
      have same : ∀ y q, ends y q ↔ endsLost s x p y q := hends
      simp only [same, hn]
      refine ⟨fun unpaired => ?_, fun y q pairs lowest => ?_⟩
      · obtain ⟨hnext, fault, timer⟩ := (lost mode).stays ((resyncPartner_eq_none_iff ..).mpr unpaired)
        exact ⟨fault, timer, hnext⟩
      · obtain ⟨hnext, fault, timer⟩ := (lost mode).ends _ (resyncPartner_of_lowest pairs lowest)
        obtain ⟨either, drive, other⟩ := resyncCandidate_spec (s := s) (p := p) (q := q) pairs.2.1
        exact ⟨timer, fault, _, either, drive, other, hnext⟩
    · obtain ⟨stays, available, fused⟩ := still mode
      refine ⟨fun no => stays (by rwa [← endsStandstill_iff latest, Bool.not_eq_true] at no),
        fun valid fast turns ground hground => ?_⟩
      have ends := (endsStandstill_iff latest).mpr ⟨valid, fast, turns⟩
      have same : ground ↔ s.ref.prior = .groundSensor ∧ groundAvailable s = true := by
        rw [hground, groundAvailable_iff, groundSound]
      rw [same]
      refine ⟨available ends, fun no => ?_⟩
      obtain ⟨hnext, sent⟩ := fused ends no
      exact ⟨sent.entry, fun c found => hnext.trans (fusedNext_of_some found ..),
        fun none => ⟨hnext.trans (fusedNext_of_none none ..), sent.held none⟩⟩

end Sys2Proof.Machine
end

section
/-! SUPPORT. Slip and acceleration excess, and the adhesion state after a judged sample (R47, R48, R50 to R52). -/

namespace Sys2Proof.Machine

/-! Slip and acceleration excess (R47, R48) -/

theorem natAbs_mul_sign (v : Int) (d : Direction) : (v * d.sign).natAbs = v.natAbs := by
  cases d <;> simp [Direction.sign]

section

variable {s : State}

theorem slipOf_of_drive (drives : s.mode = .drive) (v : Int) : slipOf s v = Int.tdiv
    ((v * s.travel.sign - s.ref.speed * s.travel.sign) * 1000) (max |s.ref.speed * s.travel.sign| 1000) := by
  rw [slipOf, if_pos drives, State.driveSlip, truncate, Int.abs_eq_natAbs]

theorem slipOf_of_not_drive (brakes : s.mode ≠ .drive) (v : Int) : slipOf s v = Int.tdiv
    ((s.ref.speed * s.travel.sign - v * s.travel.sign) * 1000) (max |s.ref.speed * s.travel.sign| 1000) := by
  rw [slipOf, if_neg brakes, State.brakeSlip, truncate, Int.abs_eq_natAbs]

theorem accelExcess_iff_of_drive (drives : s.mode = .drive) (a : Int) : accelExcess s a = true ↔
    (s.adhesion.accelExcess : Int) ≤ a * s.travel.sign - s.ref.accel * s.travel.sign := by
  rw [accelExcess, if_pos drives, decide_eq_true_iff]

theorem accelExcess_iff_of_not_drive (brakes : s.mode ≠ .drive) (a : Int) : accelExcess s a = true ↔
    (s.adhesion.accelExcess : Int) ≤ s.ref.accel * s.travel.sign - a * s.travel.sign := by
  rw [accelExcess, if_neg brakes, decide_eq_true_iff]

theorem mode_ne_drive_of_braking (brakes : s.mode = .brake ∨ s.mode = .emergency) : s.mode ≠ .drive := by
  rcases brakes with h | h <;> simp [h]

end

/-- R47: a difference of at most 60 000 mm/s over a divisor of at least 1000 mm/s. -/
theorem tdiv_bounded {n d : Int} (small : n.natAbs ≤ 60000) (floor : 1000 ≤ d) :
    -60000 ≤ Int.tdiv (n * 1000) d ∧ Int.tdiv (n * 1000) d ≤ 60000 := by
  have quotient : (Int.tdiv (n * 1000) d).natAbs ≤ 60000 := by
    rw [Int.natAbs_tdiv, Int.natAbs_mul]
    refine Nat.div_le_of_le_mul ?_
    calc n.natAbs * 1000 ≤ 60000 * 1000 := Nat.mul_le_mul_right _ small
      _ = 1000 * 60000 := rfl
      _ ≤ d.natAbs * 60000 := Nat.mul_le_mul_right _ (by omega)
  omega

theorem slipOf_bounded {s : State} {v : Int} (wheel : |v| ≤ 30000) (reference : |s.ref.speed| ≤ 30000) :
    -60000 ≤ slipOf s v ∧ slipOf s v ≤ 60000 := by
  rw [Int.abs_eq_natAbs] at wheel reference
  have hv := natAbs_mul_sign v s.travel
  have hr := natAbs_mul_sign s.ref.speed s.travel
  by_cases drives : s.mode = .drive
  · rw [slipOf_of_drive drives]
    exact tdiv_bounded (by omega) (le_max_right _ _)
  · rw [slipOf_of_not_drive drives]
    exact tdiv_bounded (by omega) (le_max_right _ _)

/-- Settles O43: the quotient by the mode, then its range. -/
theorem slipRatio : Obligations.SlipRatio := by
  unfold Obligations.SlipRatio
  rintro s v _ _ dir hdir rfl rfl
  obtain rfl : dir = s.travel.sign := hdir.trans (sign_eq _).symm
  exact ⟨fun drives => slipOf_of_drive drives v,
    fun brakes => slipOf_of_not_drive (mode_ne_drive_of_braking brakes) v, slipOf_bounded⟩

/-! The state after a judged sample (R50 to R52) -/

theorem anyAxleIn_iff (s : State) (x : Bogie) (states : List AdhState) : anyAxleIn s x states = true ↔
    s.adhState x.axles.1 ∈ states ∨ s.adhState x.axles.2 ∈ states := by
  rw [anyAxleIn, Bool.or_eq_true, List.contains_iff_mem, List.contains_iff_mem]

theorem restored_eq (s : State) (x : Bogie) : (decide (s.limit x = 1000) && !anyAxleIn s x [.slip])
    = (decide ((s.adh.bogie.get x).limit = 1000) && decide (s.adhState x.axles.1 ≠ .slip)
      && decide (s.adhState x.axles.2 ≠ .slip)) := by
  have free : anyAxleIn s x [.slip] = false ↔ s.adhState x.axles.1 ≠ .slip ∧ s.adhState x.axles.2 ≠ .slip := by
    rw [← Bool.not_eq_true, anyAxleIn_iff, List.mem_singleton, List.mem_singleton, not_or]
  rw [State.limit, Bool.eq_iff_iff]
  simp only [Bool.and_eq_true, Bool.not_eq_true', decide_eq_true_eq, free, and_assoc]

section

variable {creep n : Nat} {σ : Int} {severe restored : Bool}

theorem judgedAxle_grip : judgedAxle creep σ severe restored ⟨.grip, n⟩ =
    if severe then ⟨.slip, 0⟩ else if (creep : Int) ≤ σ then ⟨.creep, n⟩ else ⟨.grip, n⟩ := rfl

theorem judgedAxle_creep : judgedAxle creep σ severe restored ⟨.creep, n⟩ =
    if severe then ⟨.slip, 0⟩ else if σ < (creep : Int) - 10 then ⟨.grip, n⟩ else ⟨.creep, n⟩ := rfl

theorem judgedAxle_slip : judgedAxle creep σ severe restored ⟨.slip, n⟩ =
    if σ < creep then (if 2 ≤ n + 1 then ⟨.recover, 0⟩ else ⟨.slip, n + 1⟩) else ⟨.slip, 0⟩ := rfl

theorem judgedAxle_recover : judgedAxle creep σ severe restored ⟨.recover, n⟩ =
    if severe then ⟨.slip, 0⟩ else if restored then ⟨.grip, 0⟩ else ⟨.recover, n⟩ := rfl

/-- R50, R52: an entry to SLIP. -/
theorem judgedAxle_of_severe {st : AdhState} (judged : st = .grip ∨ st = .creep ∨ st = .recover)
    (h : severe = true) : judgedAxle creep σ severe restored ⟨st, n⟩ = ⟨.slip, 0⟩ := by
  rcases judged with rfl | rfl | rfl
  · rw [judgedAxle_grip, if_pos h]
  · rw [judgedAxle_creep, if_pos h]
  · rw [judgedAxle_recover, if_pos h]

theorem judgedAxle_of_unwatched {st : AdhState} (out : st = .isolated ∨ st = .fault) :
    judgedAxle creep σ severe restored ⟨st, n⟩ = ⟨st, n⟩ := by
  rcases out with rfl | rfl <;> rfl

end

/-- Settles O44: one branch of `judgedAxle` for each clause. -/
theorem adhesionTransitions : Obligations.AdhesionTransitions := by
  unfold Obligations.AdhesionTransitions
  refine ⟨fun x p s => ?_, fun a dir s hdir => ?_, fun creep σ severe restored n =>
    ⟨fun st => judgedAxle_of_severe, fun mild high => ?_, fun mild low => ?_, fun mild low => ?_,
      fun mild high => ?_, fun high => ?_, fun low first => ?_, fun low second => ?_, fun mild full => ?_,
      fun mild short => ?_, fun st => judgedAxle_of_unwatched⟩⟩
  · rw [judgeAxle, restored_eq]
  · obtain rfl : dir = s.travel.sign := hdir.trans (sign_eq _).symm
    exact ⟨fun drives => accelExcess_iff_of_drive drives a,
      fun brakes => accelExcess_iff_of_not_drive (mode_ne_drive_of_braking brakes) a⟩
  · rw [judgedAxle_grip, if_neg (by simp [mild]), if_pos high]
  · rw [judgedAxle_grip, if_neg (by simp [mild]), if_neg (by omega)]
  · rw [judgedAxle_creep, if_neg (by simp [mild]), if_pos low]
  · rw [judgedAxle_creep, if_neg (by simp [mild]), if_neg (by omega)]
  · rw [judgedAxle_slip, if_neg (by omega)]
  · rw [judgedAxle_slip, if_pos low, if_neg (by omega), first]
  · rw [judgedAxle_slip, if_pos low, if_pos (by omega)]
  · rw [judgedAxle_recover, if_neg (by simp [mild]), if_pos full]
  · rw [judgedAxle_recover, if_neg (by simp [mild]), if_neg (by simp [short])]

end Sys2Proof.Machine
end

section
/-! SUPPORT. The limit action of an arrival, the hold of an unsupervised bogie and the low-adhesion timer (R56,
R58 to R61, R64 to R68). -/

namespace Sys2Proof.Machine

/-! The low-adhesion timer (R64) -/

section

variable {x : Bogie} {s : State}

theorem exec_lowAdhesionTimerExpiry (due : s.expired (s.adh.bogie.get x).lowTimer = true) :
    exec (.lowAdhesionTimerExpiry x) s = .next (lowExpiry x s) := by
  have runs : whenDue (.lowAdhesionTimerExpiry x) (lowExpiry x) s = lowExpiry x s := if_pos due
  exact congrArg Host.Outcome.next runs

theorem lowExpiry_of_clear (clear : (s.adh.bogie.get x).low = false) :
    lowExpiry x s = s.setBogie x { s.adh.bogie.get x with lowTimer := none } := by
  simp [lowExpiry, clear]

theorem lowExpiry_of_low (low : (s.adh.bogie.get x).low = true) : lowExpiry x s =
    sendReport (.axleState (.bogie x) .lowCleared .grip .grip 0 (s.adh.bogie.get x).limit false s.nowMs)
      (s.setBogie x { s.adh.bogie.get x with low := false, lowTimer := none }) := by
  simp [lowExpiry, low, lowReport, State.nowMs]

end

/-! The ramp and the hold (R60, R65 to R68) -/

section

variable (s : State) (x : Bogie)

theorem rampCeiling_eq : rampCeiling s x = if isUnsupervised s x ∧ x ≠ .t then s.adhesion.unsup else 1000 := by
  have motor : x.motor?.isSome = true ↔ x ≠ .t := by cases x <;> decide
  rw [rampCeiling, if_congr (and_congr (unsupervised_iff s x) motor) rfl rfl]

theorem rampRuns_iff : rampRuns s x = true ↔
    s.adhState x.axles.1 ≠ .slip ∧ s.adhState x.axles.1 ≠ .creep
    ∧ s.adhState x.axles.2 ≠ .slip ∧ s.adhState x.axles.2 ≠ .creep
    ∧ ¬ (s.ref.active = .lost ∧ x ≠ .t) ∧ ¬ (isUnsupervised s x ∧ x = .t)
    ∧ (s.adh.bogie.get x).limit < rampCeiling s x := by
  have trailer : x.motor?.isNone = true ↔ x = .t := by cases x <;> decide
  have held : (unsupervised s x && x.motor?.isNone) = true ↔ isUnsupervised s x ∧ x = .t := by
    rw [Bool.and_eq_true, unsupervised_iff, trailer]
  rw [rampRuns, Bool.and_eq_true, Bool.and_eq_true, Bool.and_eq_true, Bool.not_eq_true', Bool.not_eq_true',
    Bool.not_eq_true', decide_eq_true_iff, ← Bool.not_eq_true, ← Bool.not_eq_true, ← Bool.not_eq_true,
    anyAxleIn_iff, lostHold_iff, held]
  simp only [List.mem_cons, List.not_mem_nil, or_false, not_or, and_assoc, State.limit]

variable {s x}

theorem holdUnsupervised_of_holds (h : holds s x) :
    holdUnsupervised x s = s.setBogie x { s.adh.bogie.get x with
      limit := if x = .t then s.adhesion.unsup else min (s.adh.bogie.get x).limit s.adhesion.unsup } := by
  obtain ⟨n, held, limit, -⟩ := holdUnsupervised_eq x s
  rw [held, limit h]

theorem holdUnsupervised_of_not_holds (h : ¬ holds s x) : holdUnsupervised x s = s := by
  obtain ⟨n, kept, -, limit⟩ := holdUnsupervised_eq x s
  rw [kept, limit h, State.setBogie, PerBogie.set_get_self]

end

/-! The limit action (R58 to R61) -/

/-- R60: the whole milliseconds since the mark; 0 without one. -/
def rampInterval (now : Time) : Option Time → Nat
  | none => 0
  | some m => (now - m).toNat / 1000

/-- R60: the mark after a step of the ramp, a whole number of milliseconds on. -/
def rampMark (now : Time) : Option Time → Time
  | none => now
  | some m => m + BitVec.ofNat 32 (rampInterval now (some m) * 1000)

section

variable {x : Axle} {now : Time} {before : AdhState} {judged : Bool} {s : State} {r : BogieAdh}
  (hr : s.adh.bogie.get x.bogie = r)
include hr

theorem limitAction_of_entry (slips : s.adhState x = .slip) (enters : before ≠ .slip) :
    limitAction x now before true s = { r with
      limit := max s.adhesion.floor (r.limit * s.adhesion.cut / 1000), residual := 0, mark := some now } := by
  rw [limitAction, if_pos ⟨rfl, slips⟩, if_neg enters, hr]
  rfl

theorem limitAction_of_slip (slips : s.adhState x = .slip) :
    limitAction x now .slip true s = { r with
      limit := max s.adhesion.floor (r.limit - s.adhesion.stepCut), residual := 0, mark := some now } := by
  rw [limitAction, if_pos ⟨rfl, slips⟩, if_pos rfl, hr]
  rfl

variable (other : judged = false ∨ s.adhState x ≠ .slip)
include other

theorem limitAction_of_other : limitAction x now before judged s =
    if rampRuns s x.bogie then rampStep s x.bogie now r else rampIdle s x.bogie now r := by
  rw [limitAction, if_neg (by rcases other with h | h <;> simp [h]), hr]

theorem limitAction_of_idle (idle : rampRuns s x.bogie = false) : limitAction x now before judged s = { r with
    mark := some now, residual := if rampCeiling s x.bogie ≤ r.limit then 0 else r.residual } := by
  rw [limitAction_of_other hr other, if_neg (by simp [idle])]
  rfl

end

theorem rampStep_eq (s : State) (x : Bogie) (now : Time) (r : BogieAdh) : rampStep s x now r =
    if rampCeiling s x ≤ r.limit + (rampRate s x * rampInterval now r.mark + r.residual) / 1000 then { r with
      limit := rampCeiling s x, residual := 0, mark := some (rampMark now r.mark) }
    else { r with
      limit := r.limit + (rampRate s x * rampInterval now r.mark + r.residual) / 1000
      residual := (rampRate s x * rampInterval now r.mark + r.residual) % 1000
      mark := some (rampMark now r.mark) } := by
  unfold rampStep
  cases r.mark <;> rfl

theorem rampStep_mark (s : State) (x : Bogie) (now : Time) (r : BogieAdh) :
    (rampStep s x now r).mark = some (rampMark now r.mark) := by
  rw [rampStep_eq]
  split <;> rfl

/-- Settles O45: the timer's two expiries, the ramp's conditions with the hold, and one lemma for each branch of
the limit action. -/
theorem limitActions : Obligations.LimitActions := by
  unfold Obligations.LimitActions
  refine ⟨fun x s due => ⟨fun clear => ?_, fun low => ?_⟩,
    fun x s => ⟨fun unsup motor => ?_, fun keeps => ?_, rampRuns_iff s x, fun active unsup free => ?_,
      fun keeps => ?_⟩,
    fun x now before s r hr => ⟨limitAction_of_entry hr, limitAction_of_slip hr,
      fun judged other after hafter => ⟨fun runs rate ms hrate hms => ?_, fun idle => ?_⟩⟩⟩
  · rw [exec_lowAdhesionTimerExpiry due, lowExpiry_of_clear clear]
    rfl
  · refine ⟨_, exec_lowAdhesionTimerExpiry due, ?_, ?_⟩ <;> rw [lowExpiry_of_low low]
    · exact sendReport_reported_self _ _
    · exact sendReport_eq _ _
  · rw [rampCeiling_eq, if_pos ⟨unsup, motor⟩]
  · rw [rampCeiling_eq, if_neg fun both => keeps.elim (fun h => h both.1) fun h => both.2 h]
  · exact holdUnsupervised_of_holds ⟨active, unsup, free⟩
  · refine holdUnsupervised_of_not_holds ?_
    rintro ⟨active, unsup, free⟩
    exact keeps.elim (fun h => h active) fun h => h.elim (fun h => h unsup) free
  · have hrate : rate = rampRate s x.bogie := by rw [hrate, rampRate, hr]; rfl
    have hms : ms = rampInterval now r.mark := by rw [hms]; cases r.mark <;> rfl
    have step : after = rampStep s x.bogie now r := by
      rw [← hafter, limitAction_of_other hr other, if_pos runs]
    rw [hrate, hms, step]
    refine ⟨fun below => ?_, fun full => ?_, ?_⟩
    · rw [rampStep_eq, if_neg (Nat.not_le.mpr below)]
      exact ⟨rfl, rfl⟩
    · rw [rampStep_eq, if_pos full]
      exact ⟨rfl, rfl⟩
    · rw [rampStep_mark]
      cases r.mark <;> rfl
  · rw [← hafter, limitAction_of_idle hr other idle]

end Sys2Proof.Machine
end

section
/-! SUPPORT. The sand requests of an entry to SLIP (R70, R138 to R140, R146, R147): two requests of one event for
the leading end. -/

namespace Sys2Proof.Machine

/-! The valve a grant opens (R147) -/

theorem setSanded_valve (s : State) : (setSanded s).snd.valve = s.snd.valve := by
  unfold setSanded
  dsimp only
  split
  · rw [rerun_snd]
  · rfl

theorem grant_valve (x : SandEntry) (s : State) : (grant x s).snd.valve.get x.side ≠ .closed := by
  rw [grant, setSanded_valve, sendReport_snd, State.setValve_snd, PerSide.get_set_self]
  exact nofun

/-! Two requests of one event (R70, log 41) -/

theorem isFor_iff {source : SandSource} {e : Side} {y : SandEntry} :
    y.isFor source e = true ↔ y.source = source ∧ y.side = e := by simp [SandEntry.isFor]

theorem mergedAdhesion_of_other {q : List SandEntry} {e : Side} (clock : Nat) (shots : SandEntry → Nat)
    (fresh : q.any (SandEntry.isFor .adhesion e) = false) :
    q.map (fun y => mergedAdhesion e clock (shots y) y) = q := by
  refine (List.map_congr_left fun y hy => ?_).trans (List.map_id q)
  have other : ¬ (y.source = .adhesion ∧ y.side = e) := fun h => List.any_eq_false.mp fresh y hy (isFor_iff.mpr h)
  exact if_neg other

/-- R139: a merge keeps source, side and what a later merge sets again. -/
theorem mergedAdhesion_merged (e : Side) (clock n : Nat) (add : Nat → Nat) (y : SandEntry) :
    mergedAdhesion e clock (add (mergedAdhesion e clock n y).shots) (mergedAdhesion e clock n y)
      = mergedAdhesion e clock (add n) y := by
  unfold mergedAdhesion
  by_cases same : y.source = .adhesion ∧ y.side = e
  · rw [if_pos same, if_pos (by exact same), if_pos same]
  · rw [if_neg same, if_neg same, if_neg same]

theorem any_isFor_mergedAdhesion (e : Side) (clock : Nat) (shots : SandEntry → Nat) (q : List SandEntry) :
    (q.map fun y => mergedAdhesion e clock (shots y) y).any (SandEntry.isFor .adhesion e)
      = q.any (SandEntry.isFor .adhesion e) := by
  rw [List.any_map]
  congr 1
  funext y
  simp only [Function.comp_apply, mergedAdhesion]
  split <;> rfl

section

variable {u : State}

/-- R70: the second request is taken in the state the first leaves. -/
theorem requestLeadingAll_pair (n m : Nat) (active : u.isActive = true) : requestLeadingAll .adhesion [n, m] u
    = requestLeading .adhesion m (joinNext .adhesion u.travel.leading true n true u) := by
  have core := joinNext_core .adhesion u.travel.leading true n true u
  rw [requestLeading, requestLeadingAll, requestLeadingAll, if_pos active,
    if_pos ((isActive_of_core core).trans active), travel_of_core core]
  rfl

/-- But for a new entry that finds room, the arbiter's judgement does not wait for the second request. -/
theorem joinNext_more {e : Side} (n : Nat) (more : Bool)
    (old : u.snd.queue.any (SandEntry.isFor .adhesion e) = true ∨ 8 ≤ u.snd.queue.length) :
    joinNext .adhesion e true n more u = joinNext .adhesion e true n false u := by
  by_cases waits : u.snd.queue.any (SandEntry.isFor .adhesion e) = true
  · simp only [joinNext, waits, true_or]
  · have full : 8 ≤ u.snd.queue.length := old.resolve_left waits
    have none : placement .adhesion e n u = none := by
      rw [placement_of_fresh n (by simpa using waits), if_neg]
      exact not_or.mpr ⟨Nat.not_lt.mpr full, Nat.not_lt.mpr (lowestPriority_pos _)⟩
    simp [joinNext, none]

/-- R139, R146: the two requests are taken one after the other, each judged in turn. -/
theorem requestLeadingAll_pair_of_old (n m : Nat) (active : u.isActive = true)
    (old : u.snd.queue.any (SandEntry.isFor .adhesion u.travel.leading) = true ∨ 8 ≤ u.snd.queue.length) :
    requestLeadingAll .adhesion [n, m] u = requestLeading .adhesion m (requestLeading .adhesion n u) := by
  have first : requestLeading .adhesion n u = joinNext .adhesion u.travel.leading true n false u := by
    rw [requestLeading, requestLeadingAll, if_pos active]
    rfl
  rw [requestLeadingAll_pair n m active, joinNext_more n true old, first]

/-- R70, log 41: a new entry takes both requests and is judged once. -/
theorem requestLeadingAll_pair_of_room {n m : Nat} (few : n + m ≤ 10) (active : u.isActive = true)
    (fresh : u.snd.queue.any (SandEntry.isFor .adhesion u.travel.leading) = false)
    (room : u.snd.queue.length < 8) :
    requestLeadingAll .adhesion [n, m] u = requestLeading .adhesion (n + m) u := by
  have first : joinNext .adhesion u.travel.leading true n true u
      = joinTail .adhesion u.travel.leading true n u := by
    simp [joinNext, fresh, enqueueSand, room]
  have waits : (joinTail .adhesion u.travel.leading true n u).snd.queue.any
      (SandEntry.isFor .adhesion u.travel.leading) = true := by simp [joinTail, SandEntry.isFor]
  have kept := mergedAdhesion_of_other u.clock (fun y => min 10 (y.shots + m)) fresh
  rw [requestLeadingAll_pair n m active, first, requestLeading_of_match m (by exact active) waits,
    requestLeading_of_room _ active fresh room]
  change judgeEnd u.travel.leading _ = _
  congr 1
  simp only [joinTail, State.setSandQueue, List.map_append, State.travel] at kept ⊢
  rw [kept]
  simp [mergedAdhesion, ageOf, hasAge, State.timer, few]

theorem requestLeading_of_busy (n : Nat) (active : u.isActive = true)
    (waits : u.snd.queue.any (SandEntry.isFor .adhesion u.travel.leading) = true)
    (busy : u.snd.valve.get u.travel.leading ≠ .closed) :
    requestLeading .adhesion n u = u.setSandQueue (u.snd.queue.map fun y =>
      mergedAdhesion u.travel.leading u.clock (min 10 (y.shots + n)) y) := by
  rw [requestLeading_of_match n active waits]
  exact judgeEnd_of_busy busy

/-- R140: without a place each request is dropped with its report. -/
theorem requestLeadingAll_pair_of_full (n m : Nat) (active : u.isActive = true)
    (fresh : u.snd.queue.any (SandEntry.isFor .adhesion u.travel.leading) = false)
    (full : 8 ≤ u.snd.queue.length) :
    requestLeadingAll .adhesion [n, m] u
      = sendReport (.sand .dropped u.travel.leading .adhesion 0 m (u.snd.level.get u.travel.leading) u.nowMs)
        (sendReport (.sand .dropped u.travel.leading .adhesion 0 n (u.snd.level.get u.travel.leading) u.nowMs)
          u) := by
  have travel : ∀ r, (sendReport r u).travel = u.travel := fun r => travel_of_core (sendReport_core r u)
  rw [requestLeadingAll_pair_of_old n m active (.inr full), requestLeading_of_full n active fresh full,
    requestLeading_of_full m ((isActive_of_core (sendReport_core _ u)).trans active)
      (by rw [travel, sendReport_snd]; exact fresh) (by rwa [sendReport_snd]), travel, sendReport_snd,
    State.nowMs, sendReport_clock, ← State.nowMs]

/-- R139: two merges into a waiting entry whose valve is busy are one of their sum. -/
theorem requestLeadingAll_pair_of_busy (n m : Nat) (active : u.isActive = true)
    (waits : u.snd.queue.any (SandEntry.isFor .adhesion u.travel.leading) = true)
    (busy : u.snd.valve.get u.travel.leading ≠ .closed) :
    requestLeadingAll .adhesion [n, m] u = requestLeading .adhesion (n + m) u := by
  have again := requestLeading_of_busy (u := u.setSandQueue (u.snd.queue.map fun y =>
      mergedAdhesion u.travel.leading u.clock (min 10 (y.shots + n)) y)) m active
    ((any_isFor_mergedAdhesion _ u.clock (fun y => min 10 (y.shots + n)) _).trans waits) busy
  rw [requestLeadingAll_pair_of_old n m active (.inl waits), requestLeading_of_busy n active waits busy,
    requestLeading_of_busy (n + m) active waits busy, again]
  simp only [State.setSandQueue, List.map_map]
  congr 2
  refine List.map_congr_left fun y _ => ?_
  refine (mergedAdhesion_merged _ u.clock (min 10 (y.shots + n)) (fun k => min 10 (k + m)) y).trans ?_
  rw [show min 10 (min 10 (y.shots + n) + m) = min 10 (y.shots + (n + m)) by omega]

/-- R147: a shot that the first request's judgement grants keeps the valve busy for the second. -/
theorem requestLeading_of_granted {n : Nat} {x : SandEntry} (active : u.isActive = true)
    (waits : u.snd.queue.any (SandEntry.isFor .adhesion u.travel.leading) = true)
    (granted : grantee (u.setSandQueue (u.snd.queue.map fun y => mergedAdhesion u.travel.leading u.clock
      (min 10 (y.shots + n)) y)) u.travel.leading = some x) :
    (requestLeading .adhesion n u).snd.valve.get u.travel.leading ≠ .closed := by
  rw [requestLeading_of_match n active waits, judgeEnd_of_grantee granted, ← grantee_side granted]
  exact grant_valve _ _

end

/-- R138: `t` is as the requests for `n` and then `m` shots leave SND, of a state that shows SND what `s` shows
it; what else the event has done takes no report back. -/
theorem adhesionRequests_of_pair {n m : Nat} {s u t : State} (some : 1 ≤ n) (few : n + m ≤ 10)
    (active : s.sfc.opState = .active) (sees : SandSees s u)
    (snd : t.snd = (requestLeadingAll .adhesion [n, m] u).snd)
    (sent : ∀ r, reported r (requestLeadingAll .adhesion [n, m] u) → reported r t) :
    adhesionRequests n m s t := by
  intro e fresh allowed merge he hfresh hallowed hmerge
  have live : u.isActive = true := by simp [State.isActive, sees.opState, active]
  have side : u.travel.leading = e := by rw [he, sees.travel]; cases s.travel <;> rfl
  have summed : requestLeadingAll .adhesion [n, m] u = requestLeading .adhesion (n + m) u →
      adhesionRequests (n + m) 0 s t := fun same =>
    adhesionRequests_of_request (by omega) active sees (same ▸ snd) (same ▸ sent)
  refine ⟨fun none room => ?_, fun none full => ?_, fun waits busy => ?_,
    fun q x hq shots waits granted source => ?_⟩
  · have same := requestLeadingAll_pair_of_room few live (by rw [side, sees.snd]; exact none)
      (by rwa [sees.snd])
    exact (summed same e fresh allowed merge he hfresh hallowed hmerge).1 none room
  · have dropped := requestLeadingAll_pair_of_full n m live (by rw [side, sees.snd]; exact none)
      (by rwa [sees.snd])
    have now : u.nowMs = s.nowMs := by rw [State.nowMs, State.nowMs, sees.clock]
    rw [side, sees.snd, now] at dropped
    rw [dropped] at snd sent
    exact ⟨by rw [snd, sendReport_snd, sendReport_snd, sees.snd],
      sent _ (sendReport_reported _ (sendReport_reported_self _ _)), fun _ => sent _ (sendReport_reported_self _ _)⟩
  · have same := requestLeadingAll_pair_of_busy n m live (by rw [side, sees.snd]; exact waits)
      (by rwa [side, sees.snd])
    obtain ⟨-, -, merges, -⟩ := summed same e fresh allowed merge he hfresh hallowed hmerge
    simp only [← Nat.add_assoc] at merges
    exact merges waits busy
  · have waits_u : u.snd.queue.any (SandEntry.isFor .adhesion u.travel.leading) = true := by
      rw [side, sees.snd]; exact waits
    have merged : ∀ k y, merge k y = mergedAdhesion e u.clock k y := by
      intro k y; rw [hmerge, mergedAdhesion, sees.clock]
    have queue : u.setSandQueue (u.snd.queue.map fun y => mergedAdhesion u.travel.leading u.clock
        (min 10 (y.shots + n)) y) = { u with snd := { s.snd with queue := q } } := by
      rw [side, State.setSandQueue, sees.snd, hq]
      simp only [merged]
    have busy := requestLeading_of_granted live waits_u
      (by rw [queue, side]; exact (grantee_congr sees e _).trans granted)
    obtain ⟨-, -, -, grants⟩ := adhesionRequests_of_request some active sees rfl (fun _ sent => sent)
      e _ allowed merge he rfl hallowed hmerge
    obtain ⟨first, shot⟩ := grants q x hq shots waits granted source
    rw [requestLeadingAll_pair_of_old n m live (.inl waits_u)] at snd sent
    have core := requestLeading_core .adhesion n u
    have side_v : (requestLeading .adhesion n u).travel.leading = e := by rw [travel_of_core core, side]
    have waits_v : (requestLeading .adhesion n u).snd.queue.any (SandEntry.isFor .adhesion e) = true := by
      rw [first]
      simp only [merged]
      exact (any_isFor_mergedAdhesion e u.clock (fun y => min 10 (min 10 (y.shots + n) - 1 + 0)) _).trans waits
    rw [requestLeading_of_busy m ((isActive_of_core core).trans live) (by rwa [side_v])
      (by rwa [side_v, ← side]), side_v, clock_of_core core, first] at snd sent
    refine ⟨?_, sent _ shot⟩
    rw [snd, State.setSandQueue_snd, List.map_map]
    refine List.map_congr_left fun y _ => ?_
    rw [Function.comp_apply, merged, merged]
    refine (mergedAdhesion_merged e u.clock _ (fun k => min 10 (k + m)) y).trans ?_
    rw [show min 10 (min 10 (min 10 (y.shots + n) - 1 + 0) + m) = min 10 (min 10 (y.shots + n) - 1 + m) by omega]

end Sys2Proof.Machine
end

section
/-! SUPPORT. An axle sample arrives at the adhesion supervision (R45, R46, R53, R55, R56, R62, R63, R70, R131). -/

namespace Sys2Proof

theorem PerAxle.set_get_self {α : Type} (p : PerAxle α) (x : Axle) : p.set x (p.get x) = p := by
  cases x <;> rfl

theorem PerBogie.set_set {α : Type} (p : PerBogie α) (x : Bogie) (u v : α) :
    (p.set x u).set x v = p.set x v := by
  cases x <;> rfl

theorem Axle.isMotor_eq_false_iff (x : Axle) : x.isMotor = false ↔ x = .t1 ∨ x = .t2 := by
  cases x <;> decide

theorem Axle.isMotor_iff (x : Axle) : x.isMotor = true ↔ x ≠ .t1 ∧ x ≠ .t2 := by
  cases x <;> decide

end Sys2Proof

namespace Sys2Proof.Machine

/-! Eligibility (R46) -/

/-- Table 3-3. -/
theorem modeJudges_iff (m : Mode) (x : Axle) : modeJudges m x = true ↔
    (m = .drive ∧ x ≠ .t1 ∧ x ≠ .t2) ∨ m = .brake ∨ m = .emergency := by
  cases m with
  | drive => simpa [modeJudges] using x.isMotor_iff
  | coast | brake | emergency => simp [modeJudges]

theorem eligible_iff (x : Axle) (p : Sample) (s : State) : eligible x p s = true ↔
    s.sfc.opState = .active ∧ s.ref.active ≠ .lost ∧ s.adhState x ≠ .isolated ∧ s.adhState x ≠ .fault
    ∧ p.flags.isolated = false ∧ p.flags.implausible = false
    ∧ ((s.mode = .drive ∧ x ≠ .t1 ∧ x ≠ .t2) ∨ s.mode = .brake ∨ s.mode = .emergency) := by
  have watched : s.unwatched x = false ↔ s.adhState x ≠ .isolated ∧ s.adhState x ≠ .fault := by
    rw [← Bool.not_eq_true, unwatched_iff, not_or]
  simp only [eligible, Bool.and_eq_true, isActive_iff, decide_eq_true_iff, Bool.not_eq_true', watched,
    modeJudges_iff, and_assoc]

/-! The delivery of a changed limit (R44) -/

theorem deliverLimits_changes (old s : State) : deliverLimits old s = { s with
    bld := (deliverLimits old s).bld, afe := { s.afe with sup := (deliverLimits old s).afe.sup } } := by
  have chan : (deliverLimits old s).afe.chan = s.afe.chan := chan_of_core (deliverLimits_core old s)
  have blend := deliverLimits_onlyBlend old s
  generalize deliverLimits old s = t at chan blend
  dsimp only
  rw [← chan]
  exact blend

/-! The raise of a SENSOR fault (R45, R53, R56, R131) -/

section

variable {x : Axle} {p : Sample} {s : State}

/-- R45, step 3, at the raise: ADH's record with its hold `u` and the limit action of the arrival. -/
def faultedAdh (x : Axle) (p : Sample) (s u : State) : Adh :=
  { u.adh with bogie := if s.sfc.opState = .active
      then u.adh.bogie.set x.bogie (limitAction x p.endTime .fault false u) else s.adh.bogie }

theorem holdUnsupervised_changes (x : Bogie) (s : State) :
    holdUnsupervised x s = { s with adh := (holdUnsupervised x s).adh }
    ∧ (holdUnsupervised x s).adh.axle = s.adh.axle := by
  obtain ⟨n, held, -, -⟩ := holdUnsupervised_eq x s
  rw [held]
  exact ⟨rfl, rfl⟩

theorem unjudgedLimit_faulted : unjudgedLimit x p (holdUnsupervised x.bogie (s.setAxle x ⟨.fault, 0⟩))
    = { s with adh := faultedAdh x p s (holdUnsupervised x.bogie (s.setAxle x ⟨.fault, 0⟩)) } := by
  obtain ⟨only, axles⟩ := holdUnsupervised_changes x.bogie (s.setAxle x ⟨.fault, 0⟩)
  have kept := holdUnsupervised_of_not_holds (s := s.setAxle x ⟨.fault, 0⟩) (x := x.bogie)
  have fault : (holdUnsupervised x.bogie (s.setAxle x ⟨.fault, 0⟩)).adhState x = .fault := by
    rw [State.adhState, axles, State.setAxle_adh, PerAxle.get_set_self]
  rw [unjudgedLimit, fault, faultedAdh]
  by_cases active : s.sfc.opState = .active
  · rw [if_pos active, if_pos (by rw [only, isActive_iff]; exact active), State.setBogie, only]
    rfl
  · rw [if_neg active, if_neg (by rw [only, isActive_iff]; exact active), kept fun h => active h.1]
    rfl

theorem adhArrival_of_raised (supervised : s.adhState x ≠ .isolated) (a : Adh)
    (ha : a = faultedAdh x p s (holdUnsupervised x.bogie (s.setAxle x ⟨.fault, 0⟩))) :
    adhArrival x p true s = { s with
      adh := a
      bld := (adhArrival x p true s).bld
      afe := { s.afe with sup := (adhArrival x p true s).afe.sup }
      lnk := (adhArrival x p true s).lnk
      hhu := { s.hhu with acc := s.hhu.acc.set x 0 } }
    ∧ reported (.axleState (.axle x) .fault .fault (s.adhState x) 0 (a.bogie.get x.bogie).limit
        (a.bogie.get x.bogie).low s.nowMs) (adhArrival x p true s) := by
  have state : (a.axle.get x).state = .fault := by
    rw [ha, faultedAdh, (holdUnsupervised_changes _ _).2, State.setAxle_adh, PerAxle.get_set_self]
  have moved : adhArrival x p true s = hillUnwatch x (deliverLimits s
      (sendReport (.axleState (.axle x) .fault .fault (s.adhState x) 0 (a.bogie.get x.bogie).limit
        (a.bogie.get x.bogie).low s.nowMs) { s with adh := a })) := by
    rw [adhArrival, if_pos ⟨rfl, supervised⟩, faultAxle, withdrawAxle, unjudgedLimit_faulted, ← ha,
      axleReport, State.adhState, state]
    rfl
  refine ⟨?_, ?_⟩
  · rw [moved, hillUnwatch, deliverLimits_sendReport]
  · rw [moved]
    exact (stable_reported _).view ((hillUnwatch_view _ _).trans (deliverLimits_view _ _))
      (sendReport_reported_self _ _)

theorem adhArrival_of_not_raised {raised : Bool} (h : raised = false ∨ s.adhState x = .isolated) :
    adhArrival x p raised s = if s.isActive then judgeArrival x p (!raised && eligible x p s) s else s := by
  rw [adhArrival, if_neg]
  rintro ⟨raise, supervised⟩
  exact h.elim (fun no => by simp [no] at raise) supervised

end

/-! The arrival in ACTIVE without an entry to SLIP (R45, R52) -/

/-- R45, step 2: the axle's record after the arrival. -/
def recordAfter (x : Axle) (p : Sample) (judged : Bool) (s : State) : AxleAdh :=
  if judged then judgeAxle x p s else s.adh.axle.get x

/-- R45, step 3: the bogie's record after the arrival's limit action. -/
def limitAfter (x : Axle) (p : Sample) (judged : Bool) (s : State) : BogieAdh :=
  limitAction x p.endTime (s.adhState x) judged (s.setAxle x (recordAfter x p judged s))

/-- R45, steps 2 and 3. -/
def stepped (x : Axle) (p : Sample) (judged : Bool) (s : State) : State :=
  (s.setAxle x (recordAfter x p judged s)).setBogie x.bogie (limitAfter x p judged s)

section

variable {x : Axle} {p : Sample} {judged : Bool} {s : State}

theorem stepped_adhState : (stepped x p judged s).adhState x = (recordAfter x p judged s).state := by
  simp [stepped, State.adhState]

theorem stepped_bogie : (stepped x p judged s).adh.bogie.get x.bogie = limitAfter x p judged s := by
  simp [stepped]

theorem judgeArrival_eq : judgeArrival x p judged s =
    if s.adhState x ≠ .slip ∧ (recordAfter x p judged s).state = .slip then
      inSomeOrder [deliverLimits s,
          slipSand x (completeSlip x (s.adhState x) (slipOf s p.v) (stepped x p judged s)).1]
        (completeSlip x (s.adhState x) (slipOf s p.v) (stepped x p judged s)).2
    else deliverLimits s
      (if s.adhState x = .recover ∧ (recordAfter x p judged s).state = .grip then
        axleReport x .recovered .recover (slipOf s p.v) (stepped x p judged s)
      else stepped x p judged s) := by
  have moved : (if judged then s.setAxle x (judgeAxle x p s) else s) = s.setAxle x (recordAfter x p judged s) := by
    cases judged with
    | true => rfl
    | false => exact (congrArg (fun a => ({ s with adh.axle := a } : State)) (PerAxle.set_get_self ..)).symm
  rw [judgeArrival, moved, ← stepped_adhState]
  rfl

section

variable (stays : (recordAfter x p judged s).state ≠ .slip ∨ s.adhState x = .slip)
include stays

theorem judgeArrival_of_stays : judgeArrival x p judged s = deliverLimits s
      (if s.adhState x = .recover ∧ (recordAfter x p judged s).state = .grip then
        axleReport x .recovered .recover (slipOf s p.v) (stepped x p judged s)
      else stepped x p judged s) := by
  rw [judgeArrival_eq, if_neg]
  rintro ⟨out, slips⟩
  exact stays.elim (fun h => h slips) out

theorem judgeArrival_of_recovered
    (recovers : s.adhState x = .recover ∧ (recordAfter x p judged s).state = .grip) :
    judgeArrival x p judged s = deliverLimits s (sendReport (.axleState (.axle x) .recovered .grip .recover
      (slipOf s p.v) (limitAfter x p judged s).limit (limitAfter x p judged s).low s.nowMs)
        (stepped x p judged s)) := by
  rw [judgeArrival_of_stays stays, if_pos recovers, axleReport, stepped_adhState, stepped_bogie, recovers.2]
  rfl

theorem judgeArrival_of_silent
    (silent : ¬ (s.adhState x = .recover ∧ (recordAfter x p judged s).state = .grip)) :
    judgeArrival x p judged s = deliverLimits s (stepped x p judged s) := by
  rw [judgeArrival_of_stays stays, if_neg silent]

/-- R45, R52: an arrival that enters no SLIP leaves its step, what the allocation does with it, and the report of
a return from RECOVER to GRIP. -/
theorem judgeArrival_stays : judgeArrival x p judged s = { stepped x p judged s with
      bld := (judgeArrival x p judged s).bld
      afe := { s.afe with sup := (judgeArrival x p judged s).afe.sup }
      lnk := (judgeArrival x p judged s).lnk }
    ∧ (s.adhState x = .recover ∧ (recordAfter x p judged s).state = .grip →
      reported (.axleState (.axle x) .recovered .grip .recover (slipOf s p.v) (limitAfter x p judged s).limit
        (limitAfter x p judged s).low s.nowMs) (judgeArrival x p judged s))
    ∧ (¬ (s.adhState x = .recover ∧ (recordAfter x p judged s).state = .grip) →
      (judgeArrival x p judged s).lnk = s.lnk) := by
  by_cases recovers : s.adhState x = .recover ∧ (recordAfter x p judged s).state = .grip
  · have sent := judgeArrival_of_recovered stays recovers
    refine ⟨?_, fun _ => ?_, fun no => absurd recovers no⟩
    · rw [sent, deliverLimits_sendReport]
      rfl
    · rw [sent]
      exact (stable_reported _).view (deliverLimits_view _ _) (sendReport_reported_self _ _)
  · have silent := judgeArrival_of_silent stays recovers
    refine ⟨?_, fun yes => absurd yes recovers, fun _ => ?_⟩
    · rw [silent, deliverLimits_changes]
      rfl
    · rw [silent, lnk_of_view (deliverLimits_view _ _)]
      rfl

end

end

/-! The completion of an entry (R55, R56, R62, R63) -/

theorem crowded_iff (l : List Time) : crowded l = true ↔ ∃ a b c, l = [a, b, c] ∧ (c - a).toNat ≤ 10000 := by
  fun_cases crowded l with
  | case1 a b c =>
    rw [decide_eq_true_iff]
    refine ⟨fun h => ⟨a, b, c, rfl, h⟩, ?_⟩
    rintro ⟨_, _, _, same, h⟩
    cases same
    exact h
  | case2 l other =>
    simp only [Bool.false_eq_true, false_iff, not_exists, not_and]
    exact fun a b c h => absurd h (other a b c)

/-- R63: the entry sets low adhesion. -/
def setsLow (now : Time) (r : BogieAdh) : Bool := crowded (appendSlip now r.slips) && !r.low

/-- R55, R62, R63, R64: the bogie's record `r` after the completion of an entry in `s`. -/
def entered (s : State) (r : BogieAdh) : BogieAdh :=
  { r with
    slips := appendSlip s.nowMs r.slips
    low := r.low || setsLow s.nowMs r
    lowTimer := some (s.clock + 30000000) }

theorem entered_low_iff (s : State) (r : BogieAdh) :
    (entered s r).low = true ↔ r.low = true ∨ crowded (appendSlip s.nowMs r.slips) = true := by
  rw [entered, setsLow]
  cases r.low <;> simp

/-- R55: the state in which an entry is completed, before its reports. -/
def completed (x : Axle) (t : State) : State := t.setBogie x.bogie (entered t (t.adh.bogie.get x.bogie))

section

variable {x : Axle} {left : AdhState} {slip : Int} {t : State}

theorem completeSlip_sets :
    (completeSlip x left slip t).1 = setsLow t.nowMs (t.adh.bogie.get x.bogie) := rfl

variable (x left slip t) in
/-- R56: the report of the entry. -/
def entryReport : Report :=
  .axleState (.axle x) .slipEntry .slip left slip (t.adh.bogie.get x.bogie).limit
    (entered t (t.adh.bogie.get x.bogie)).low t.nowMs

variable (x slip t) in
/-- R56: the LOW ADHESION report of the entry. -/
def lowSetReport : Report :=
  .axleState (.bogie x.bogie) .lowSet .slip .slip slip (t.adh.bogie.get x.bogie).limit
    (entered t (t.adh.bogie.get x.bogie)).low t.nowMs

variable (slips : t.adhState x = .slip)
include slips

theorem completeSlip_state : (completeSlip x left slip t).2 =
    if setsLow t.nowMs (t.adh.bogie.get x.bogie) then
      sendReport (lowSetReport x slip t) (sendReport (entryReport x left slip t) (completed x t))
    else sendReport (entryReport x left slip t) (completed x t) := by
  have first : axleReport x .slipEntry left slip (completed x t)
      = sendReport (entryReport x left slip t) (completed x t) := by
    rw [State.adhState] at slips
    simp [axleReport, entryReport, entered, completed, State.adhState, slips, State.nowMs]
  have second : lowReport x.bogie .lowSet .slip slip (sendReport (entryReport x left slip t) (completed x t))
      = sendReport (lowSetReport x slip t) (sendReport (entryReport x left slip t) (completed x t)) := by
    simp [lowReport, lowSetReport, entered, completed, State.nowMs]
  rw [← second, ← first]
  rfl

theorem completeSlip_changes : (completeSlip x left slip t).2 =
    { completed x t with lnk := (completeSlip x left slip t).2.lnk } := by
  rw [completeSlip_state slips]
  split
  · rw [sendReport_eq, sendReport_eq]
  · exact sendReport_eq _ _

theorem completeSlip_reported : reported (entryReport x left slip t) (completeSlip x left slip t).2 := by
  rw [completeSlip_state slips]
  split
  · exact sendReport_reported _ (sendReport_reported_self _ _)
  · exact sendReport_reported_self _ _

theorem completeSlip_reported_low (sets : setsLow t.nowMs (t.adh.bogie.get x.bogie) = true) :
    reported (lowSetReport x slip t) (completeSlip x left slip t).2 := by
  rw [completeSlip_state slips, if_pos sets]
  exact sendReport_reported_self _ _

end

/-! The sand requests of an entry, and BLD's taking of the cut (R44, R70) -/

theorem requestLeadingAll_onlySand (source : SandSource) (shots : List Nat) (s : State) :
    OnlySand s (requestLeadingAll source shots s) := by
  unfold requestLeadingAll
  split
  · exact joinAll_onlySand _ _ _ _ s
  · rfl

/-- R44, R70: what BLD's and SND's taking of an entry changes. -/
abbrev EntryChanges (b t : State) : Prop := t = { b with
  bld := t.bld, snd := t.snd, afe := { b.afe with sup := t.afe.sup }, lnk := t.lnk, free := t.free }

theorem entryChanges_deliverLimits (old : State) {b t : State} (h : EntryChanges b t) :
    EntryChanges b (deliverLimits old t) := by
  unfold EntryChanges
  rw [deliverLimits_changes, h]

theorem entryChanges_slipSand (x : Axle) (sets : Bool) {b t : State} (h : EntryChanges b t) :
    EntryChanges b (slipSand x sets t) := by
  have sand := requestLeadingAll_onlySand .adhesion (slipShots x sets) t
  have chan : (slipSand x sets t).afe.chan = b.afe.chan :=
    (chan_of_core (requestLeadingAll_core _ _ t)).trans (by rw [h])
  change OnlySand t (slipSand x sets t) at sand
  generalize slipSand x sets t = u at sand chan
  unfold EntryChanges
  dsimp only
  rw [← chan, sand, h]

theorem entryTaken_changes (old b : State) (x : Axle) (sets : Bool) :
    EntryChanges b (inSomeOrder [deliverLimits old, slipSand x sets] b) := by
  refine inSomeOrder_keeps (P := EntryChanges b) (fun {t} h => ?_) (fun f hf t h => ?_) rfl
  · obtain ⟨n, hn⟩ := drawFrom_changes_free Config.freeOrder t
    rw [hn, h]
  · simp only [List.mem_cons, List.not_mem_nil, or_false] at hf
    rcases hf with rfl | rfl
    · exact entryChanges_deliverLimits old h
    · exact entryChanges_slipSand x sets h

/-- R70: `u` is the state in which SND takes the entry, before BLD or after it. -/
theorem entryTaken_request (old b : State) (x : Axle) (sets : Bool) : ∃ u, SandSees b u
    ∧ (inSomeOrder [deliverLimits old, slipSand x sets] b).snd = (slipSand x sets u).snd
    ∧ ∀ r, reported r (slipSand x sets u) → reported r (inSomeOrder [deliverLimits old, slipSand x sets] b) := by
  obtain ⟨n, order | order⟩ := inSomeOrder_pair (deliverLimits old) (slipSand x sets) b <;> rw [order]
  · have travel := travel_of_core (deliverLimits_core old { b with free := n })
    refine ⟨deliverLimits old { b with free := n }, ?_, rfl, fun r sent => sent⟩
    have blend := deliverLimits_onlyBlend old { b with free := n }
    generalize deliverLimits old { b with free := n } = u at travel blend
    unfold OnlyBlend at blend
    exact ⟨by rw [blend], by rw [blend], by rw [blend], by rw [blend], by rw [blend], by rw [blend], travel⟩
  · refine ⟨{ b with free := n }, ⟨rfl, rfl, rfl, rfl, rfl, rfl, rfl⟩, ?_,
      fun r sent => (stable_reported r).view (deliverLimits_view _ _) sent⟩
    rw [deliverLimits_onlyBlend old (slipSand x sets { b with free := n })]

theorem slipShots_of_trailer {x : Axle} (trailer : x = .t1 ∨ x = .t2) (sets : Bool) :
    slipShots x sets = if sets then [3] else [] := by
  rw [slipShots, (Axle.isMotor_eq_false_iff x).mpr trailer]
  rfl

/-- R70: a trailer axle's entry requests no sand of its own. -/
theorem slipSand_of_trailer {x : Axle} (trailer : x = .t1 ∨ x = .t2) (u : State) : slipSand x false u = u := by
  rw [slipSand, slipShots_of_trailer trailer, if_neg Bool.false_ne_true, requestLeadingAll]
  exact ite_self u

theorem slipShots_of_motor {x : Axle} (motor : ¬ (x = .t1 ∨ x = .t2)) (sets : Bool) :
    slipShots x sets = if sets then [1, 3] else [1] := by
  rw [slipShots, x.isMotor_iff.mpr (not_or.mp motor)]
  cases sets <;> rfl

/-- R70: `first` and `rest` are the shots of an entry's requests. -/
theorem adhesionRequests_of_slipSand {x : Axle} {sets : Bool} {first rest : Nat} {s u t : State}
    (active : s.sfc.opState = .active) (sees : SandSees s u) (snd : t.snd = (slipSand x sets u).snd)
    (sent : ∀ r, reported r (slipSand x sets u) → reported r t)
    (low : sets = true →
      first = (if x = .t1 ∨ x = .t2 then 3 else 1) ∧ rest = (if x = .t1 ∨ x = .t2 then 0 else 3))
    (plain : sets = false → first = 1 ∧ rest = 0 ∧ x ≠ .t1 ∧ x ≠ .t2) : adhesionRequests first rest s t := by
  unfold slipSand at snd sent
  cases sets with
  | false =>
    obtain ⟨rfl, rfl, motor⟩ := plain rfl
    rw [slipShots_of_motor (not_or.mpr motor), if_neg Bool.false_ne_true] at snd sent
    exact adhesionRequests_of_request (by decide) active sees snd sent
  | true =>
    obtain ⟨rfl, rfl⟩ := low rfl
    by_cases trailer : x = .t1 ∨ x = .t2
    · rw [slipShots_of_trailer trailer, if_pos rfl] at snd sent
      rw [if_pos trailer, if_pos trailer]
      exact adhesionRequests_of_request (by decide) active sees snd sent
    · rw [slipShots_of_motor trailer, if_pos rfl] at snd sent
      rw [if_neg trailer, if_neg trailer]
      exact adhesionRequests_of_pair (by decide) (by decide) active sees snd sent

/-! The arrival in ACTIVE that enters SLIP (R45, R55) -/

theorem SandSees.trans {s t u : State} (a : SandSees s t) (b : SandSees t u) : SandSees s u :=
  ⟨b.snd.trans a.snd, b.rlq.trans a.rlq, b.cfg.trans a.cfg, b.opState.trans a.opState, b.speed.trans a.speed,
    b.clock.trans a.clock, b.travel.trans a.travel⟩

theorem judgedAxle_of_entry {creep : Nat} {σ : Int} {severe restored : Bool} {r : AxleAdh}
    (enters : r.state ≠ .slip) (slips : (judgedAxle creep σ severe restored r).state = .slip) :
    judgedAxle creep σ severe restored r = ⟨.slip, 0⟩ := by
  obtain ⟨st, n⟩ := r
  cases st with
  | slip => exact absurd rfl enters
  | isolated | fault => exact nomatch slips
  | grip =>
    rw [judgedAxle_grip] at slips ⊢
    split_ifs at slips ⊢
    rfl
  | creep =>
    rw [judgedAxle_creep] at slips ⊢
    split_ifs at slips ⊢
    rfl
  | recover =>
    rw [judgedAxle_recover] at slips ⊢
    split_ifs at slips ⊢
    rfl

section

variable {x : Axle} {p : Sample} {judged : Bool} {s : State} (enters : s.adhState x ≠ .slip)
  (slips : (recordAfter x p judged s).state = .slip)
include enters slips

theorem judged_of_entry : judged = true := by
  cases judged with
  | true => rfl
  | false => exact absurd slips enters

theorem recordAfter_of_entry : recordAfter x p judged s = ⟨.slip, 0⟩ := by
  obtain rfl := judged_of_entry enters slips
  exact judgedAxle_of_entry enters slips

theorem limitAfter_of_entry : limitAfter x p judged s = { s.adh.bogie.get x.bogie with
    limit := max s.adhesion.floor ((s.adh.bogie.get x.bogie).limit * s.adhesion.cut / 1000)
    residual := 0, mark := some p.endTime } := by
  have state : (s.setAxle x (recordAfter x p judged s)).adhState x = .slip := by
    simpa [State.adhState] using slips
  obtain rfl := judged_of_entry enters slips
  exact limitAction_of_entry rfl state enters

/-- ADH's record, BLD's and SND's taking left out, after the completed entry. -/
theorem completeSlip_entry (left : AdhState) (slip : Int) : (completeSlip x left slip (stepped x p judged s)).2 =
    { s with
      adh := {
        axle := s.adh.axle.set x ⟨.slip, 0⟩
        bogie := s.adh.bogie.set x.bogie (entered s (limitAfter x p judged s)) }
      lnk := (completeSlip x left slip (stepped x p judged s)).2.lnk } := by
  rw [completeSlip_changes (stepped_adhState.trans slips)]
  simp only [completed, stepped_bogie]
  simp only [stepped, State.setBogie, State.setAxle, PerBogie.set_set, recordAfter_of_entry enters slips]
  rfl

theorem judgeArrival_of_entry : judgeArrival x p judged s =
    inSomeOrder [deliverLimits s, slipSand x (setsLow s.nowMs (limitAfter x p judged s))]
      (completeSlip x (s.adhState x) (slipOf s p.v) (stepped x p judged s)).2 := by
  rw [judgeArrival_eq, if_pos ⟨enters, slips⟩, completeSlip_sets, stepped_bogie]
  rfl

theorem judgeArrival_entry_changes : judgeArrival x p judged s = { s with
    adh := {
      axle := s.adh.axle.set x ⟨.slip, 0⟩
      bogie := s.adh.bogie.set x.bogie (entered s (limitAfter x p judged s)) }
    snd := (judgeArrival x p judged s).snd
    bld := (judgeArrival x p judged s).bld
    afe := { s.afe with sup := (judgeArrival x p judged s).afe.sup }
    lnk := (judgeArrival x p judged s).lnk
    free := (judgeArrival x p judged s).free } := by
  have changes := entryTaken_changes s
    (completeSlip x (s.adhState x) (slipOf s p.v) (stepped x p judged s)).2 x
    (setsLow s.nowMs (limitAfter x p judged s))
  rw [← judgeArrival_of_entry enters slips, completeSlip_entry enters slips] at changes
  exact changes

/-- R55, R56: the reports of the completion stay sent while BLD and SND take the entry. -/
theorem judgeArrival_keeps_report {r : Report}
    (sent : reported r (completeSlip x (s.adhState x) (slipOf s p.v) (stepped x p judged s)).2) :
    reported r (judgeArrival x p judged s) := by
  rw [judgeArrival_of_entry enters slips]
  refine someOrder_keeps (stable_reported r) (fun f hf t ht => ?_) sent
  simp only [List.mem_cons, List.not_mem_nil, or_false] at hf
  rcases hf with rfl | rfl
  · exact (stable_reported r).view (deliverLimits_view _ _) ht
  · exact slipSand_keeps (stable_reported r) _ _ ht

theorem judgeArrival_entry_reported : reported (.axleState (.axle x) .slipEntry .slip (s.adhState x)
    (slipOf s p.v) (limitAfter x p judged s).limit (entered s (limitAfter x p judged s)).low s.nowMs)
    (judgeArrival x p judged s) := by
  have sent := completeSlip_reported (left := s.adhState x) (slip := slipOf s p.v) (stepped_adhState.trans slips)
  rw [entryReport, stepped_bogie] at sent
  exact judgeArrival_keeps_report enters slips sent

theorem judgeArrival_entry_reported_low (sets : setsLow s.nowMs (limitAfter x p judged s) = true) :
    reported (.axleState (.bogie x.bogie) .lowSet .slip .slip (slipOf s p.v) (limitAfter x p judged s).limit true
      s.nowMs) (judgeArrival x p judged s) := by
  have low : (entered s (limitAfter x p judged s)).low = true := by simp [entered, sets]
  have sent := completeSlip_reported_low (left := s.adhState x) (slip := slipOf s p.v)
    (stepped_adhState.trans slips) (by rw [stepped_bogie]; exact sets)
  rw [lowSetReport, stepped_bogie] at sent
  rw [← low]
  exact judgeArrival_keeps_report enters slips sent

/-- R70: SND takes the entry's requests of a state that shows it what `s` shows it. -/
theorem judgeArrival_entry_request : ∃ u, SandSees s u
    ∧ (judgeArrival x p judged s).snd = (slipSand x (setsLow s.nowMs (limitAfter x p judged s)) u).snd
    ∧ ∀ r, reported r (slipSand x (setsLow s.nowMs (limitAfter x p judged s)) u) →
      reported r (judgeArrival x p judged s) := by
  have entry := completeSlip_entry enters slips (s.adhState x) (slipOf s p.v)
  obtain ⟨u, sees, request⟩ := entryTaken_request s
    (completeSlip x (s.adhState x) (slipOf s p.v) (stepped x p judged s)).2 x
    (setsLow s.nowMs (limitAfter x p judged s))
  rw [← judgeArrival_of_entry enters slips] at request
  have same : SandSees s (completeSlip x (s.adhState x) (slipOf s p.v) (stepped x p judged s)).2 := by
    rw [entry]
    exact ⟨rfl, rfl, rfl, rfl, rfl, rfl, rfl⟩
  exact ⟨u, same.trans sees, request⟩

end

/-- Settles O46: eligibility, the raise, and the arrival in ACTIVE without and with an entry to SLIP. -/
theorem adhesionArrival : Obligations.AdhesionArrival := by
  unfold Obligations.AdhesionArrival
  refine ⟨eligible_iff, ?_, fun x p raised s idle h => ?_, ?_⟩
  · rintro x p s _ rfl supervised u rfl
    obtain ⟨changes, sent⟩ := adhArrival_of_raised (p := p) supervised _ rfl
    have adh : (adhArrival x p true s).adh = _ := congrArg State.adh changes
    exact ⟨by rw [adh]; exact changes, adh, by rw [adh]; exact sent⟩
  · rw [adhArrival_of_not_raised h, if_neg (by rwa [isActive_iff])]
  · rintro x p raised judged s _ _ now r active h rfl hjudged hnow rfl hr
    rw [adhArrival_of_not_raised h, if_pos ((isActive_iff s).mpr active), ← hjudged]
    obtain rfl : now = recordAfter x p judged s := hnow
    obtain rfl : r = limitAfter x p judged s := hr
    refine ⟨fun stays => judgeArrival_stays stays, ?_⟩
    rintro slips enters _ crowd sets _ rfl hcrowd hsets rfl
    have changes := judgeArrival_entry_changes enters slips
    have record : (judgeArrival x p judged s).adh.bogie.get x.bogie = entered s (limitAfter x p judged s) := by
      rw [changes]
      exact PerBogie.get_set_self ..
    have crowd_iff : crowd ↔ crowded (appendSlip s.nowMs (limitAfter x p judged s).slips) = true :=
      hcrowd.trans (crowded_iff _).symm
    have sets_iff : sets ↔ setsLow s.nowMs (limitAfter x p judged s) = true := by
      rw [hsets, crowd_iff, setsLow, Bool.and_eq_true, Bool.not_eq_true']
    obtain ⟨u, sees, snd, sent⟩ := judgeArrival_entry_request enters slips
    rw [record]
    refine ⟨changes, ?_, (entered_low_iff ..).trans (or_congr_right crowd_iff.symm),
      judgeArrival_entry_reported enters slips,
      fun low => judgeArrival_entry_reported_low enters slips (sets_iff.mp low), fun plain trailer => ?_,
      fun first rest low plain => adhesionRequests_of_slipSand active sees snd sent
        (fun h => low (sets_iff.mpr h)) fun h => plain (by simp [sets_iff, h])⟩
    · rw [entered, limitAfter_of_entry enters slips]
      rfl
    · rw [sets_iff, Bool.not_eq_true] at plain
      rw [snd, plain, slipSand_of_trailer trailer, sees.snd]

end Sys2Proof.Machine
end

section
/-! SUPPORT. Every step keeps the route queue well formed (R75 to R81): what the deliveries keep is said by
`Stable`; here stand the few changes that a command makes of itself. -/

namespace Sys2Proof.Machine

theorem raiseFault_rlq (id : FaultId) (s : State) : (raiseFault id s).rlq = s.rlq := by
  unfold raiseFault
  split
  · rfl
  · exact sendReport_rlq _ _

/-- R192: a discard touches the link and its record alone. -/
theorem discardFrame_rlq (s : State) : (discardFrame s).rlq = s.rlq := by
  unfold discardFrame
  dsimp only
  split
  · exact raiseFault_rlq _ _
  · rfl

theorem countGood_rlq (s : State) : (countGood s).rlq = s.rlq := by
  unfold countGood
  dsimp only
  split
  · rfl
  · rfl

/-- R90: a RESTART that takes effect leaves the queue as power-on reset does. -/
theorem restartEffect_rlq (s : State) : (restartEffect s).rlq = Rlq.powerOn := by
  obtain ⟨-, -, -, -, -, route, -⟩ := restartEffect_facts s
  exact route

/-- What a move of the route queue keeps well formed is the queue itself; no other change of a command touches
it, but for RESTART, which empties it. -/
theorem kept_routeWf : Kept fun s => routeWf s.rlq where
  view e w := by rwa [rlq_of_view e]
  report r s w := by rwa [sendReport_rlq]
  fault _ _ _ _ _ w := w
  sand _ _ _ w := w
  route _ _ move w := move w
  failsafe _ w := w
  chans _ _ w := w
  ebl _ _ w := w
  valid _ _ w := w
  reply r s _ w := by rwa [sendReply_rlq]
  notices _ _ _ w := w
  framer _ _ _ w := w
  discard {s} w := by rwa [discardFrame_rlq]
  good {s} w := by rwa [countGood_rlq]
  freed _ w := by rwa [arbitrate_rlq]
  clear _ _ _ w := w
  section_ _ _ _ _ _ _ w := w
  ready _ _ w := w
  active _ w := w
  stopped _ w := w
  restart tag s _ _ w := by rwa [answer_rlq]
  effect {s} _ _ := by
    rw [restartEffect_rlq]
    exact routeWf_powerOn

/-- Settles O9: every command keeps it, power-on reset empties the queue, and time touches no block. -/
theorem stepKeepsRoute : Obligations.StepKeepsRoute := by
  unfold Obligations.StepKeepsRoute
  exact fun _ _ e w => step_keeps kept_routeWf (fun _ _ _ _ => routeWf_powerOn) (fun _ _ _ w => w) e w

end Sys2Proof.Machine
end

section
/-! SUPPORT. SEGMENT APPEND (R77, R78): the ranges of Table 4-1 written out, the result of the checks in their
order, and what the records that join leave. -/

namespace Sys2Proof.Machine

/-! The ranges of Table 4-1 (R77, check 2) -/

/-- Table 4-1: field `f` of the record, counted from 1, is out of its range. -/
def FieldOutOfRange (r : SegmentWord) (f : Nat) : Prop :=
  (f = 1 ∧ r.id.toNat = 0)
    ∨ (f = 2 ∧ (r.length.toNat = 0 ∨ 10000 < r.length.toNat))
    ∨ (f = 3 ∧ (r.grade.toInt < -150 ∨ 150 < r.grade.toInt))
    ∨ (f = 4 ∧ 3 < r.condition.toNat) ∨ (f = 5 ∧ 1 < r.sanding.toNat)
    ∨ (f = 6 ∧ r.override.toNat ≠ 0 ∧ (r.override.toNat < 20 ∨ 400 < r.override.toNat))

/-- The field out of range is the check that fails. -/
theorem fieldOutOfRange_iff (r : SegmentWord) (f : Nat) : FieldOutOfRange r f ↔
    1 ≤ f ∧ f ≤ (segmentChecks r).length ∧ (segmentChecks r).getD (f - 1) true = false := by
  have absent : r.override = 0#16 ↔ r.override.toNat = 0 := by simp [BitVec.toNat_eq]
  match f with
  | 0 | 4 | 5 => simp [FieldOutOfRange, segmentChecks]
  | 1 => simp [FieldOutOfRange, segmentChecks]
  | 2 | 3 | 6 => simp [FieldOutOfRange, segmentChecks, absent]; omega
  | n + 7 => simp [FieldOutOfRange, segmentChecks]

theorem firstFailing_of_fieldOutOfRange {r : SegmentWord} {f : Nat} (bad : FieldOutOfRange r f)
    (before : ∀ i < f, ¬ FieldOutOfRange r i) : firstFailing (segmentChecks r) = some f := by
  obtain ⟨pos, within, fails⟩ := (fieldOutOfRange_iff r f).mp bad
  refine firstFailing_eq_some.mpr ⟨pos, within, fails, fun j hj => ?_⟩
  by_contra failing
  exact before (j + 1) (by omega) ((fieldOutOfRange_iff r _).mpr ⟨by omega, by omega, by simpa using failing⟩)

theorem firstFailing_of_inRange {r : SegmentWord} (good : ∀ i, ¬ FieldOutOfRange r i) :
    firstFailing (segmentChecks r) = none := by
  refine Option.eq_none_iff_forall_ne_some.mpr fun f hf => good f ?_
  obtain ⟨pos, within, fails, -⟩ := firstFailing_eq_some.mp hf
  exact (fieldOutOfRange_iff r f).mpr ⟨pos, within, fails⟩

/-! The checks in their order (R77) -/

section

variable {count : Byte} {records : List SegmentWord} {s : State}

theorem appendResult_of_count (h : count.toNat = 0 ∨ 4 < count.toNat) :
    appendResult count records s = .refusedRange 1 := if_pos h

theorem appendResult_of_field {i : Nat} (h : ¬ (count.toNat = 0 ∨ 4 < count.toNat))
    (bad : badSegmentField 0 records = some i) : appendResult count records s = .refusedRange i := by
  rw [appendResult, if_neg h, bad]

theorem appendResult_of_duplicate {id : Nat} (h : ¬ (count.toNat = 0 ∨ 4 < count.toNat))
    (fields : badSegmentField 0 records = none)
    (twice : duplicateId (s.rlq.queue.map Segment.id) records = some id) :
    appendResult count records s = .refusedDuplicate id := by
  rw [appendResult, if_neg h, fields]
  dsimp only
  rw [twice]

/-- R77, check 4, after the others have passed. -/
theorem appendResult_of_fresh (h : ¬ (count.toNat = 0 ∨ 4 < count.toNat))
    (fields : badSegmentField 0 records = none)
    (fresh : duplicateId (s.rlq.queue.map Segment.id) records = none) :
    appendResult count records s = if 32 < s.rlq.queue.length + records.length
      then .refusedFull (some (32 - s.rlq.queue.length))
      else .ok [BitVec.ofNat 8 (s.rlq.queue.length + records.length)] := by
  rw [appendResult, if_neg h, fields]
  dsimp only
  rw [fresh]
  simp [bytesOf]

end

/-! The request and the records that join (R77, R78) -/

section

variable {tag count : Byte} {records : List SegmentWord} {s : State}

theorem exec_segmentAppend (h : accepts s) :
    exec (.segmentAppend tag count records) s = .next (takeSegmentAppend tag count records s) :=
  congrArg Host.Outcome.next (asRequest_of_accepts (takeSegmentAppend tag count records) h)

theorem segmentAppend_badLength (h : accepts s) (len : records.length ≠ count.toNat) :
    answersOnly (.segmentAppend tag count records) .segmentAppend tag .badLength s := by
  rw [answersOnly, exec_segmentAppend h, takeSegmentAppend, if_pos (by simpa [countFits] using len)]

/-- An append that fits its count and is not answered OK changes nothing else. -/
theorem segmentAppend_answersOnly (h : accepts s) (len : records.length = count.toNat) {r : Result}
    (hr : appendResult count records s = r) (refused : ∀ body, r ≠ .ok body) :
    answersOnly (.segmentAppend tag count records) .segmentAppend tag r s := by
  subst hr
  rw [answersOnly, exec_segmentAppend h, takeSegmentAppend, if_neg (by simpa [countFits] using len)]
  dsimp only
  split
  · next ok => exact absurd ok (refused _)
  · rfl

theorem exec_segmentAppend_of_ok (h : accepts s) (len : records.length = count.toNat) {body : List Byte}
    (hr : appendResult count records s = .ok body) : exec (.segmentAppend tag count records) s
      = .next (appendSegments records (answer .segmentAppend tag (.ok body) s)) := by
  rw [exec_segmentAppend h, takeSegmentAppend, if_neg (by simpa [countFits] using len), hr]

theorem segmentOf_eq (r : SegmentWord) : segmentOf r = {
    id := r.id.toNat, length := r.length.toNat, grade := r.grade.toInt
    condition := if r.condition = 0 then .dry else if r.condition = 1 then .wet
      else if r.condition = 2 then .contaminated else .unknown
    inhibited := decide (r.sanding = 1)
    override := if r.override = 0 then none else some r.override.toNat } := by
  simp [segmentOf, conditionOf, BitVec.toNat_eq]

theorem appendSegments_of_queued (on : s.rlq.queue ≠ []) : appendSegments records s
    = { s with rlq := { s.rlq with queue := s.rlq.queue ++ records.map segmentOf } } := if_neg on

theorem appendSegments_of_empty (off : s.rlq.queue = []) : appendSegments records s
    = segmentChange { s with rlq := ⟨records.map segmentOf, some 0, some s.travel, true⟩ } := by
  rw [appendSegments, if_pos off, off, List.nil_append]

end

/-- R78: what an append on an empty queue leaves. -/
theorem appendSegments_facts {s : State} (records : List SegmentWord) (off : s.rlq.queue = []) :
    (appendSegments records s).rlq
        = { queue := records.map segmentOf, pos := some 0, dir := some s.travel, uncertain := true }
      ∧ (appendSegments records s).core = s.core := by
  rw [appendSegments_of_empty off]
  exact ⟨segmentChange_rlq _, segmentChange_core _⟩

theorem appendSegments_replied {k : ReqKind} {tag : Byte} {r : Result} {s : State} (records : List SegmentWord)
    (off : s.rlq.queue = []) (h : replied k tag r s) : replied k tag r (appendSegments records s) := by
  rw [appendSegments_of_empty off]
  exact segmentChange_keeps (stable_replied k tag r) h

/-- Settles O47: one branch of `appendResult` for each refusal, then the two ways the records join. -/
theorem segmentAppend : Obligations.SegmentAppend := by
  unfold Obligations.SegmentAppend
  rintro tag count records s bad _ _ h hbad rfl rfl
  obtain rfl : bad = FieldOutOfRange := funext₂ fun r f => propext (hbad r f)
  refine ⟨segmentAppend_badLength h, fun len => ⟨fun range =>
    segmentAppend_answersOnly h len (appendResult_of_count range) (by simp), fun low high => ?_⟩⟩
  have counted : ¬ (count.toNat = 0 ∨ 4 < count.toNat) := by omega
  refine ⟨fun good rest r f parts hgood fails first => ?_, fun inRange => ?_⟩
  · have index := badSegmentField_append 0 rest (fun g hg => firstFailing_of_inRange (hgood g hg))
      (firstFailing_of_fieldOutOfRange fails first)
    rw [Nat.zero_add, ← parts] at index
    exact segmentAppend_answersOnly h len (appendResult_of_field counted index) (by simp)
  have fields := badSegmentField_of_none 0 fun r hr => firstFailing_of_inRange (inRange r hr)
  refine ⟨fun good rest r parts fresh distinct twice => ?_, fun fresh distinct => ?_⟩
  · have dup := duplicateId_append rest fresh distinct twice
    rw [← parts] at dup
    exact segmentAppend_answersOnly h len (appendResult_of_duplicate counted fields dup) (by simp)
  have result := appendResult_of_fresh counted fields (duplicateId_of_fresh fresh distinct)
  rw [← funext segmentOf_eq]
  refine ⟨fun full => ?_, fun room on => ?_, fun off => ?_⟩
  · rw [if_pos full] at result
    exact segmentAppend_answersOnly h len result (by simp)
  · rw [if_neg (by omega)] at result
    rw [exec_segmentAppend_of_ok h len result, appendSegments_of_queued (by simpa using on), answer_rlq]
  · have total : s.rlq.queue.length + records.length = count.toNat := by simp [off, len]
    rw [if_neg (by omega), total, BitVec.ofNat_toNat, BitVec.setWidth_eq] at result
    have answeredOff : (answer .segmentAppend tag (.ok [count]) s).rlq.queue = [] := by simpa using off
    obtain ⟨route, core⟩ := appendSegments_facts records answeredOff
    rw [answer_core] at core
    refine ⟨_, exec_segmentAppend_of_ok h len result,
      appendSegments_replied records answeredOff (answer_replied ..), ?_, wsc_of_core core, ref_of_core core,
      adh_of_core core, hhu_of_core core, opState_of_core core, cfg_of_core core⟩
    rw [route, travel_of_core (answer_core ..)]

end Sys2Proof.Machine
end

section
/-! SUPPORT. ROUTE FLUSH (R86, R88) and POSITION FIX (R84, R85). -/

namespace Sys2Proof.Machine

/-! The queue empties (R86, R88) -/

section

variable {s : State}

/-- R86: what the flush of a queue that holds segments leaves. -/
theorem emptyRoute_rlq (reason : RouteReason) (on : s.rlq.queue ≠ []) :
    (emptyRoute reason s).rlq = Rlq.powerOn := by
  rw [emptyRoute, if_neg on, segmentChange_rlq, sendReport_rlq]
  rfl

/-- R88: its report carries the number removed. -/
theorem emptyRoute_reported (reason : RouteReason) (on : s.rlq.queue ≠ []) :
    reported (.routeEmpty reason s.rlq.queue.length s.nowMs) (emptyRoute reason s) := by
  rw [emptyRoute, if_neg on]
  exact segmentChange_keeps (stable_reported _) (sendReport_reported_self _ _)

end

/-! The place of a segment (R84) -/

theorem segmentPlace_eq_none {id : Nat} {q : List Segment} (h : ∀ g ∈ q, g.id ≠ id) :
    segmentPlace id q = none := by
  simpa [segmentPlace, List.findIdx?_eq_none_iff] using h

theorem segmentPlace_append {id : Nat} {ahead rest : List Segment} {g : Segment} (hg : g.id = id)
    (before : ∀ x ∈ ahead, x.id ≠ id) : segmentPlace id (ahead ++ g :: rest) = some ahead.length := by
  have passedOver : List.findIdx? (fun x : Segment => decide (x.id = id)) ahead = none := segmentPlace_eq_none before
  simp [segmentPlace, List.findIdx?_append, List.findIdx?_cons, passedOver, hg]

/-! The result of a fix (R84) -/

section

variable {id offset : Nat} {s : State}

theorem fixResult_of_absent (hid : id ≠ 0) (h : ∀ g ∈ s.rlq.queue, g.id ≠ id) :
    fixResult id offset s = .notFound := by
  rw [fixResult, if_neg hid, segmentPlace_eq_none h]

theorem fixResult_of_place {ahead rest : List Segment} {g : Segment} (hid : id ≠ 0)
    (parts : s.rlq.queue = ahead ++ g :: rest) (hg : g.id = id) (before : ∀ x ∈ ahead, x.id ≠ id) :
    fixResult id offset s = if g.length * 10 ≤ offset then .refusedRange 2
      else .ok [BitVec.ofNat 8 ahead.length] := by
  rw [fixResult, if_neg hid, parts, segmentPlace_append hg before]
  simp [bytesOf]

end

/-! The position is set (R85) -/

/-- R85: RLQ with the segments from place `n` on, and the position known. -/
def fixedAt (n offset : Nat) (s : State) : State :=
  { s with rlq := { s.rlq with
      queue := s.rlq.queue.drop n, pos := some (offset * 100), uncertain := false } }

theorem fixPosition_eq (n offset : Nat) (s : State) : fixPosition n offset s =
    if n = 0 then fixedAt n offset s else segmentChange (fixedAt n offset s) := rfl

theorem fixPosition_rlq (n offset : Nat) (s : State) :
    (fixPosition n offset s).rlq = (fixedAt n offset s).rlq := by
  rw [fixPosition_eq]
  split
  · rfl
  · exact segmentChange_rlq _

theorem fixPosition_core (n offset : Nat) (s : State) : (fixPosition n offset s).core = s.core := by
  rw [fixPosition_eq]
  split
  · rfl
  · exact segmentChange_core _

theorem fixPosition_replied {k : ReqKind} {tag : Byte} {r : Result} {s : State} (n offset : Nat)
    (h : replied k tag r s) : replied k tag r (fixPosition n offset s) := by
  rw [fixPosition_eq]
  split
  · exact h
  · exact segmentChange_keeps (stable_replied k tag r) h

/-! The requests -/

section

variable {tag : Byte} {id : BitVec 16} {offset : BitVec 32} {s : State}

theorem exec_routeFlush (h : accepts s) : exec (.routeFlush tag) s
    = .next (emptyRoute .flush (answer .routeFlush tag (.ok [BitVec.ofNat 8 s.rlq.queue.length]) s)) := by
  have taken : exec (.routeFlush tag) s = .next (takeRouteFlush tag s) :=
    congrArg Host.Outcome.next (asRequest_of_accepts (takeRouteFlush tag) h)
  simpa [takeRouteFlush, bytesOf] using taken

theorem exec_positionFix (h : accepts s) :
    exec (.positionFix tag id offset) s = .next (takePositionFix tag id offset s) :=
  congrArg Host.Outcome.next (asRequest_of_accepts (takePositionFix tag id offset) h)

/-- A fix that is not answered OK changes nothing else. -/
theorem positionFix_answersOnly (h : accepts s) {r : Result} (hr : fixResult id.toNat offset.toNat s = r)
    (refused : ∀ body, r ≠ .ok body) :
    answersOnly (.positionFix tag id offset) .positionFix tag r s := by
  subst hr
  rw [answersOnly, exec_positionFix h, takePositionFix]
  split
  · next ok => exact absurd ok (refused _)
  · rfl

theorem exec_positionFix_of_ok (h : accepts s) {body : List Byte} {n : Nat}
    (hr : fixResult id.toNat offset.toNat s = .ok body) (place : segmentPlace id.toNat s.rlq.queue = some n) :
    exec (.positionFix tag id offset) s
      = .next (fixPosition n offset.toNat (answer .positionFix tag (.ok body) s)) := by
  rw [exec_positionFix h, takePositionFix, hr, place]
  rfl

/-- R86, R88: the flush of a queue that holds segments. -/
theorem routeFlush_empties (h : accepts s) (on : s.rlq.queue ≠ []) : ∃ t, exec (.routeFlush tag) s = .next t
    ∧ replied .routeFlush tag (.ok [BitVec.ofNat 8 s.rlq.queue.length]) t
    ∧ reported (.routeEmpty .flush s.rlq.queue.length s.nowMs) t ∧ t.rlq = Rlq.powerOn ∧ t.core = s.core := by
  have sent := emptyRoute_reported (s := answer .routeFlush tag (.ok [BitVec.ofNat 8 s.rlq.queue.length]) s)
    .flush (by simpa using on)
  simp only [answer_rlq, State.nowMs, answer_clock] at sent
  exact ⟨_, exec_routeFlush h, emptyRoute_keeps (stable_replied ..) _ (answer_replied ..), sent,
    emptyRoute_rlq _ (by simpa using on), by simp⟩

/-- R85: a fix that passes the checks. -/
theorem positionFix_sets (h : accepts s) {ahead rest : List Segment} {g : Segment}
    (parts : s.rlq.queue = ahead ++ g :: rest)
    (place : segmentPlace id.toNat s.rlq.queue = some ahead.length)
    (result : fixResult id.toNat offset.toNat s = .ok [BitVec.ofNat 8 ahead.length]) :
    ∃ t, exec (.positionFix tag id offset) s = .next t
      ∧ replied .positionFix tag (.ok [BitVec.ofNat 8 ahead.length]) t
      ∧ t.rlq = { queue := g :: rest, pos := some (offset.toNat * 100), dir := s.rlq.dir, uncertain := false }
      ∧ (ahead = [] → t.bld = s.bld ∧ t.snd = s.snd) ∧ t.core = s.core := by
  refine ⟨_, exec_positionFix_of_ok h result place, fixPosition_replied _ _ (answer_replied ..), ?_,
    fun alone => ?_, (fixPosition_core ..).trans (answer_core ..)⟩
  · simp [fixPosition_rlq, fixedAt, parts]
  · simp [fixPosition_eq, alone, fixedAt]

end

/-- Settles O48: the flush of an empty and of a filled queue, and the checks of a fix in their order. -/
theorem routeFlushAndFix : Obligations.RouteFlushAndFix := by
  unfold Obligations.RouteFlushAndFix
  refine ⟨fun tag s h => ⟨fun off => ?_, fun on => ?_⟩, fun tag id offset s h => ⟨fun zero => ?_,
    fun hid absent => ?_, fun ahead rest g hid parts hg before => ?_⟩⟩
  · rw [answersOnly, exec_routeFlush h, emptyRoute, if_pos (by simpa using off), off]
    rfl
  · obtain ⟨t, runs, answered, sent, route, core⟩ := routeFlush_empties (tag := tag) h on
    exact ⟨t, runs, answered, sent, route, wsc_of_core core, ref_of_core core, adh_of_core core,
      hhu_of_core core, opState_of_core core, cfg_of_core core⟩
  · exact positionFix_answersOnly h (if_pos (by simp [zero])) (by simp)
  all_goals have named : id.toNat ≠ 0 := by simpa [BitVec.toNat_eq] using hid
  · exact positionFix_answersOnly h (fixResult_of_absent named absent) (by simp)
  · have result := fixResult_of_place (offset := offset.toNat) named parts hg before
    refine ⟨fun past => ?_, fun within => ?_⟩
    · rw [if_pos past] at result
      exact positionFix_answersOnly h result (by simp)
    · rw [if_neg (by omega)] at result
      obtain ⟨t, runs, answered, route, same, core⟩ := positionFix_sets (tag := tag) h parts
        (by rw [parts]; exact segmentPlace_append hg before) result
      exact ⟨t, runs, answered, route, same, wsc_of_core core, ref_of_core core, adh_of_core core,
        hhu_of_core core, opState_of_core core, cfg_of_core core⟩

end Sys2Proof.Machine
end

section
/-! SUPPORT. A distance increment at RLQ and at SND (R43, R79 to R83, R88, R153): the segments a walk passes,
with their reports, and the increment where no arbiter grants. -/

namespace Sys2Proof.Machine

/-! The segments passed (R79, R83) -/

/-- R83: the id of each segment with the number left after it, where `n` segments stand behind them all. -/
def leaving (n : Nat) : List Segment → List (Nat × Nat)
  | [] => []
  | g :: rest => (g.id, rest.length + n) :: leaving n rest

theorem mem_leaving (n : Nat) (before : List Segment) (g : Segment) (after : List Segment) :
    (g.id, after.length + n) ∈ leaving n (before ++ g :: after) := by
  induction before with
  | nil => exact List.mem_cons_self
  | cons x before ih => exact List.mem_cons_of_mem _ ih

/-- R79: the loop splits the queue into the segments passed and those kept; their lengths and the position left
make up the position it starts from. -/
theorem retire_splits : ∀ (q : List Segment) (p : Nat), ∃ gone,
    q = gone ++ (retire q p).queue
      ∧ (gone.map Segment.length).sum * 1000 + (retire q p).pos = p
      ∧ (retire q p).passed = leaving (retire q p).queue.length gone
  | [], p => ⟨[], rfl, by simp [retire], rfl⟩
  | g :: rest, p => by
    by_cases passes : g.length * 1000 ≤ p
    · rw [retire, if_pos passes]
      obtain ⟨gone, parts, total, passed⟩ := retire_splits rest (p - g.length * 1000)
      generalize retire rest (p - g.length * 1000) = w at parts total passed ⊢
      refine ⟨g :: gone, congrArg (g :: ·) parts, ?_, ?_⟩
      · rw [List.map_cons, List.sum_cons, Nat.add_mul, Nat.add_assoc, total]
        exact Nat.add_sub_cancel' passes
      · rw [leaving, ← passed, parts, List.length_append]
    · rw [retire, if_neg passes]
      exact ⟨[], rfl, by simp, rfl⟩

theorem sum_map_length_le (before : List Segment) (g : Segment) (after : List Segment) :
    ((before ++ [g]).map Segment.length).sum ≤ ((before ++ g :: after).map Segment.length).sum := by
  simp only [List.map_append, List.map_cons, List.map_nil, List.sum_append, List.sum_cons, List.sum_nil]
  omega

/-! The reports of a walk (R83, R88) -/

theorem reportPassed_reported {l : List (Nat × Nat)} {g : Nat × Nat} (s : State) (h : g ∈ l) :
    reported (.segmentPassed g.1 g.2 s.rlq.uncertain s.nowMs) (reportPassed l s) := by
  obtain ⟨before, after, rfl⟩ := List.append_of_mem h
  rw [reportPassed, List.foldl_append, List.foldl_cons]
  exact foldl_keeps after (fun _ _ _ => sendReport_reported _) (sendReport_reported_self _ _)

/-- R79, R80: what waits once the segments passed are reported still does after the advance. -/
theorem advance_reported {r : Report} {p : Nat} {s : State}
    (h : reported r (reportPassed (retire s.rlq.queue p).passed s)) : reported r (advance p s) := by
  have keeps := stable_reported r
  unfold advance
  dsimp only
  split
  · exact segmentChange_keeps keeps (sendReport_reported _ (beyondRoute_keeps keeps h))
  · split
    · exact h
    · exact segmentChange_keeps keeps h

/-- R80, R88: the advance that passes the last segment reports ROUTE EMPTY. -/
theorem advance_reported_empty {p : Nat} {s : State} (off : (retire s.rlq.queue p).queue = []) :
    reported (.routeEmpty .passed 1 s.nowMs) (advance p s) := by
  rw [advance, if_pos off]
  exact segmentChange_keeps (stable_reported _) (sendReport_reported_self _ _)

/-- R79: an advance that passes nothing moves the position alone. -/
theorem advance_of_passes_none {p : Nat} {s : State} (on : (retire s.rlq.queue p).queue ≠ [])
    (still : (retire s.rlq.queue p).passed = []) : advance p s = { s with rlq := { s.rlq with
      queue := (retire s.rlq.queue p).queue, pos := some (retire s.rlq.queue p).pos } } := by
  rw [advance, if_neg on, if_pos still, still]
  rfl

/-! The increment at RLQ (R79 to R82) -/

theorem routeDistance_of_empty {m : Int} {s : State} (off : s.rlq.queue = []) : routeDistance m s = s :=
  if_pos off

theorem routeDistance_of_retreat {m : Int} {s : State} (on : s.rlq.queue ≠ [])
    (back : ((s.rlq.pos.getD 0 : Nat) : Int) + m < 0) :
    routeDistance m s = { s with rlq := { s.rlq with pos := some 0, uncertain := true } } := by
  rw [routeDistance, if_neg on]
  exact if_pos back

theorem routeDistance_of_sum {m : Int} {p : Nat} {s : State} (on : s.rlq.queue ≠ [])
    (hp : (p : Int) = ((s.rlq.pos.getD 0 : Nat) : Int) + m) : routeDistance m s = advance p s := by
  rw [routeDistance, if_neg on]
  dsimp only
  rw [← hp, if_neg (by omega), Int.toNat_natCast]

/-! The increment at SND (R43, R153) -/

theorem lowerSanded_snd (mm : Nat) (s : State) :
    (lowerSanded mm s).snd = { s.snd with sanded := s.snd.sanded - mm } := by
  unfold lowerSanded
  dsimp only
  split
  · exact rerun_snd _
  · rfl

theorem sandDistance_of_no_grant {mm : Nat} {s : State} (h : ∀ e, grantee s e = none) :
    sandDistance mm s = lowerSanded mm s := by
  rw [sandDistance, if_neg (by simp [h])]
  exact inSomeOrder_single _ _

/-- Settles O49: the increment at SND, and at RLQ on an empty queue, in a retreat, and along the queue that
`retire_splits` splits. -/
theorem distanceRetires : Obligations.DistanceRetires := by
  unfold Obligations.DistanceRetires
  refine ⟨fun mm s idle => by rw [sandDistance_of_no_grant idle, lowerSanded_snd], fun m s =>
    ⟨routeDistance_of_empty, routeDistance_of_retreat, fun on p hp => ?_⟩⟩
  rw [routeDistance_of_sum on hp]
  obtain ⟨gone, parts, total, passed⟩ := retire_splits s.rlq.queue p
  refine ⟨gone, (retire s.rlq.queue p).queue, parts, .inr (by omega), fun off => ?_, fun g rest kept => ?_,
    fun still => ?_, fun before g after hgone => ?_⟩
  · exact ⟨by rw [advance_rlq, if_pos off]; rfl, advance_reported_empty off⟩
  · have left : p - (gone.map Segment.length).sum * 1000 = (retire s.rlq.queue p).pos := by omega
    rw [left, advance_rlq, if_neg (by simp [kept])]
    exact ⟨retire_pos _ _ kept, rfl⟩
  · subst still
    have all : (retire s.rlq.queue p).queue = s.rlq.queue := parts.symm
    have stays : (retire s.rlq.queue p).pos = p := by simpa using total
    rw [advance_of_passes_none (by rwa [all]) passed, all, stays]
  · have reaches := sum_map_length_le before g after
    rw [← hgone] at reaches
    have member := mem_leaving (retire s.rlq.queue p).queue.length before g after
    rw [← hgone, ← passed] at member
    exact ⟨by omega, advance_reported (reportPassed_reported s member)⟩

end Sys2Proof.Machine
end

section
/-! SUPPORT. The allocation (R97, R99 to R111): the split rule, the state the four stages leave in each demand mode,
and what a re-run in ACTIVE keeps of it. -/

namespace Sys2Proof.Machine

/-! The split rule (R102) -/

theorem split_of_le {total capA capB : Nat} (h : total ≤ capA + capB) :
    (split total capA capB).a = min capA (total - min capB (total / 2))
    ∧ (split total capA capB).b = total - (split total capA capB).a
    ∧ (split total capA capB).a + (split total capA capB).b = total
    ∧ (split total capA capB).a ≤ capA ∧ (split total capA capB).b ≤ capB := by
  have a : (split total capA capB).a = min capA (total - min capB (total / 2)) := rfl
  have b : (split total capA capB).b = total - (split total capA capB).a := rfl
  refine ⟨a, b, ?_⟩
  omega

/-- R108: what the trailer leaves is split between the motor bogies, within the headrooms. -/
theorem placeFriction_spec (toPlace hT hA hB : Nat) {f : PerBogie Nat} (hf : placeFriction toPlace hT hA hB = f) :
    f.t = min toPlace hT
    ∧ f.a + f.b = min (toPlace - f.t) (hA + hB)
    ∧ f.a = min hA ((f.a + f.b) - min hB ((f.a + f.b) / 2))
    ∧ f.b ≤ hB ∧ f.a + f.t + f.b ≤ toPlace := by
  subst hf
  obtain ⟨a, -, total, -, b⟩ := split_of_le (Nat.min_le_right (toPlace - min toPlace hT) (hA + hB))
  have t : (placeFriction toPlace hT hA hB).t = min toPlace hT := rfl
  have motors : (placeFriction toPlace hT hA hB).a + (placeFriction toPlace hT hA hB).b
      = min (toPlace - min toPlace hT) (hA + hB) := total
  refine ⟨t, by rw [motors, t], by rw [motors]; exact a, b, ?_⟩
  omega

/-! Stage 1 and the effort under an open loop (R97, R100, R101) -/

/-- R97: the effort after stage 1. -/
def cappedEffort (s : State) : Nat :=
  if s.eblOpen ∧ s.bld.demand.latch = some .loop ∧ (stageCaps s).bld.cap ≠ s.bld.cap then
    (stageCaps s).bld.cap.sum
  else s.bld.demand.effort

/-- The state that stages 2 to 4 begin with. -/
def capped (s : State) : State :=
  { s with bld := { s.bld with
      demand := { s.bld.demand with effort := cappedEffort s }
      mu := (stageCaps s).bld.mu, fmax := (stageCaps s).bld.fmax, cap := (stageCaps s).bld.cap } }

theorem followCaps_stageCaps (s : State) : followCaps s.bld.cap (stageCaps s) = capped s := by
  unfold followCaps capped cappedEffort
  by_cases follows : s.eblOpen ∧ s.bld.demand.latch = some .loop ∧ (stageCaps s).bld.cap ≠ s.bld.cap
  · rw [if_pos follows, if_pos (by exact follows)]
    rfl
  · rw [if_neg follows, if_neg (by exact follows)]
    rfl

theorem mu_of_vehicle {s : State} {v : Vehicle} (taken : s.sfc.cfg.vehicle = some v) :
    (stageCaps s).bld.mu = min 400 ((match s.rlq.queue with
        | [] => v.mu.unknown
        | g :: _ => g.override.getD (v.mu.get g.condition))
      + if 0 < s.snd.sanded then v.sandBonus else 0) := by
  have start : adhesionCoefficient s = min 400 (s.override.getD (v.mu.get s.condition)
      + if 0 < s.snd.sanded then v.sandBonus else 0) := by
    rw [adhesionCoefficient, taken]
  refine start.trans ?_
  rw [State.override, State.condition, State.headSegment]
  cases s.rlq.queue <;> rfl

/-! The stages in each demand mode (R102 to R111) -/

/-- R99: the allocation before the pressure outputs are aimed. -/
def allocated (s : State) : State := trackTimers (stageFriction (stageInverters (trackMode (capped s))))

/-- R106, R109 to R111: the track brakes off, with no friction and no ED brake. -/
def unbraked (d : Bld) : Bld :=
  { d with
    ed := ⟨0, 0⟩, modeBrake := false, achieved := ⟨0, 0⟩, toPlace := 0, friction := ⟨0, 0, 0⟩
    unfulfilled := 0
    track := false, onTimer := none, offTimer := none }

section

variable {s : State}

theorem allocated_of_coast (coasts : s.mode = .coast) : allocated s = { s with bld := { unbraked (capped s).bld with
    drive := ⟨0, 0⟩, deficit := 0, duty := ⟨0, 0⟩, modeDrive := false } } := by
  have mode : (capped s).mode = .coast := coasts
  unfold State.mode at mode
  simp only [allocated, trackMode, stageInverters, stageFriction, trackTimers, State.mode, mode]
  rfl

theorem allocated_of_drive (drives : s.mode = .drive) : allocated s = { s with bld := { unbraked (capped s).bld with
    drive := driveSplit (capped s)
    deficit := cappedEffort s - ((driveSplit (capped s)).a + (driveSplit (capped s)).b)
    duty := ⟨dutyOf (driveSplit (capped s)).a s.blend.driveMax.a,
      dutyOf (driveSplit (capped s)).b s.blend.driveMax.b⟩
    modeDrive := decide (0 < (driveSplit (capped s)).a + (driveSplit (capped s)).b) } } := by
  have mode : (capped s).mode = .drive := drives
  unfold State.mode at mode
  simp only [allocated, trackMode, stageInverters, stageFriction, trackTimers, State.mode, mode]
  rfl

/-- R109 to R111: the track brakes as stage 3 finds them. -/
def tracked (s : State) : State := trackMode (capped s)

/-- R106 to R108: the force to place and the friction placed. -/
def forceToPlace (s : State) : Nat :=
  cappedEffort s - achievedForce s .a - achievedForce s .b - trackForce (tracked s)

def frictionPlaced (s : State) : PerBogie Nat :=
  placeFriction (forceToPlace s) (headroom (capped s) 0 .t) (headroom (capped s) (achievedForce s .a) .a)
    (headroom (capped s) (achievedForce s .b) .b)

/-- R104 to R108: BLD after stages 1 to 3 in BRAKE and in EMERGENCY, before the track-brake timers are judged. -/
def braked (s : State) : State :=
  { s with bld := { (tracked s).bld with
      drive := ⟨0, 0⟩, deficit := 0, modeDrive := false
      ed := edSplit (capped s)
      duty := ⟨dutyOf (edSplit (capped s)).a s.blend.edMax.a, dutyOf (edSplit (capped s)).b s.blend.edMax.b⟩
      modeBrake := decide (0 < (edSplit (capped s)).a + (edSplit (capped s)).b)
      achieved := ⟨achievedForce s .a, achievedForce s .b⟩
      toPlace := forceToPlace s, friction := frictionPlaced s
      unfulfilled := forceToPlace s - (frictionPlaced s).sum } }

theorem tracked_cases (s : State) : ∃ track on off, tracked s
    = { s with bld := { (capped s).bld with track := track, onTimer := on, offTimer := off } } := by
  unfold tracked trackMode
  split
  · exact ⟨_, _, _, rfl⟩
  · exact ⟨_, _, _, rfl⟩
  · exact ⟨_, _, _, rfl⟩

theorem allocated_of_braking (brakes : s.mode = .brake ∨ s.mode = .emergency) :
    allocated s = trackTimers (braked s) := by
  unfold allocated
  congr 1
  have place : forceToPlace s = cappedEffort s - achievedForce s .a - achievedForce s .b
    - trackForce (tracked s) := rfl
  unfold braked
  rw [frictionPlaced, place]
  change stageFriction (stageInverters (tracked s)) = _
  obtain ⟨track, on, off, h⟩ := tracked_cases s
  rw [h]
  unfold State.mode at brakes
  have mode : (capped s).bld.demand.mode = s.bld.demand.mode := rfl
  rcases brakes with brakes | brakes
  all_goals
    simp only [stageInverters, stageFriction, State.mode, mode, brakes]
    rfl

/-- R109, R110: the timers follow the unfulfilled force and change nothing else. -/
theorem trackTimers_eq (s : State) : trackTimers s = { s with bld := { s.bld with
    onTimer := (trackTimers s).bld.onTimer, offTimer := (trackTimers s).bld.offTimer } } := by
  unfold trackTimers
  split
  · split <;> rfl
  · rfl

theorem runWhile_eq (s : State) (run : Bool) (ms : Nat) (t : Timer) :
    runWhile s run ms t = if run then some (t.getD (s.clock + ms * 1000)) else none := by
  cases t <;> rfl

end

/-- `t` is `s` with stage 1 taken and whatever stages 2 and 3 compute. -/
abbrev StagesTaken (s t : State) : Prop := t = { s with bld := { t.bld with
  demand := { s.bld.demand with effort := cappedEffort s }
  mu := (stageCaps s).bld.mu, fmax := (stageCaps s).bld.fmax, cap := (stageCaps s).bld.cap, out := s.bld.out } }

theorem braked_stagesTaken (s : State) : StagesTaken s (trackTimers (braked s)) := by
  obtain ⟨track, on, off, h⟩ := tracked_cases s
  unfold StagesTaken
  rw [trackTimers_eq, braked, h]
  rfl

theorem allocated_stagesTaken (s : State) : StagesTaken s (allocated s) := by
  unfold StagesTaken
  cases mode : s.mode with
  | coast => rw [allocated_of_coast mode]; rfl
  | drive => rw [allocated_of_drive mode]; rfl
  | brake => rw [allocated_of_braking (.inl mode)]; exact braked_stagesTaken s
  | emergency => rw [allocated_of_braking (.inr mode)]; exact braked_stagesTaken s

/-! Stage 4 (R112 to R115) -/

/-- R113, R114: an aimed output, with its supervision, and nothing else. -/
theorem aimOutput_changes (cause : AimCause) (x : Bogie) (goal : Nat) (s : State) : ∃ o v,
    aimOutput cause x goal s = { s with
      bld := { s.bld with out := s.bld.out.set x o }, afe := { s.afe with sup := s.afe.sup.set x v } } := by
  have jump : ∃ o v, jumpOutput x goal s = { s with
      bld := { s.bld with out := s.bld.out.set x o }, afe := { s.afe with sup := s.afe.sup.set x v } } := by
    refine ⟨.steady goal, ⟨false, .running (s.clock + 300000), none, none, (s.afe.sup.get x).cause⟩, ?_⟩
    simp only [jumpOutput, outputSteady, outputMoving, State.setSup, State.setOutput, PerBogie.set_set,
      PerBogie.get_set_self]
  have same : ∃ o v, s = { s with
      bld := { s.bld with out := s.bld.out.set x o }, afe := { s.afe with sup := s.afe.sup.set x v } } :=
    ⟨s.bld.out.get x, s.afe.sup.get x, by rw [PerBogie.set_get_self, PerBogie.set_get_self]⟩
  unfold aimOutput
  split
  · exact same
  · dsimp only
    split_ifs
    · exact jump
    · exact same
    · exact jump
    · exact ⟨_, _, rfl⟩

theorem aimOutput_get_ne (cause : AimCause) {x y : Bogie} (goal : Nat) (s : State) (h : y ≠ x) :
    (aimOutput cause x goal s).bld.out.get y = s.bld.out.get y
    ∧ (aimOutput cause x goal s).afe.sup.get y = s.afe.sup.get y := by
  obtain ⟨o, v, e⟩ := aimOutput_changes cause x goal s
  rw [e]
  exact ⟨PerBogie.get_set_ne _ _ h, PerBogie.get_set_ne _ _ h⟩

/-- What the aiming of a bogie's output reads. -/
structure AimSees (x : Bogie) (s u : State) : Prop where
  out : u.bld.out.get x = s.bld.out.get x
  sup : u.afe.sup.get x = s.afe.sup.get x
  clock : u.clock = s.clock
  cfg : u.sfc.cfg = s.sfc.cfg
  mode : u.mode = s.mode

theorem aimOutput_congr {x : Bogie} {s u : State} (h : AimSees x s u) (cause : AimCause) (goal : Nat) :
    (aimOutput cause x goal u).bld.out.get x = (aimOutput cause x goal s).bld.out.get x
    ∧ (aimOutput cause x goal u).afe.sup.get x = (aimOutput cause x goal s).afe.sup.get x := by
  have now : u.nowMs = s.nowMs := by rw [State.nowMs, State.nowMs, h.clock]
  have pressure : u.pressure x = s.pressure x := by
    rw [State.pressure, State.pressure, h.out, now, State.blend, State.blend, h.cfg]
  have steady : ∀ {w v : State}, w.clock = v.clock → w.afe.sup.get x = v.afe.sup.get x →
      (jumpOutput x goal w).bld.out.get x = (jumpOutput x goal v).bld.out.get x
      ∧ (jumpOutput x goal w).afe.sup.get x = (jumpOutput x goal v).afe.sup.get x := by
    intro w v clock sup
    simp [jumpOutput, outputSteady, outputMoving, State.setSup, State.setOutput, clock, sup]
  unfold aimOutput
  rw [h.out]
  split
  · exact ⟨h.out, h.sup⟩
  · simp only [pressure, h.mode, now]
    split_ifs
    · exact steady h.clock h.sup
    · exact ⟨h.out, h.sup⟩
    · exact steady h.clock h.sup
    · simp [outputMoving, State.setSup, State.setOutput, h.sup]

/-- R99: a re-run aims each output once, at its target, from its value before. -/
theorem stagePressures_get (cause : PerBogie AimCause) (s : State) (x : Bogie) :
    (stagePressures cause s).bld.out.get x = (aimOutput (cause.get x) x (target s x) s).bld.out.get x
    ∧ (stagePressures cause s).afe.sup.get x = (aimOutput (cause.get x) x (target s x) s).afe.sup.get x := by
  have sees : ∀ (y z : Bogie) (u : State), z ≠ y → AimSees z s u →
      AimSees z s (aimOutput (cause.get y) y (target s y) u) := by
    intro y z u ne h
    obtain ⟨out, sup⟩ := aimOutput_get_ne (cause.get y) (target s y) u ne
    obtain ⟨o, v, e⟩ := aimOutput_changes (cause.get y) y (target s y) u
    exact ⟨out.trans h.out, sup.trans h.sup, by rw [e]; exact h.clock, by rw [e]; exact h.cfg,
      by rw [e]; exact h.mode⟩
  have self : ∀ z, AimSees z s s := fun z => ⟨rfl, rfl, rfl, rfl, rfl⟩
  have after : ∀ (y z : Bogie) {u : State}, z ≠ y →
      (aimOutput (cause.get y) y (target s y) u).bld.out.get z = u.bld.out.get z
      ∧ (aimOutput (cause.get y) y (target s y) u).afe.sup.get z = u.afe.sup.get z :=
    fun y z u ne => aimOutput_get_ne _ _ u ne
  rw [stagePressures, Bogie.all]
  simp only [List.foldl]
  cases x with
  | a => rw [(after .b .a nofun).1, (after .b .a nofun).2, (after .t .a nofun).1, (after .t .a nofun).2]
         exact ⟨rfl, rfl⟩
  | t => rw [(after .b .t nofun).1, (after .b .t nofun).2]
         exact aimOutput_congr (sees .a .t s nofun (self .t)) _ _
  | b => exact aimOutput_congr (sees .t .b _ nofun (sees .a .b s nofun (self .b))) _ _

theorem stagePressures_changes (cause : PerBogie AimCause) (s : State) : ∃ out sup, stagePressures cause s
    = { s with bld := { s.bld with out := out }, afe := { s.afe with sup := sup } } := by
  refine foldl_keeps (P := fun t => ∃ out sup, t
    = { s with bld := { s.bld with out := out }, afe := { s.afe with sup := sup } }) Bogie.all (fun x _ t h => ?_)
    ⟨_, _, rfl⟩
  obtain ⟨out, sup, rfl⟩ := h
  obtain ⟨o, v, e⟩ := aimOutput_changes (cause.get x) x (target s x)
    { s with bld := { s.bld with out := out }, afe := { s.afe with sup := sup } }
  exact ⟨_, _, e⟩

/-! The re-run (R99) -/

theorem rerunWith_of_active {s : State} (cause : PerBogie AimCause) (active : s.sfc.opState = .active) :
    rerunWith cause s = stagePressures cause (allocated s) := by
  unfold rerunWith allocated
  rw [if_pos ((isActive_iff s).mpr active), ← followCaps_stageCaps]

theorem rerunWith_of_not_active {s : State} (cause : PerBogie AimCause) (idle : s.sfc.opState ≠ .active) :
    rerunWith cause s = stageCaps s := by
  unfold rerunWith
  rw [if_neg fun h => idle ((isActive_iff s).mp h)]

/-- Stages 2 and 3 stand as `allocated` says; stage 4 changes the outputs and their supervision. -/
theorem rerunWith_changes {s : State} (cause : PerBogie AimCause) (active : s.sfc.opState = .active) :
    ∃ out sup, rerunWith cause s
      = { s with bld := { (allocated s).bld with out := out }, afe := { s.afe with sup := sup } } := by
  obtain ⟨out, sup, h⟩ := stagePressures_changes cause (allocated s)
  refine ⟨out, sup, ?_⟩
  rw [rerunWith_of_active cause active, h, allocated_stagesTaken s]

end Sys2Proof.Machine
end

section
/-! SUPPORT. The settlement of the allocation (R97, R99 to R115). -/

namespace Sys2Proof.Machine

/-! A re-run at the track brakes (R109 to R111) -/

theorem allocated_track_off {s : State} (h : s.mode = .coast ∨ s.mode = .drive
    ∨ (s.mode = .brake ∧ s.bld.demand.permitted = false)) :
    (allocated s).bld.track = false ∧ (allocated s).bld.onTimer = none ∧ (allocated s).bld.offTimer = none := by
  rcases h with h | h | ⟨h, denied⟩
  · rw [allocated_of_coast h]; exact ⟨rfl, rfl, rfl⟩
  · rw [allocated_of_drive h]; exact ⟨rfl, rfl, rfl⟩
  · rw [allocated_of_braking (.inl h)]
    have mode : (capped s).bld.demand.mode = .brake := h
    have permitted : (capped s).bld.demand.permitted = false := denied
    simp [trackTimers, braked, tracked, trackMode, State.mode, mode, permitted]

theorem allocated_track_of_emergency {s : State} (h : s.mode = .emergency) :
    (allocated s).bld.track = true ∧ (allocated s).bld.onTimer = none ∧ (allocated s).bld.offTimer = none := by
  rw [allocated_of_braking (.inr h)]
  have mode : (capped s).bld.demand.mode = .emergency := h
  simp [trackTimers, braked, tracked, trackMode, State.mode, mode]

/-- R109, R110: with the permission the track brakes stay as they are, and one of the two timers may run. -/
theorem allocated_track_of_permitted {s : State} (h : s.mode = .brake) (permitted : s.bld.demand.permitted = true) :
    (allocated s).bld.track = s.bld.track
    ∧ (s.bld.track = false → (allocated s).bld.offTimer = none
      ∧ (allocated s).bld.onTimer = if s.blend.uTb ≤ (allocated s).bld.unfulfilled
          then some (s.bld.onTimer.getD (s.clock + 500000)) else none)
    ∧ (s.bld.track = true → (allocated s).bld.onTimer = none
      ∧ (allocated s).bld.offTimer = if (allocated s).bld.unfulfilled = 0
          then some (s.bld.offTimer.getD (s.clock + 1000000)) else none) := by
  have mode : (capped s).bld.demand.mode = .brake := h
  have asked : (capped s).bld.demand.permitted = true := permitted
  have kept : tracked s = capped s := by simp [tracked, trackMode, State.mode, mode, asked]
  have track : (braked s).bld.track = s.bld.track := by rw [braked, kept]; rfl
  have judged : trackTimers (braked s) = if s.bld.track then
      { braked s with bld := { (braked s).bld with
        onTimer := none
        offTimer := runWhile (braked s) ((braked s).bld.unfulfilled = 0) 1000 (braked s).bld.offTimer } }
    else { braked s with bld := { (braked s).bld with
        onTimer := runWhile (braked s) ((braked s).blend.uTb ≤ (braked s).bld.unfulfilled) 500 (braked s).bld.onTimer
        offTimer := none } } := by
    have bmode : (braked s).mode = .brake := by rw [braked, kept]; exact h
    have basked : (braked s).bld.demand.permitted = true := by rw [braked, kept]; exact permitted
    rw [trackTimers, bmode, basked, track]
  rw [allocated_of_braking (.inl h), judged]
  have on : (braked s).bld.onTimer = s.bld.onTimer := by rw [braked, kept]; rfl
  have off : (braked s).bld.offTimer = s.bld.offTimer := by rw [braked, kept]; rfl
  cases brakes : s.bld.track with
  | false =>
    refine ⟨track.trans brakes, fun _ => ⟨rfl, ?_⟩, nofun⟩
    simp only [Bool.false_eq_true, if_false, runWhile_eq, on, decide_eq_true_eq]
    rfl
  | true =>
    refine ⟨track.trans brakes, nofun, fun _ => ⟨rfl, ?_⟩⟩
    simp only [if_true, runWhile_eq, off, decide_eq_true_eq]
    rfl

/-- Settles O30: stage 1 is `stageCaps`; in ACTIVE the effort is `cappedEffort`, and the track brakes stand as each
mode leaves them. -/
theorem rerunCapsAndTrack : Obligations.RerunCapsAndTrack := by
  unfold Obligations.RerunCapsAndTrack
  rintro cause s t rfl
  have stage1 : (rerunWith cause s).bld.mu = (stageCaps s).bld.mu
      ∧ (rerunWith cause s).bld.fmax = (stageCaps s).bld.fmax
      ∧ (rerunWith cause s).bld.cap = (stageCaps s).bld.cap
      ∧ (rerunWith cause s).bld.demand = { s.bld.demand with effort := (rerunWith cause s).bld.demand.effort }
      ∧ rerunWith cause s = { s with
          bld := (rerunWith cause s).bld, afe := { s.afe with sup := (rerunWith cause s).afe.sup } } := by
    by_cases active : s.sfc.opState = .active
    · obtain ⟨out, sup, h⟩ := rerunWith_changes cause active
      rw [h, allocated_stagesTaken s]
      exact ⟨rfl, rfl, rfl, rfl, rfl⟩
    · rw [rerunWith_of_not_active cause active]
      exact ⟨rfl, rfl, rfl, rfl, rfl⟩
  obtain ⟨mu, fmax, cap, demand, changes⟩ := stage1
  refine ⟨changes, fun absent => ?_, fun v present => mu.trans (mu_of_vehicle present), fun x => ?_, fun x => ?_,
    fun idle => ?_, demand, fun active => ?_, fun active emergency => ?_, fun active off => ?_,
    fun active brakes permitted => ?_⟩
  · rw [mu]
    show adhesionCoefficient s = 0
    rw [adhesionCoefficient, absent]
  · rw [fmax, mu]
    exact PerBogie.get_of _ x
  · rw [cap, fmax]
    exact PerBogie.get_of _ x
  · rw [rerunWith_of_not_active cause idle]
    rfl
  · obtain ⟨out, sup, h⟩ := rerunWith_changes cause active
    rw [cap, h, allocated_stagesTaken s]
    rfl
  · obtain ⟨out, sup, h⟩ := rerunWith_changes cause active
    rw [h]
    exact allocated_track_of_emergency emergency
  · obtain ⟨out, sup, h⟩ := rerunWith_changes cause active
    rw [h]
    exact allocated_track_off off
  · obtain ⟨out, sup, h⟩ := rerunWith_changes cause active
    rw [h]
    exact allocated_track_of_permitted brakes permitted

/-! A re-run in drive (R102, R103) -/

theorem driveSplit_capped (s : State) : driveSplit (capped s) = if s.hhu.state = .rollbackCatch then ⟨0, 0⟩
    else split (min (cappedEffort s) (min (capped s).bld.cap.a s.blend.driveMax.a
        + min (capped s).bld.cap.b s.blend.driveMax.b))
      (min (capped s).bld.cap.a s.blend.driveMax.a) (min (capped s).bld.cap.b s.blend.driveMax.b) := rfl

theorem dutyOf_of_pos (request : Nat) {limit : Nat} (some : 0 < limit) :
    dutyOf request limit = (2 * (request * 1000) + limit) / (2 * limit) := if_neg some.ne'

/-- Settles O31: BLD after a re-run is `allocated`, of which each demand mode has its equation. -/
theorem rerunDrive : Obligations.RerunDrive := by
  unfold Obligations.RerunDrive
  rintro cause s t rfl active
  obtain ⟨out, sup, h⟩ := rerunWith_changes cause active
  rw [h]
  refine ⟨fun drives => ?_, fun other => ?_, fun coasts => ?_⟩
  · rw [allocated_of_drive drives]
    refine ⟨fun caught => ?_, fun free dA dB T hA hB hT => ?_, rfl, rfl, rfl, dutyOf_of_pos _, dutyOf_of_pos _⟩
    · show driveSplit (capped s) = ⟨0, 0⟩
      rw [driveSplit_capped, if_pos caught]
    · have requests : driveSplit (capped s) = split T dA dB := by
        rw [driveSplit_capped, if_neg free, hT, hA, hB]
        rfl
      rw [requests]
      exact split_of_le (hT ▸ Nat.min_le_right _ _)
  · have braking (brakes : s.mode = .brake ∨ s.mode = .emergency) :
        (allocated s).bld.drive = ⟨0, 0⟩ ∧ (allocated s).bld.deficit = 0
          ∧ (allocated s).bld.modeDrive = false := by
      rw [allocated_of_braking brakes, trackTimers_eq]
      exact ⟨rfl, rfl, rfl⟩
    cases mode : s.mode with
    | coast => rw [allocated_of_coast mode]; exact ⟨rfl, rfl, rfl⟩
    | drive => exact absurd mode other
    | brake => exact braking (.inl mode)
    | emergency => exact braking (.inr mode)
  · rw [allocated_of_coast coasts]
    exact ⟨rfl, rfl⟩

/-! A re-run in brake (R104 to R108) -/

/-- R104 to R108: what stages 2 and 3 leave of the brake, whatever the track-brake timers do then. -/
theorem allocated_brake {s : State} (brakes : s.mode = .brake ∨ s.mode = .emergency) :
    (allocated s).bld.ed = edSplit (capped s)
    ∧ (allocated s).bld.modeBrake = decide (0 < (edSplit (capped s)).a + (edSplit (capped s)).b)
    ∧ (allocated s).bld.duty
      = ⟨dutyOf (edSplit (capped s)).a s.blend.edMax.a, dutyOf (edSplit (capped s)).b s.blend.edMax.b⟩
    ∧ (allocated s).bld.achieved = ⟨achievedForce s .a, achievedForce s .b⟩
    ∧ (allocated s).bld.toPlace = cappedEffort s - achievedForce s .a - achievedForce s .b
        - (if (allocated s).bld.track then s.blend.fTb.a + s.blend.fTb.b else 0)
    ∧ (allocated s).bld.friction = placeFriction (allocated s).bld.toPlace (headroom (capped s) 0 .t)
        (headroom (capped s) (achievedForce s .a) .a) (headroom (capped s) (achievedForce s .b) .b)
    ∧ (allocated s).bld.unfulfilled = (allocated s).bld.toPlace - (allocated s).bld.friction.sum := by
  have track : trackForce (tracked s)
      = if (tracked s).bld.track then s.blend.fTb.a + s.blend.fTb.b else 0 := by
    obtain ⟨_, _, _, h⟩ := tracked_cases s
    rw [h]
    rfl
  rw [allocated_of_braking brakes, trackTimers_eq]
  refine ⟨rfl, rfl, rfl, rfl, ?_, rfl, rfl⟩
  show forceToPlace s = _
  rw [forceToPlace, track]
  rfl

/-- Settles O32: the ED requests and the friction are the split rule's, at `split_of_le` and `placeFriction_spec`. -/
theorem rerunBrake : Obligations.RerunBrake := by
  unfold Obligations.RerunBrake
  refine ⟨fun edMax vFade vZero v gap => ⟨fun full => if_pos full, fun zero => ?_, fun above below => ?_⟩, ?_⟩
  · rw [fadeCap, if_neg (by omega), if_pos zero]
  · rw [fadeCap, if_neg (by omega), if_neg (by omega), roundDown]
  · rintro cause s t rfl active
    obtain ⟨out, sup, h⟩ := rerunWith_changes cause active
    rw [h]
    have cap : (allocated s).bld.cap = (capped s).bld.cap := by rw [allocated_stagesTaken s]; rfl
    have effort : (allocated s).bld.demand.effort = cappedEffort s := by rw [allocated_stagesTaken s]
    refine ⟨fun free => ?_, fun brakes cA cB T eA eB hA hT hB hcA hcB hT' heA heB hhA hhT hhB => ?_⟩
    · rcases free with mode | mode
      · rw [allocated_of_coast mode]; exact ⟨rfl, rfl, rfl, rfl⟩
      · rw [allocated_of_drive mode]; exact ⟨rfl, rfl, rfl, rfl⟩
    · obtain ⟨ed, modeBrake, duty, achieved, toPlace, friction, unfulfilled⟩ := allocated_brake brakes
      dsimp only at hcA hcB hT' hhA hhT hhB ⊢
      rw [cap] at hcA hcB hhA hhT hhB
      rw [effort] at hT' ⊢
      have requests : edSplit (capped s) = split T cA cB := by subst hcA hcB hT'; rfl
      obtain ⟨a, -, total, -, b⟩ := split_of_le (hT' ▸ Nat.min_le_right (cappedEffort s) (cA + cB))
      have hEA : achievedForce s .a = eA := heA.symm
      have hEB : achievedForce s .b = eB := heB.symm
      have hHA : headroom (capped s) eA .a = hA := hhA.symm
      have hHT : headroom (capped s) 0 .t = hT := hhT.symm
      have hHB : headroom (capped s) eB .b = hB := hhB.symm
      rw [hEA, hEB] at toPlace friction achieved
      rw [hHA, hHT, hHB] at friction
      rw [requests] at ed modeBrake duty
      obtain ⟨ft, motors, fa, fb, within⟩ := placeFriction_spec _ _ _ _ friction.symm
      rw [ed, modeBrake, duty, total]
      refine ⟨a, rfl, b, rfl, rfl, rfl, achieved, toPlace, ft, motors, fa, fb, unfulfilled,
        within.trans (toPlace.le.trans (Nat.sub_le _ _))⟩

end Sys2Proof.Machine
end

section
/-! SUPPORT. The settlement of the pressure outputs (R112 to R115). -/

namespace Sys2Proof.Machine

theorem value_of_rise {jerk start aim : Nat} {now since : Time} (rises : start ≤ aim) :
    Output.value jerk now (.ramp start since aim) = min aim (start + jerk * (now - since).toNat / 1000) :=
  if_pos rises

theorem value_of_fall {jerk start aim : Nat} {now since : Time} (falls : aim < start) :
    Output.value jerk now (.ramp start since aim) = max aim (start - jerk * (now - since).toNat / 1000) :=
  if_neg (Nat.not_le.mpr falls)

section

variable {s : State} {x : Bogie} {goal : Nat}

/-- R113, R114: what the aiming of an output that is present comes down to. -/
theorem aimOutput_of_present (cause : AimCause) (here : s.bld.out.get x ≠ .absent) : aimOutput cause x goal s =
    if cause = .caught ∧ s.pressure x < goal then jumpOutput x goal s
    else if (s.bld.out.get x).aim = goal then s
    else if (s.mode = .emergency ∧ cause ≠ .valveClosed ∧ s.pressure x < goal) ∨ s.pressure x = goal then
      jumpOutput x goal s
    else outputMoving x (s.setOutput x (.ramp (s.pressure x) s.nowMs goal)) := by
  unfold aimOutput
  split
  · next absent => exact absurd absent here
  · rfl

theorem jumpOutput_out : (jumpOutput x goal s).bld.out.get x = .steady goal :=
  PerBogie.get_set_self _ x _

theorem rampedOutput_out (o : Output) : (outputMoving x (s.setOutput x o)).bld.out.get x = o :=
  PerBogie.get_set_self _ x _

theorem rampedOutput_moving (o : Output) : ((outputMoving x (s.setOutput x o)).afe.sup.get x).moving = true := by
  rw [outputMoving, State.setSup]
  exact congrArg Supervision.moving (PerBogie.get_set_self _ x _)

end

/-- R112: the target needs nothing that stage 4 changes. -/
theorem target_stagePressures (cause : PerBogie AimCause) (s : State) (x : Bogie) :
    target (stagePressures cause s) x = target s x := by
  obtain ⟨out, sup, h⟩ := stagePressures_changes cause s
  rw [h]
  rfl

/-- Settles O33: the aiming of an output has one equation, `aimOutput_of_present`, and a re-run aims each output
once, by `stagePressures_get`. -/
theorem pressureOutputs : Obligations.PressureOutputs := by
  unfold Obligations.PressureOutputs
  refine ⟨fun s x => rfl, fun jerk start aim now since => ⟨value_of_rise, value_of_fall⟩,
    fun x goal s here => ⟨fun aimed => ?_, fun turned away calm => ?_, fun turned emergency low => ?_, fun low => ?_,
      fun turned away => ?_⟩,
    ?_, fun x start aim since s ramps reached => ?_⟩
  · rw [aimOutput_of_present _ here, if_neg (fun c => nomatch c.1), if_pos aimed]
  · rw [aimOutput_of_present _ here, if_neg (fun c => nomatch c.1), if_neg turned,
      if_neg (not_or.mpr ⟨fun c => calm ⟨c.1, c.2.2⟩, away⟩)]
    exact ⟨rampedOutput_out _, rampedOutput_moving _⟩
  · rw [aimOutput_of_present _ here, if_neg (fun c => nomatch c.1), if_neg turned,
      if_pos (.inl ⟨emergency, nofun, low⟩)]
    exact jumpOutput_out
  · rw [aimOutput_of_present _ here, if_pos ⟨rfl, low⟩]
    exact jumpOutput_out
  · rw [aimOutput_of_present _ here, if_neg (fun c => nomatch c.1), if_neg turned,
      if_neg (not_or.mpr ⟨fun c => c.2.1 rfl, away⟩)]
    exact rampedOutput_out _
  · rintro cause s t rfl active x
    have sees : AimSees x s (allocated s) := by
      rw [allocated_stagesTaken s]
      exact ⟨rfl, rfl, rfl, rfl, rfl⟩
    obtain ⟨out, sup⟩ := stagePressures_get cause (allocated s) x
    obtain ⟨sameOut, sameSup⟩ := aimOutput_congr sees (cause.get x) (target (allocated s) x)
    rw [rerunWith_of_active cause active, target_stagePressures]
    exact ⟨out.trans sameOut, sup.trans sameSup⟩
  · have due : rampReached s x = true := by
      rw [rampReached, ramps]
      exact decide_eq_true reached
    show Host.Outcome.next (whenDue (.pressureRampCompletion x) (completeRamp x) s) = _
    rw [whenDue, expiryDue, if_pos due, completeRamp, ramps]
    rfl

end Sys2Proof.Machine
end

section
/-! SUPPORT. What the deliveries of a change of the demand record (R93, R94) leave of SND, STU and the effort under
an open loop: two relations that every delivery's work keeps, and the order of the deliveries around one of them. -/

namespace Sys2Proof.Machine

/-! The deliveries around one of them (log 3) -/

theorem inSomeOrder_perm (l : List (State → State)) (s : State) : ∃ n m, m.Perm l
    ∧ inSomeOrder l s = inOrder m { s with free := n } := by
  unfold inSomeOrder
  split
  · exact ⟨s.free, l, .refl l, rfl⟩
  · obtain ⟨n, hn⟩ := drawFrom_changes_free Config.freeOrder s
    exact ⟨n, _, arrange_perm _ _ _ rfl, by rw [← hn]⟩

/-- The deliveries taken before one of them, that one, and those taken after it. -/
theorem inSomeOrder_around {l : List (State → State)} {f : State → State} {rest : List (State → State)}
    (h : l.Perm (f :: rest)) (s : State) : ∃ n before after, (∀ g ∈ before ++ after, g ∈ rest)
    ∧ inSomeOrder l s = inOrder after (f (inOrder before { s with free := n })) := by
  obtain ⟨n, m, hm, e⟩ := inSomeOrder_perm l s
  obtain ⟨before, after, rfl⟩ := List.append_of_mem ((hm.trans h).mem_iff.mpr List.mem_cons_self)
  have others : (before ++ after).Perm rest := (List.perm_middle.symm.trans (hm.trans h)).cons_inv
  refine ⟨n, before, after, fun g hg => others.mem_iff.mp hg, ?_⟩
  rw [e, inOrder, List.foldl_append]
  rfl

/-! What an event's work leaves of the sand queue and of the effort that follows the caps (R97, R137, R142) -/

/-- The repeat timer stays, and an entry is of a source that has one already, or of `source`. -/
abbrev SandGrows (source : SandSource) (d d' : Snd) : Prop :=
  d'.repeatTimer = d.repeatTimer ∧ ∀ y ∈ d'.queue, y.source = source ∨ ∃ z ∈ d.queue, z.source = y.source

theorem SandGrows.refl (source : SandSource) (d : Snd) : SandGrows source d d :=
  ⟨rfl, fun y hy => .inr ⟨y, hy, rfl⟩⟩

theorem SandGrows.trans {source : SandSource} {d d' d'' : Snd} (a : SandGrows source d d')
    (b : SandGrows source d' d'') : SandGrows source d d'' := by
  refine ⟨b.1.trans a.1, fun y hy => ?_⟩
  rcases b.2 y hy with new | ⟨z, hz, same⟩
  · exact .inl new
  · rw [← same]
    exact a.2 z hz

theorem sandGrows_of_filter (source : SandSource) (d : Snd) (keep : SandEntry → Bool) :
    SandGrows source d { d with queue := d.queue.filter keep } :=
  ⟨rfl, fun y hy => .inr ⟨y, (List.mem_filter.mp hy).1, rfl⟩⟩

/-- R97: the loop is open and holds the latch. -/
abbrev loopHolds (s : State) : Prop :=
  s.sfc.opState = .active ∧ s.eblOpen = true ∧ s.bld.demand.latch = some .loop

/-- R97: under an open loop the effort stays with the caps it stood with, or is the sum of the caps. -/
abbrev EffortFollows (s t : State) : Prop := loopHolds s → loopHolds t
  ∧ ((t.bld.demand.effort = s.bld.demand.effort ∧ t.bld.cap = s.bld.cap)
    ∨ t.bld.demand.effort = t.bld.cap.sum)

theorem EffortFollows.refl (s : State) : EffortFollows s s := fun h => ⟨h, .inl ⟨rfl, rfl⟩⟩

theorem EffortFollows.trans {s t u : State} (a : EffortFollows s t) (b : EffortFollows t u) :
    EffortFollows s u := by
  intro h
  obtain ⟨ht, first⟩ := a h
  obtain ⟨hu, ⟨effort, cap⟩ | sum⟩ := b ht
  · exact ⟨hu, by rwa [effort, cap]⟩
  · exact ⟨hu, .inr sum⟩

theorem rerunWith_effortFollows (cause : PerBogie AimCause) (s : State) : EffortFollows s (rerunWith cause s) := by
  rintro ⟨active, opened, latched⟩
  obtain ⟨out, sup, h⟩ := rerunWith_changes cause active
  rw [h, allocated_stagesTaken s]
  refine ⟨⟨active, opened, latched⟩, ?_⟩
  dsimp only
  by_cases same : (stageCaps s).bld.cap = s.bld.cap
  · exact .inl ⟨if_neg fun c => c.2.2 same, same⟩
  · exact .inr (if_pos ⟨opened, latched, same⟩)

/-- What the work of an event does to the sand queue, and to the effort while the loop holds it. -/
structure Onward (source : SandSource) (s t : State) : Prop where
  grows : SandGrows source s.snd t.snd
  follows : EffortFollows s t

section

variable {source : SandSource}

theorem Onward.refl (s : State) : Onward source s s := ⟨.refl _ _, .refl _⟩

theorem Onward.trans {s t u : State} (a : Onward source s t) (b : Onward source t u) : Onward source s u :=
  ⟨a.grows.trans b.grows, a.follows.trans b.follows⟩

/-- Work that leaves BLD, the loop and the operating state alone. -/
theorem onward_of_sand {s t : State} (bld : t.bld = s.bld) (loop : t.eblOpen = s.eblOpen)
    (opState : t.sfc.opState = s.sfc.opState) (grows : SandGrows source s.snd t.snd) : Onward source s t := by
  refine ⟨grows, fun h => ?_⟩
  rw [loopHolds, bld, loop, opState]
  exact ⟨h, .inl ⟨rfl, rfl⟩⟩

theorem onward_of_same {s t : State} (bld : t.bld = s.bld) (loop : t.eblOpen = s.eblOpen)
    (opState : t.sfc.opState = s.sfc.opState) (snd : t.snd = s.snd) : Onward source s t :=
  onward_of_sand bld loop opState (by rw [snd]; exact .refl _ _)

theorem sendReport_onward (r : Report) (s : State) : Onward source s (sendReport r s) :=
  onward_of_same (by simp) (by simp) (by simp) (by simp)

theorem rerunWith_onward (cause : PerBogie AimCause) (s : State) : Onward source s (rerunWith cause s) :=
  ⟨by rw [rerunWith_snd]; exact .refl _ _, rerunWith_effortFollows cause s⟩

theorem rerun_onward (s : State) : Onward source s (rerun s) := rerunWith_onward allPlain s

theorem inSomeOrder_onward {l : List (State → State)} (h : ∀ f ∈ l, ∀ t, Onward source t (f t)) (s : State) :
    Onward source s (inSomeOrder l s) :=
  inSomeOrder_keeps (P := Onward source s) (fun {t} a => a.trans (by
      obtain ⟨n, hn⟩ := drawFrom_changes_free Config.freeOrder t
      rw [hn]
      exact onward_of_same rfl rfl rfl rfl))
    (fun f hf t a => a.trans (h f hf t)) (.refl s)

/-! Sanding (R138 to R150) -/

theorem takeShot_source {x y : SandEntry} {q : List SandEntry} (h : y ∈ takeShot x q) :
    ∃ z ∈ q, z.source = y.source := by
  obtain ⟨z, hz, e⟩ := List.mem_filterMap.mp h
  refine ⟨z, hz, ?_⟩
  split_ifs at e
  · cases e; rfl
  · cases e; rfl

theorem setSanded_onward (s : State) : Onward source s (setSanded s) := by
  have set : Onward source s { s with snd := { s.snd with sanded := s.vehicle.sLen * 1000 } } :=
    onward_of_sand rfl rfl rfl (.refl _ _)
  unfold setSanded
  dsimp only
  split
  · exact set.trans (rerun_onward _)
  · exact set

theorem grant_onward (x : SandEntry) (s : State) : Onward source s (grant x s) := by
  unfold grant
  refine Onward.trans (Onward.trans ?_ (sendReport_onward _ _)) (setSanded_onward _)
  exact onward_of_sand rfl rfl rfl ⟨rfl, fun y hy => .inr (takeShot_source hy)⟩

theorem judgeEnd_onward (e : Side) (s : State) : Onward source s (judgeEnd e s) := by
  unfold judgeEnd
  split
  · exact .refl s
  · exact grant_onward _ s

theorem judgeEnds_onward (s : State) : Onward source s (judgeEnds s) :=
  inSomeOrder_onward (fun f hf t => by
    obtain ⟨e, -, rfl⟩ := List.mem_map.mp hf
    exact judgeEnd_onward e t) s

theorem raiseFault_onward (id : FaultId) (s : State) : Onward source s (raiseFault id s) := by
  obtain ⟨r, -, e⟩ := raiseFault_eq id s
  rw [e]
  exact onward_of_same rfl rfl rfl rfl

theorem closeShot_onward (cause : ShotCause) (e : Side) (s : State) : Onward source s (closeShot cause e s) := by
  have raises (t : State) : Onward source t (raiseIfEmpty e t) := by
    unfold raiseIfEmpty
    split
    · exact raiseFault_onward _ t
    · exact .refl t
  unfold closeShot
  split
  · refine Onward.trans (Onward.trans ?_ (sendReport_onward _ _)) (raises _)
    exact onward_of_sand rfl rfl rfl (.refl _ _)
  · exact .refl s
  · exact .refl s

theorem segmentChange_onward (s : State) : Onward source s (segmentChange s) :=
  inSomeOrder_onward (fun f hf t => by
    rcases List.mem_cons.mp hf with rfl | hf
    · exact rerun_onward t
    · rw [List.mem_singleton.mp hf]
      refine (inSomeOrder_onward (fun g hg u => ?_) t).trans (judgeEnds_onward _)
      obtain ⟨e, -, rfl⟩ := List.mem_map.mp hg
      exact closeShot_onward _ e u) s

theorem routeDirection_onward (s : State) : Onward source s (routeDirection s) := by
  unfold routeDirection emptyRoute
  split
  · exact .refl s
  · refine Onward.trans (t := s.beyondRoute) (onward_of_same rfl rfl rfl rfl) ?_
    exact (sendReport_onward _ _).trans (segmentChange_onward _)

theorem dropEntries_onward (gone : SandEntry → Bool) (s : State) : Onward source s (dropEntries gone s) :=
  onward_of_sand rfl rfl rfl (sandGrows_of_filter source s.snd _)

theorem sandHoldChange_onward (old new : Hold) (s : State) : Onward source s (sandHoldChange old new s) := by
  unfold sandHoldChange
  split_ifs
  · exact dropEntries_onward _ s
  · exact dropEntries_onward _ s
  · exact .refl s

theorem evictee_source {p : Nat} {q r : List SandEntry} {x : SandEntry} (h : evictee p q = some (x, r)) :
    ∀ y ∈ r, ∃ z ∈ q, z.source = y.source := fun y hy => ⟨y, (evictee_sublist p h).1.subset hy, rfl⟩

theorem enqueueSand_onward (e : Side) (leading : Bool) (shots : Nat) (s : State) :
    Onward source s (enqueueSand source e leading shots s) := by
  have joins (t : State) : Onward source t (joinTail source e leading shots t) := by
    refine onward_of_sand rfl rfl rfl ⟨rfl, fun y hy => ?_⟩
    rcases List.mem_append.mp hy with old | new
    · exact .inr ⟨y, old, rfl⟩
    · exact .inl (by rw [List.mem_singleton.mp new])
  have evicts : Onward source s (evict s) := by
    unfold evict
    split
    · exact .refl s
    · next q h =>
      exact Onward.trans (t := s.setSandQueue q)
        (onward_of_sand rfl rfl rfl ⟨rfl, fun y hy => .inr (evictee_source h y hy)⟩) (sendReport_onward _ _)
  unfold enqueueSand
  split_ifs
  · refine onward_of_sand rfl rfl rfl ⟨rfl, fun y hy => .inr ?_⟩
    obtain ⟨z, hz, rfl⟩ := List.mem_map.mp hy
    refine ⟨z, hz, ?_⟩
    split_ifs <;> rfl
  · exact joins s
  · exact evicts.trans (joins _)
  · exact .refl s
  · exact sendReport_onward _ s

theorem joinAll_onward (e : Side) (leading : Bool) (shots : List Nat) (s : State) :
    Onward source s (joinAll source e leading shots s) := by
  induction shots generalizing s with
  | nil => exact .refl s
  | cons n rest ih =>
    refine Onward.trans (t := joinNext source e leading n (!rest.isEmpty) s) ?_ (ih _)
    unfold joinNext
    dsimp only
    split
    · exact (enqueueSand_onward e leading n s).trans (judgeEnd_onward e _)
    · exact enqueueSand_onward e leading n s

theorem requestLeading_onward (shots : Nat) (s : State) : Onward source s (requestLeading source shots s) := by
  unfold requestLeading requestLeadingAll
  split
  · exact joinAll_onward _ _ _ s
  · exact .refl s

/-! The slide trip (R165, R172) -/

theorem closeDump_snd (cause : CloseCause) (slip accel : Int) (floors : PerBogie AimCause) (x : Bogie)
    (s : State) : (closeDump cause slip accel floors x s).snd = s.snd := by
  unfold closeDump
  dsimp only
  split
  · rfl
  · unfold tripReport
    rw [sendReport_snd, rerunWith_snd]
    rfl

theorem closeDump_onward (cause : CloseCause) (slip accel : Int) (floors : PerBogie AimCause) (x : Bogie)
    (s : State) : Onward source s (closeDump cause slip accel floors x s) := by
  unfold closeDump
  dsimp only
  split
  · exact .refl s
  · refine Onward.trans (Onward.trans ?_ (rerunWith_onward _ _)) (sendReport_onward _ _)
    exact onward_of_same rfl rfl rfl rfl

theorem closeDumps_onward (cause : CloseCause) (floors : PerBogie AimCause) (which : List Bogie) (s : State) :
    Onward source s (closeDumps cause floors which s) :=
  inSomeOrder_onward (fun f hf t => by
    obtain ⟨x, -, rfl⟩ := List.mem_map.mp hf
    exact closeDump_onward _ _ _ _ x t) s

theorem tripModeChange_onward (old new : Mode) (s : State) : Onward source s (tripModeChange old new s) := by
  have fresh : Onward source s (freshApplication s) := onward_of_same rfl rfl rfl rfl
  unfold tripModeChange
  split_ifs
  · exact fresh.trans (closeDumps_onward _ _ _ _)
  · exact fresh
  · exact .refl s
  · exact .refl s

/-! The hill hold (R119, R123, R124) -/

/-- What the deliveries of a change of hold state keep, the change keeps. -/
theorem moveHold_induction {P : State → Prop} {reason : HoldReason} {also : List (State → State)} {next : Hhu}
    {s : State} (draws : ∀ n t, P t → P { t with free := n })
    (allocates : ∀ causes t, P t → P (rerunWith causes t))
    (closes : (∃ x, s.floor x = 0 ∧ 0 < ({ s with hhu := next } : State).floor x) →
      ∀ causes which t, P t → P (closeDumps .floor causes which t))
    (sands : ∀ t, P t → P (sandHoldChange s.hhu.state next.state t)) (reports : ∀ r t, P t → P (sendReport r t))
    (passes : ∀ f ∈ also, ∀ t, P t → P (f t)) (hs : P { s with hhu := next }) :
    P (moveHold reason also next s) := by
  unfold moveHold hillPublish
  dsimp only
  refine inSomeOrder_keeps (fun {t} h => ?_) (fun f hf t h => ?_) hs
  · obtain ⟨n, hn⟩ := drawFrom_changes_free Config.freeOrder t
    rw [hn]
    exact draws n t h
  · simp only [List.mem_append, List.mem_cons] at hf
    rcases hf with ((hf | hf) | hf) | rfl | hf
    · split at hf
      · rw [List.mem_singleton.mp hf]; exact allocates _ t h
      · exact absurd hf List.not_mem_nil
    · split at hf
      · next rose =>
        rw [List.mem_singleton.mp hf]
        obtain ⟨x, -, rises⟩ := List.any_eq_true.mp rose
        rw [PerBogie.get_of, decide_eq_true_eq] at rises
        exact closes ⟨x, rises⟩ _ _ t h
      · exact absurd hf List.not_mem_nil
    · split at hf
      · rw [List.mem_singleton.mp hf]; exact sands t h
      · exact absurd hf List.not_mem_nil
    · exact reports _ t h
    · exact passes f hf t h

theorem moveHold_onward (reason : HoldReason) {also : List (State → State)}
    (ha : ∀ f ∈ also, ∀ t, Onward source t (f t)) (next : Hhu) (s : State) :
    Onward source s (moveHold reason also next s) :=
  moveHold_induction (P := Onward source s) (fun _ _ h => h.trans (onward_of_same rfl rfl rfl rfl))
    (fun _ t h => h.trans (rerunWith_onward _ t)) (fun _ _ _ t h => h.trans (closeDumps_onward _ _ _ t))
    (fun t h => h.trans (sandHoldChange_onward _ _ t)) (fun r t h => h.trans (sendReport_onward r t))
    (fun f hf t h => h.trans (ha f hf t)) (onward_of_same rfl rfl rfl rfl)

end

theorem judgeTakeUp_onward (s : State) : Onward .hillStart s (judgeTakeUp s) := by
  unfold judgeTakeUp
  split
  · refine moveHold_onward _ (fun f hf t => ?_) _ s
    split at hf
    · rw [List.mem_singleton.mp hf]; exact requestLeading_onward _ t
    · exact absurd hf List.not_mem_nil
  · exact .refl s

theorem enterHolding_onward (reason : HoldReason) (s : State) : Onward .hillStart s (enterHolding reason s) := by
  rw [enterHolding_eq]
  exact (moveHold_onward reason (by simp) _ s).trans (judgeTakeUp_onward _)

theorem hillModeChange_onward (old new : Mode) (s : State) : Onward .hillStart s (hillModeChange old new s) := by
  have rearmed : Onward .hillStart s { s with hhu := { s.hhu with rearm := true } } :=
    onward_of_same rfl rfl rfl rfl
  unfold hillModeChange
  dsimp only
  split
  · split
    · split
      · exact rearmed.trans (enterHolding_onward _ _)
      · exact rearmed.trans (enterHolding_onward _ _)
      · split
        · exact rearmed.trans (enterHolding_onward _ _)
        · exact rearmed
      · exact rearmed.trans (judgeTakeUp_onward _)
      · exact rearmed
    · exact judgeTakeUp_onward s
  · exact .refl s

end Sys2Proof.Machine
end

section
/-! SUPPORT. What each delivery of a change of the demand record leaves alone at STU, at RLQ and at SND, and what it
leaves of the episodes and of the sand queue where it acts (R87, R93, R94, R119, R142, R143, R165, R172). -/

namespace Sys2Proof.Machine

/-! The route and a change of direction at STU (R87, R89, R146 to R150) -/

theorem inSomeOrder_stu {l : List (State → State)} (h : ∀ f ∈ l, ∀ t, (f t).stu = t.stu) (s : State) :
    (inSomeOrder l s).stu = s.stu :=
  inSomeOrder_keeps (P := fun t => t.stu = s.stu) (fun {t} e => by
      obtain ⟨n, hn⟩ := drawFrom_changes_free Config.freeOrder t
      rw [hn]
      exact e)
    (fun f hf t e => (h f hf t).trans e) rfl

theorem closeShot_stu (cause : ShotCause) (e : Side) (s : State) : (closeShot cause e s).stu = s.stu := by
  have raises (t : State) : (raiseIfEmpty e t).stu = t.stu := by
    unfold raiseIfEmpty
    split
    · obtain ⟨r, -, h⟩ := raiseFault_eq (.sandEmpty e) t
      rw [h]
      rfl
    · rfl
  unfold closeShot
  split
  · exact (raises _).trans (sendReport_stu _ _)
  · rfl
  · rfl

theorem routeDirection_stu (s : State) : (routeDirection s).stu = s.stu := by
  have judged : ∀ e t, (judgeEnd e t).stu = t.stu := fun e t => by rw [judgeEnd_onlySand]
  unfold routeDirection emptyRoute
  split
  · rfl
  · refine (inSomeOrder_stu (fun f hf t => ?_) _).trans (sendReport_stu _ _)
    rcases List.mem_cons.mp hf with rfl | hf
    · exact rerun_stu t
    · rw [List.mem_singleton.mp hf]
      refine (inSomeOrder_stu (fun g hg u => ?_) _).trans (inSomeOrder_stu (fun g hg u => ?_) t)
      · obtain ⟨e, -, rfl⟩ := List.mem_map.mp hg
        exact judged e u
      · obtain ⟨e, -, rfl⟩ := List.mem_map.mp hg
        exact closeShot_stu _ e u

theorem routeDirection_queue (s : State) : (routeDirection s).rlq.queue = [] := by
  unfold routeDirection
  by_cases empty : s.rlq.queue = []
  · rwa [emptyRoute, if_pos empty]
  · rw [emptyRoute_rlq _ empty]
    rfl

/-! SND's taking of a change of mode (R142) -/

theorem emergencySand_onlySand (s : State) : OnlySand s (emergencySand s) :=
  OnlySand.trans (t := { s with snd := { s.snd with repeatTimer := s.timer 10000 } }) rfl
    (requestLeading_onlySand .emergency 10 _)

theorem sandModeChange_onlySand (old new : Mode) (s : State) : OnlySand s (sandModeChange old new s) := by
  unfold sandModeChange
  split_ifs
  · exact emergencySand_onlySand s
  · rfl
  · rfl
  · rfl

theorem sandModeChange_to_emergency {old : Mode} {s : State} (active : s.sfc.opState = .active) :
    sandModeChange old .emergency s = emergencySand s := by
  rw [sandModeChange, if_pos rfl, if_pos ((isActive_iff s).mpr active)]

theorem sandModeChange_from_emergency {new : Mode} (s : State) (ends : new ≠ .emergency) :
    sandModeChange .emergency new s = dropEntries (fun x => x.source = .emergency)
      { s with snd := { s.snd with repeatTimer := none } } := by
  rw [sandModeChange, if_neg ends, if_pos rfl]

theorem sandModeChange_other {old new : Mode} (s : State) (starts : new ≠ .emergency) (ends : old ≠ .emergency) :
    sandModeChange old new s = s := by
  rw [sandModeChange, if_neg starts, if_neg ends]

/-- R97: the effort follows the caps through SND's taking of a change of mode. -/
theorem sandModeChange_effortFollows (old new : Mode) (s : State) :
    EffortFollows s (sandModeChange old new s) := by
  have timed (n : Timer) : EffortFollows s { s with snd := { s.snd with repeatTimer := n } } :=
    fun h => ⟨h, .inl ⟨rfl, rfl⟩⟩
  unfold sandModeChange
  split_ifs
  · exact (timed _).trans (requestLeading_onward (source := .emergency) 10 _).follows
  · exact .refl s
  · exact (timed _).trans (dropEntries_onward (source := .emergency) _ _).follows
  · exact .refl s

/-! The end of a dump episode (R171 to R173) -/

section

variable {s : State} {x : Bogie} {ep : Episode} {cause : CloseCause}

theorem closeDump_of_open (slip accel : Int) (floors : PerBogie AimCause)
    (open_ : (s.stu.bogie.get x).episode = some ep) : closeDump cause slip accel floors x s =
      tripReport x ep.axle (if cause = .limit ∧ 3 ≤ ((s.stu.bogie.get x).closed cause).exhausted then .disabled
          else .closed cause) slip accel (s.nowMs - ep.since)
        (rerunWith (closingCause floors x) (zeroCounters x (s.setStu x ((s.stu.bogie.get x).closed cause)))) := by
  rw [closeDump, open_]

theorem closeDump_of_shut (slip accel : Int) (floors : PerBogie AimCause)
    (shut : (s.stu.bogie.get x).episode = none) : closeDump cause slip accel floors x s = s := by
  rw [closeDump, shut]

theorem tripReport_stu (axle : Axle) (action : TripAction) (slip accel : Int) (openTime : Time) :
    (tripReport x axle action slip accel openTime s).stu = s.stu := sendReport_stu _ s

theorem closeDump_stu (slip accel : Int) (floors : PerBogie AimCause)
    (open_ : (s.stu.bogie.get x).episode = some ep) : (closeDump cause slip accel floors x s).stu = {
      counter := (s.stu.counter.set x.axles.1 0).set x.axles.2 0
      bogie := s.stu.bogie.set x ((s.stu.bogie.get x).closed cause) } := by
  rw [closeDump_of_open slip accel floors open_, tripReport_stu, rerunWith_stu]
  rfl

theorem closeDump_get_ne (slip accel : Int) (floors : PerBogie AimCause) {y : Bogie} (h : y ≠ x) :
    (closeDump cause slip accel floors x s).stu.bogie.get y = s.stu.bogie.get y := by
  cases e : (s.stu.bogie.get x).episode with
  | none => rw [closeDump_of_shut slip accel floors e]
  | some ep =>
    rw [closeDump_stu slip accel floors e]
    exact PerBogie.get_set_ne _ _ h

end

/-- R172: an episode's end but by the limit counts nothing and disables nothing, and both counters are at 0. -/
abbrev Closes (d d' : Stu) : Prop :=
  (d.counter = PerAxle.of (fun _ => 0) → d'.counter = PerAxle.of fun _ => 0)
  ∧ ∀ x, (d'.bogie.get x).exhausted = (d.bogie.get x).exhausted
    ∧ (d'.bogie.get x).disabled = (d.bogie.get x).disabled
    ∧ (d'.bogie.get x).suppressed = (d.bogie.get x).suppressed

theorem Closes.refl (d : Stu) : Closes d d := ⟨id, fun _ => ⟨rfl, rfl, rfl⟩⟩

theorem Closes.trans {d d' d'' : Stu} (a : Closes d d') (b : Closes d' d'') : Closes d d'' :=
  ⟨b.1 ∘ a.1, fun x => ⟨(b.2 x).1.trans (a.2 x).1, (b.2 x).2.1.trans (a.2 x).2.1,
    (b.2 x).2.2.trans (a.2 x).2.2⟩⟩

theorem closes_of_same {d d' : Stu} (h : d' = d) : Closes d d' := h ▸ .refl d

theorem closeDump_closes {cause : CloseCause} (counts : cause ≠ .limit) (slip accel : Int)
    (floors : PerBogie AimCause) (x : Bogie) (s : State) :
    Closes s.stu (closeDump cause slip accel floors x s).stu := by
  cases e : (s.stu.bogie.get x).episode with
  | none => exact closes_of_same (by rw [closeDump_of_shut slip accel floors e])
  | some ep =>
    rw [closeDump_stu slip accel floors e]
    refine ⟨fun zero => ?_, fun y => ?_⟩
    · dsimp only
      rw [zero]
      cases x <;> rfl
    · by_cases same : y = x
      · subst same
        simp [BogieStu.closed, counts]
      · dsimp only
        rw [PerBogie.get_set_ne _ _ same]
        exact ⟨rfl, rfl, rfl⟩

theorem inSomeOrder_closes {l : List (State → State)} (h : ∀ f ∈ l, ∀ t, Closes t.stu (f t).stu) (s : State) :
    Closes s.stu (inSomeOrder l s).stu :=
  inSomeOrder_keeps (P := fun t => Closes s.stu t.stu) (fun {t} a => a.trans (by
      obtain ⟨n, hn⟩ := drawFrom_changes_free Config.freeOrder t
      rw [hn]
      exact .refl _))
    (fun f hf t a => a.trans (h f hf t)) (.refl _)

theorem closeDumps_closes {cause : CloseCause} (counts : cause ≠ .limit) (floors : PerBogie AimCause)
    (which : List Bogie) (s : State) : Closes s.stu (closeDumps cause floors which s).stu :=
  inSomeOrder_closes (fun f hf t => by
    obtain ⟨x, -, rfl⟩ := List.mem_map.mp hf
    exact closeDump_closes counts _ _ _ x t) s

/-- R173: the report of an episode's end without a sample. -/
def endReport (cause : CloseCause) (x : Bogie) (ep : Episode) (s : State) : Report :=
  .trip x ep.axle (.closed cause) 0 0 s.ref.speed (s.stu.bogie.get x).exhausted (s.nowMs - ep.since) s.nowMs

theorem closeDump_reported {cause : CloseCause} (counts : cause ≠ .limit) (floors : PerBogie AimCause)
    {x : Bogie} {ep : Episode} {s : State} (open_ : (s.stu.bogie.get x).episode = some ep) :
    reported (endReport cause x ep s) (closeDump cause 0 0 floors x s) := by
  rw [closeDump_of_open 0 0 floors open_, if_neg fun c => counts c.1]
  have blend := rerunWith_onlyBlend (closingCause floors x)
    (zeroCounters x (s.setStu x ((s.stu.bogie.get x).closed cause)))
  generalize rerunWith _ _ = u at blend
  have same : endReport cause x ep s = .trip x ep.axle (.closed cause) 0 0 u.ref.speed
      (u.stu.bogie.get x).exhausted (s.nowMs - ep.since) u.nowMs := by
    unfold OnlyBlend at blend
    rw [blend]
    simp [endReport, zeroCounters, BogieStu.closed, counts, State.nowMs]
  rw [same]
  exact sendReport_reported_self _ u

/-- The episode has ended with its report. -/
abbrev EpisodeEnds (cause : CloseCause) (x : Bogie) (ep : Episode) (s t : State) : Prop :=
  (t.stu.bogie.get x).episode = none ∧ (t.stu.bogie.get x).limitTimer = none
    ∧ reported (endReport cause x ep s) t

theorem closeDump_keeps_ended {cause by_ : CloseCause} {x : Bogie} {ep : Episode} {s t : State}
    (floors : PerBogie AimCause) (y : Bogie) (h : EpisodeEnds cause x ep s t) :
    EpisodeEnds cause x ep s (closeDump by_ 0 0 floors y t) := by
  by_cases same : x = y
  · subst same
    rwa [closeDump_of_shut 0 0 floors h.1]
  · obtain ⟨shut, stopped, sent⟩ := h
    refine ⟨?_, ?_, closeDump_keeps (stable_reported _) _ _ _ _ _ sent⟩
    · rwa [closeDump_get_ne 0 0 floors same]
    · rwa [closeDump_get_ne 0 0 floors same]

/-- R165, R172, R173: with every episode closed, one that was open has ended with its report. -/
theorem closeDumps_ends {cause : CloseCause} (counts : cause ≠ .limit) {s : State} {x : Bogie} {ep : Episode}
    (open_ : (s.stu.bogie.get x).episode = some ep) :
    EpisodeEnds cause x ep s (closeDumps cause allPlain Bogie.all s) := by
  have ends : ∀ t : State, t.core = s.core ∧ (t.stu.bogie.get x = s.stu.bogie.get x ∨ EpisodeEnds cause x ep s t) →
      EpisodeEnds cause x ep s (closeDump cause 0 0 allPlain x t) := by
    rintro t ⟨core, waits | ended⟩
    · have stillOpen : (t.stu.bogie.get x).episode = some ep := by rw [waits, open_]
      have sent := closeDump_reported counts allPlain stillOpen
      have same : endReport cause x ep t = endReport cause x ep s := by
        rw [endReport, endReport, waits, State.nowMs, State.nowMs, (ref_of_core core :), (clock_of_core core :)]
      rw [same] at sent
      refine ⟨?_, ?_, sent⟩
      all_goals
        rw [closeDump_stu 0 0 allPlain stillOpen, PerBogie.get_set_self]
        rfl
    · exact closeDump_keeps_ended allPlain x ended
  refine inSomeOrder_reaches (Q := EpisodeEnds cause x ep s) (f := closeDump cause 0 0 allPlain x)
    (P := fun t => t.core = s.core ∧ (t.stu.bogie.get x = s.stu.bogie.get x ∨ EpisodeEnds cause x ep s t))
    (fun {t} h => ?_) (fun f hf t h => ?_) (fun f hf t _ ended => ?_) ?_ ends ⟨rfl, .inl rfl⟩
  · obtain ⟨n, hn⟩ := drawFrom_changes_free Config.freeOrder t
    rw [hn]
    exact h
  · obtain ⟨y, -, rfl⟩ := List.mem_map.mp hf
    refine ⟨(closeDump_core _ _ _ _ _ t).trans h.1, ?_⟩
    by_cases same : x = y
    · subst same
      exact .inr (ends t h)
    · rw [closeDump_get_ne 0 0 allPlain same]
      exact h.2.imp_right (closeDump_keeps_ended allPlain y)
  · obtain ⟨y, -, rfl⟩ := List.mem_map.mp hf
    exact closeDump_keeps_ended allPlain y ended
  · refine List.mem_map.mpr ⟨x, List.mem_filter.mpr ⟨Bogie.mem_all x, ?_⟩, rfl⟩
    rw [State.dumpOpen, open_]
    rfl

/-- A bogie without an open episode stays without. -/
theorem closeDumps_shut {cause : CloseCause} {s : State} {x : Bogie}
    (shut : (s.stu.bogie.get x).episode = none) :
    ((closeDumps cause allPlain Bogie.all s).stu.bogie.get x).episode = none := by
  refine inSomeOrder_keeps (P := fun t => (t.stu.bogie.get x).episode = none) (fun {t} h => ?_)
    (fun f hf t h => ?_) shut
  · obtain ⟨n, hn⟩ := drawFrom_changes_free Config.freeOrder t
    rw [hn]
    exact h
  · obtain ⟨y, -, rfl⟩ := List.mem_map.mp hf
    by_cases same : x = y
    · subst same
      rwa [closeDump_of_shut _ _ _ h]
    · rwa [closeDump_get_ne _ _ _ same]

/-! STU's taking of a change of mode (R165) -/

/-- R165: the values at the beginning and at the end of an application. -/
abbrev Fresh (d : Stu) : Prop :=
  d.counter = PerAxle.of (fun _ => 0)
  ∧ ∀ x, (d.bogie.get x).exhausted = 0 ∧ (d.bogie.get x).disabled = false ∧ (d.bogie.get x).suppressed = false

theorem Fresh.closes {d d' : Stu} (fresh : Fresh d) (h : Closes d d') : Fresh d' :=
  ⟨h.1 fresh.1, fun x => ⟨(h.2 x).1.trans (fresh.2 x).1, (h.2 x).2.1.trans (fresh.2 x).2.1,
    (h.2 x).2.2.trans (fresh.2 x).2.2⟩⟩

theorem freshApplication_fresh (s : State) : Fresh (freshApplication s).stu := by
  refine ⟨rfl, fun x => ?_⟩
  rw [freshApplication, PerBogie.get_of]
  exact ⟨rfl, rfl, rfl⟩

section

variable {old new : Mode} {s : State}

theorem tripModeChange_of_same (s : State) (same : old.braking = new.braking) : tripModeChange old new s = s := by
  unfold tripModeChange
  rw [same]
  cases new.braking <;> simp

theorem tripModeChange_begins (active : s.isActive = true) (was : old.braking = false) (is_ : new.braking = true) :
    tripModeChange old new s = freshApplication s := by
  rw [tripModeChange, if_pos active, was, is_]
  rfl

theorem tripModeChange_ends (active : s.isActive = true) (was : old.braking = true) (is_ : new.braking = false) :
    tripModeChange old new s = closeDumps .mode allPlain Bogie.all (freshApplication s) := by
  rw [tripModeChange, if_pos active, was, is_]
  rfl

theorem tripModeChange_fresh (active : s.isActive = true) (turns : old.braking ≠ new.braking) :
    Fresh (tripModeChange old new s).stu := by
  cases was : old.braking with
  | false =>
    rw [tripModeChange_begins active was (by cases is_ : new.braking <;> simp_all)]
    exact freshApplication_fresh s
  | true =>
    rw [tripModeChange_ends active was (by cases is_ : new.braking <;> simp_all)]
    exact (freshApplication_fresh s).closes (closeDumps_closes (cause := .mode) nofun _ _ _)

/-- R165, R172: at an application's end every episode is closed, and reported with its count at 0. -/
theorem tripModeChange_closes_all (active : s.isActive = true) (was : old.braking = true)
    (is_ : new.braking = false) (x : Bogie) :
    ((tripModeChange old new s).stu.bogie.get x).episode = none
    ∧ ∀ ep, (s.stu.bogie.get x).episode = some ep →
      ((tripModeChange old new s).stu.bogie.get x).limitTimer = none
      ∧ reported (.trip x ep.axle (.closed .mode) 0 0 s.ref.speed 0 (s.nowMs - ep.since) s.nowMs)
        (tripModeChange old new s) := by
  have kept : ((freshApplication s).stu.bogie.get x).episode = (s.stu.bogie.get x).episode := by
    rw [freshApplication, PerBogie.get_of]
  rw [tripModeChange_ends active was is_]
  cases open_ : (s.stu.bogie.get x).episode with
  | none => exact ⟨closeDumps_shut (kept.trans open_), nofun⟩
  | some ep =>
    obtain ⟨shut, stopped, sent⟩ := closeDumps_ends (cause := .mode) nofun (kept.trans open_)
    refine ⟨shut, fun ep' same => ?_⟩
    cases same
    have count : ((freshApplication s).stu.bogie.get x).exhausted = 0 := ((freshApplication_fresh s).2 x).1
    rw [endReport, count] at sent
    exact ⟨stopped, sent⟩

end

theorem inSomeOrder_snd {l : List (State → State)} (h : ∀ f ∈ l, ∀ t, (f t).snd = t.snd) (s : State) :
    (inSomeOrder l s).snd = s.snd :=
  inSomeOrder_keeps (P := fun t => t.snd = s.snd) (fun {t} e => by
      obtain ⟨n, hn⟩ := drawFrom_changes_free Config.freeOrder t
      rw [hn]
      exact e)
    (fun f hf t e => (h f hf t).trans e) rfl

theorem closeDumps_snd (cause : CloseCause) (floors : PerBogie AimCause) (which : List Bogie) (s : State) :
    (closeDumps cause floors which s).snd = s.snd :=
  inSomeOrder_snd (fun f hf t => by
    obtain ⟨x, -, rfl⟩ := List.mem_map.mp hf
    exact closeDump_snd _ _ _ _ x t) s

theorem tripModeChange_snd (old new : Mode) (s : State) : (tripModeChange old new s).snd = s.snd := by
  unfold tripModeChange
  split_ifs
  · exact (closeDumps_snd _ _ _ _).trans rfl
  all_goals rfl

theorem tripModeChange_rlq (old new : Mode) (s : State) : (tripModeChange old new s).rlq = s.rlq := by
  unfold tripModeChange
  split_ifs
  · refine (inSomeOrder_rlq (fun f hf t => ?_) _).trans rfl
    obtain ⟨x, -, rfl⟩ := List.mem_map.mp hf
    exact closeDump_rlq _ _ _ _ x t
  all_goals rfl

/-! HHU's moves at STU, at RLQ and at SND (R119, R123, R124, R143) -/

theorem sandHoldChange_stu (old new : Hold) (s : State) : (sandHoldChange old new s).stu = s.stu := by
  unfold sandHoldChange
  split_ifs <;> rfl

theorem moveHold_closes (reason : HoldReason) (next : Hhu) (s : State) :
    Closes s.stu (moveHold reason [] next s).stu :=
  moveHold_induction (P := fun t => Closes s.stu t.stu) (fun _ _ h => h)
    (fun _ t h => h.trans (closes_of_same (rerunWith_stu _ t)))
    (fun _ _ _ t h => h.trans (closeDumps_closes (cause := .floor) nofun _ _ t))
    (fun t h => h.trans (closes_of_same (sandHoldChange_stu _ _ t)))
    (fun r t h => h.trans (closes_of_same (sendReport_stu r t))) (by simp) (.refl _)

/-- R169: a move that raises no floor closes no episode. -/
theorem moveHold_stu (reason : HoldReason) {also : List (State → State)}
    (ha : ∀ f ∈ also, ∀ t, (f t).stu = t.stu) {next : Hhu} {s : State}
    (floors : ∀ x, ({ s with hhu := next } : State).floor x = s.floor x) :
    (moveHold reason also next s).stu = s.stu := by
  refine moveHold_induction (P := fun t => t.stu = s.stu) (fun _ _ h => h)
    (fun _ t h => (rerunWith_stu _ t).trans h) (fun ⟨x, low, high⟩ => ?_)
    (fun t h => (sandHoldChange_stu _ _ t).trans h) (fun r t h => (sendReport_stu r t).trans h)
    (fun f hf t h => (ha f hf t).trans h) rfl
  rw [floors x] at high
  omega

theorem judgeTakeUp_stu (s : State) : (judgeTakeUp s).stu = s.stu := by
  unfold judgeTakeUp
  split
  · refine moveHold_stu _ (fun f hf t => ?_) fun x => rfl
    split at hf
    · rw [List.mem_singleton.mp hf, requestLeading_onlySand]
    · exact absurd hf List.not_mem_nil
  · rfl

theorem enterHolding_closes (reason : HoldReason) (s : State) : Closes s.stu (enterHolding reason s).stu := by
  rw [enterHolding_eq, judgeTakeUp_stu]
  exact moveHold_closes reason _ s

theorem judgeTakeUp_rlq (s : State) : (judgeTakeUp s).rlq = s.rlq := by
  unfold judgeTakeUp
  split
  · refine (hillPublish_rlq _ _ _ (fun f hf t => ?_) _).trans rfl
    rcases List.mem_cons.mp hf with rfl | hf
    · exact sendReport_rlq _ t
    · split at hf
      · rw [List.mem_singleton.mp hf, requestLeading_onlySand]
      · exact absurd hf List.not_mem_nil
  · rfl

theorem takeUpCondition_of_mode {s : State} (free : s.mode ≠ .drive) : takeUpCondition s = false := by
  simp [takeUpCondition, free]

theorem judgeTakeUp_of_mode {s : State} (free : s.mode ≠ .drive) : judgeTakeUp s = s := by
  rw [judgeTakeUp, takeUpCondition_of_mode free, if_neg (by simp)]

/-- R143: HILL_START entries may leave the sand queue. -/
abbrev HillStartLeaves (d d' : Snd) : Prop :=
  d' = d ∨ d' = { d with queue := d.queue.filter fun x => !decide (x.source = .hillStart) }

theorem HillStartLeaves.trans {d d' d'' : Snd} (a : HillStartLeaves d d') (b : HillStartLeaves d' d'') :
    HillStartLeaves d d'' := by
  rcases a with rfl | rfl <;> rcases b with rfl | rfl
  · exact .inl rfl
  · exact .inr rfl
  · exact .inr rfl
  · exact .inr (by simp [List.filter_filter])

/-- R143: an entry to HOLDING but from a catch. -/
theorem moveHold_hillStartLeaves (reason : HoldReason) {next : Hhu} {s : State}
    (free : s.hhu.state ≠ .rollbackCatch) : HillStartLeaves s.snd (moveHold reason [] next s).snd := by
  refine moveHold_induction (P := fun t => HillStartLeaves s.snd t.snd) (fun _ _ h => h)
    (fun _ t h => by rwa [rerunWith_snd]) (fun _ _ _ t h => by rwa [closeDumps_snd]) (fun t h => h.trans ?_)
    (fun r t h => by rwa [sendReport_snd]) (by simp) (.inl rfl)
  unfold sandHoldChange
  rw [if_neg (fun c => free c.1 : ¬ (s.hhu.state = .rollbackCatch ∧ next.state ≠ .rollbackCatch))]
  split
  · exact .inr rfl
  · exact .inl rfl

end Sys2Proof.Machine
end

section
/-! SUPPORT. The deliveries of a change of the demand record in any order (R93, R94, R99): what all of them leave
alone, what those but the mode's leave of each block, and the split of an order around one of the mode's. -/

namespace Sys2Proof.Machine

/-! What every delivery leaves -/

/-- `t` is `s` after deliveries of a change of the demand record: of the core they change no more than ADH, HHU and
fault records. -/
abbrev Ground (s t : State) : Prop :=
  t.core = ({ s with adh := t.adh, hhu := t.hhu, sfc := { s.sfc with faults := t.sfc.faults } } : State).core

theorem ground_iff {s t : State} : Ground s t ↔ t.core = { s.core with
    adh := t.core.adh, hhu := t.core.hhu, faults := t.core.faults } := Iff.rfl

theorem ground_of_core {s t : State} (h : t.core = s.core) : Ground s t := by
  rw [ground_iff, h]

theorem ground_of_onlyHhu {s t : State} (h : OnlyHhu s t) : Ground s t := by
  unfold OnlyHhu at h
  rw [ground_iff, h]

namespace Ground

theorem trans {s t u : State} (a : Ground s t) (b : Ground t u) : Ground s u := by
  rw [ground_iff] at *
  rw [b, a]

variable {s t : State} (h : Ground s t)
include h

theorem mode : t.mode = s.mode := (mode_of_core h :)
theorem travel : t.travel = s.travel := (travel_of_core h :)
theorem clock : t.clock = s.clock := (clock_of_core h :)
theorem nowMs : t.nowMs = s.nowMs := by rw [State.nowMs, State.nowMs, h.clock]
theorem ref : t.ref = s.ref := (ref_of_core h :)
theorem cfg : t.sfc.cfg = s.sfc.cfg := (cfg_of_core h :)
theorem opState : t.sfc.opState = s.sfc.opState := (opState_of_core h :)
theorem isActive : t.isActive = s.isActive := by rw [State.isActive, State.isActive, h.opState]

theorem demand (free : ¬ (s.eblOpen = true ∧ s.bld.demand.latch = some .loop)) :
    t.bld.demand = s.bld.demand := (demand_of_core h free :)

end Ground

/-- What every delivery keeps; `turned` says that the event changes the direction of travel. -/
structure Passes (turned : Prop) (s t : State) : Prop where
  ground : Ground s t
  sent : ∀ r, reported r s → reported r t
  rlq : t.rlq = s.rlq ∨ (turned ∧ t.rlq.queue = [])
  follows : EffortFollows s t

/-- R131: the accumulators may return to 0 where the direction has turned. -/
abbrev Turned (turned : Prop) (h h' : Hhu) : Prop :=
  h' = h ∨ (turned ∧ h' = { h with acc := PerAxle.of fun _ => 0 })

theorem Turned.trans {p : Prop} {h h' h'' : Hhu} (a : Turned p h h') (b : Turned p h' h'') : Turned p h h'' := by
  rcases a with rfl | ⟨hp, rfl⟩
  · exact b
  · rcases b with rfl | ⟨-, rfl⟩ <;> exact .inr ⟨hp, rfl⟩

/-- What a delivery that is not of the mode keeps of each block. -/
structure Plain (turned : Prop) (s t : State) : Prop where
  adh : t.adh = s.adh
  stu : t.stu = s.stu
  hhu : Turned turned s.hhu t.hhu
  snd : ¬ turned → t.snd = s.snd
  grows : SandGrows .hillStart s.snd t.snd

section

variable {turned : Prop}

theorem Passes.trans {s t u : State} (a : Passes turned s t) (b : Passes turned t u) : Passes turned s u := by
  refine ⟨a.ground.trans b.ground, fun r h => b.sent r (a.sent r h), ?_, a.follows.trans b.follows⟩
  rcases b.rlq with same | empty
  · rw [same]; exact a.rlq
  · exact .inr empty

theorem Plain.trans {s t u : State} (a : Plain turned s t) (b : Plain turned t u) : Plain turned s u :=
  ⟨b.adh.trans a.adh, b.stu.trans a.stu, a.hhu.trans b.hhu, fun h => (b.snd h).trans (a.snd h),
    a.grows.trans b.grows⟩

theorem Plain.refl (s : State) : Plain turned s s := ⟨rfl, rfl, .inl rfl, fun _ => rfl, .refl _ _⟩

theorem passes_of_free (s : State) (n : Free) : Passes turned s { s with free := n } :=
  ⟨rfl, fun _ => id, .inl rfl, .refl s⟩

/-! The reports an event brings along (R95) -/

/-- `f` sends reports and moves fault records, and takes no report back. -/
abbrev OnlyReports (f : State → State) : Prop := ∀ s : State,
  f s = { s with lnk := (f s).lnk, sfc := { s.sfc with faults := (f s).sfc.faults } }
  ∧ ∀ r, reported r s → reported r (f s)

theorem onlyReports_passes {f : State → State} (h : OnlyReports f) (s : State) : Passes turned s (f s) := by
  obtain ⟨e, sent⟩ := h s
  refine ⟨by rw [e]; rfl, sent, .inl (by rw [e]), ?_⟩
  rw [e]
  exact fun loop => ⟨loop, .inl ⟨rfl, rfl⟩⟩

theorem onlyReports_plain {f : State → State} (h : OnlyReports f) (s : State) : Plain turned s (f s) := by
  rw [(h s).1]
  exact ⟨rfl, rfl, .inl rfl, fun _ => rfl, .refl _ _⟩

/-! Each delivery -/

theorem rerun_passes (s : State) : Passes turned s (rerun s) :=
  ⟨ground_of_core (rerun_core s), fun r => rerun_keeps (stable_reported r), .inl (rerun_rlq s),
    rerunWith_effortFollows _ s⟩

theorem routeDirection_passes (h : turned) (s : State) : Passes turned s (routeDirection s) :=
  ⟨ground_of_core (routeDirection_core s), fun r => routeDirection_keeps (stable_reported r),
    .inr ⟨h, routeDirection_queue s⟩, (routeDirection_onward (source := .hillStart) s).follows⟩

theorem hillDirection_passes (s : State) : Passes turned s (hillDirection s) :=
  ⟨rfl, fun _ => id, .inl rfl, fun loop => ⟨loop, .inl ⟨rfl, rfl⟩⟩⟩

theorem sandDirection_passes (s : State) : Passes turned s (sandDirection s) :=
  ⟨rfl, fun _ => id, .inl rfl, fun loop => ⟨loop, .inl ⟨rfl, rfl⟩⟩⟩

theorem adhModeChange_passes (old new : Mode) (s : State) : Passes turned s (adhModeChange old new s) := by
  have view := adhModeChange_view old new s
  refine ⟨?_, fun r => (stable_reported r).view view, .inl (rlq_of_view view), ?_⟩
  all_goals
    unfold adhModeChange
    split
  · rfl
  · rfl
  · exact fun loop => ⟨loop, .inl ⟨rfl, rfl⟩⟩
  · exact .refl s

theorem hillModeChange_rlq (old new : Mode) (s : State) : (hillModeChange old new s).rlq = s.rlq := by
  unfold hillModeChange
  dsimp only
  split
  · split
    · split
      · exact enterHolding_rlq _ _
      · exact enterHolding_rlq _ _
      · split
        · exact enterHolding_rlq _ _
        · rfl
      · exact judgeTakeUp_rlq _
      · rfl
    · exact judgeTakeUp_rlq s
  · rfl

theorem hillModeChange_passes (old new : Mode) (s : State) : Passes turned s (hillModeChange old new s) :=
  ⟨ground_of_onlyHhu (hillModeChange_onlyHhu old new s), fun r => hillModeChange_keeps (stable_reported r) old new,
    .inl (hillModeChange_rlq old new s), (hillModeChange_onward old new s).follows⟩

theorem tripModeChange_passes (old new : Mode) (s : State) : Passes turned s (tripModeChange old new s) :=
  ⟨ground_of_core (tripModeChange_core old new s), fun r => tripModeChange_keeps (stable_reported r) old new,
    .inl (tripModeChange_rlq old new s), (tripModeChange_onward (source := .hillStart) old new s).follows⟩

theorem sandModeChange_passes (old new : Mode) (s : State) : Passes turned s (sandModeChange old new s) :=
  ⟨ground_of_core (sandModeChange_core old new s), fun r => sandModeChange_keeps (stable_reported r) old new,
    .inl (by rw [sandModeChange_onlySand]), sandModeChange_effortFollows old new s⟩

theorem rerun_plain (s : State) : Plain turned s (rerun s) :=
  ⟨(adh_of_core (rerun_core s) :), rerun_stu s, .inl (hhu_of_core (rerun_core s) :), fun _ => rerun_snd s,
    (rerun_onward s).grows⟩

theorem routeDirection_plain (h : turned) (s : State) : Plain turned s (routeDirection s) :=
  ⟨(adh_of_core (routeDirection_core s) :), routeDirection_stu s, .inl (hhu_of_core (routeDirection_core s) :),
    fun c => absurd h c, (routeDirection_onward s).grows⟩

theorem hillDirection_plain (h : turned) (s : State) : Plain turned s (hillDirection s) :=
  ⟨rfl, rfl, .inr ⟨h, rfl⟩, fun _ => rfl, .refl _ _⟩

theorem sandDirection_plain (h : turned) (s : State) : Plain turned s (sandDirection s) :=
  ⟨rfl, rfl, .inl rfl, fun c => absurd h c, (dropEntries_onward _ s).grows⟩

end

/-! The deliveries of an event (R93, R94, R99) -/

/-- R93, R99: the deliveries that are not of the mode. -/
def plainDeliveries (old : Demand) (also : List (State → State)) (s : State) : List (State → State) :=
  (if s.travel = old.dir then [] else directionDeliveries) ++ rerun :: also

/-- R93, R94, R99: all of them, the mode's first. -/
def demandDeliveries (old : Demand) (also : List (State → State)) (s : State) : List (State → State) :=
  (if s.mode = old.mode then [] else modeDeliveries old.mode s.mode) ++ plainDeliveries old also s

section

variable {old : Demand} {also : List (State → State)} {s : State}

theorem deliverDemand_order : ∃ l, l.Perm (demandDeliveries old also s) ∧ deliverDemand old also s = inSomeOrder l s :=
  ⟨_, by
    rw [demandDeliveries, plainDeliveries, ← List.append_assoc]
    exact List.perm_append_comm.append_right _, rfl⟩

theorem plainDeliveries_cases {f : State → State} (h : f ∈ plainDeliveries old also s) :
    (s.travel ≠ old.dir ∧ (f = routeDirection ∨ f = hillDirection ∨ f = sandDirection)) ∨ f = rerun ∨ f ∈ also := by
  rcases List.mem_append.mp h with turns | rest
  · split at turns
    · exact absurd turns List.not_mem_nil
    · next changed => exact .inl ⟨changed, by simpa [directionDeliveries] using turns⟩
  · exact .inr (List.mem_cons.mp rest)

theorem plainDelivery_passes (ha : ∀ f ∈ also, OnlyReports f) {f : State → State}
    (h : f ∈ plainDeliveries old also s) (u : State) : Passes (s.travel ≠ old.dir) u (f u) := by
  rcases plainDeliveries_cases h with ⟨turned, rfl | rfl | rfl⟩ | rfl | h
  · exact routeDirection_passes turned u
  · exact hillDirection_passes u
  · exact sandDirection_passes u
  · exact rerun_passes u
  · exact onlyReports_passes (ha f h) u

theorem plainDelivery_plain (ha : ∀ f ∈ also, OnlyReports f) {f : State → State}
    (h : f ∈ plainDeliveries old also s) (u : State) : Plain (s.travel ≠ old.dir) u (f u) := by
  rcases plainDeliveries_cases h with ⟨turned, rfl | rfl | rfl⟩ | rfl | h
  · exact routeDirection_plain turned u
  · exact hillDirection_plain turned u
  · exact sandDirection_plain turned u
  · exact rerun_plain u
  · exact onlyReports_plain (ha f h) u

theorem modeDelivery_passes {turned : Prop} {before after : Mode} {f : State → State}
    (h : f ∈ modeDeliveries before after) (u : State) : Passes turned u (f u) := by
  simp only [modeDeliveries, List.mem_cons, List.not_mem_nil, or_false] at h
  rcases h with rfl | rfl | rfl | rfl
  · exact adhModeChange_passes _ _ u
  · exact hillModeChange_passes _ _ u
  · exact tripModeChange_passes _ _ u
  · exact sandModeChange_passes _ _ u

theorem delivery_passes (ha : ∀ f ∈ also, OnlyReports f) {f : State → State}
    (h : f ∈ demandDeliveries old also s) (u : State) : Passes (s.travel ≠ old.dir) u (f u) := by
  rcases List.mem_append.mp h with ofMode | plain
  · split at ofMode
    · exact absurd ofMode List.not_mem_nil
    · exact modeDelivery_passes ofMode u
  · exact plainDelivery_passes ha plain u

/-- What every delivery keeps, the event keeps. -/
theorem deliverDemand_passes (ha : ∀ f ∈ also, OnlyReports f) :
    Passes (s.travel ≠ old.dir) s (deliverDemand old also s) := by
  obtain ⟨l, hl, e⟩ := deliverDemand_order (old := old) (also := also) (s := s)
  rw [e]
  refine inSomeOrder_keeps (P := Passes (s.travel ≠ old.dir) s) (fun {t} h => ?_)
    (fun f hf t h => h.trans (delivery_passes ha (hl.mem_iff.mp hf) t)) (passes_of_free s s.free)
  obtain ⟨n, hn⟩ := drawFrom_changes_free Config.freeOrder t
  rw [hn]
  exact h.trans (passes_of_free t n)

/-- R94: without a change of mode no reader of the mode is delivered anything. -/
theorem deliverDemand_plain (ha : ∀ f ∈ also, OnlyReports f) (same : s.mode = old.mode) :
    Plain (s.travel ≠ old.dir) s (deliverDemand old also s) := by
  obtain ⟨l, hl, e⟩ := deliverDemand_order (old := old) (also := also) (s := s)
  rw [demandDeliveries, if_pos same] at hl
  rw [e]
  refine inSomeOrder_keeps (P := Plain (s.travel ≠ old.dir) s) (fun {t} h => ?_)
    (fun f hf t h => h.trans (plainDelivery_plain ha (hl.mem_iff.mp hf) t)) (.refl s)
  obtain ⟨n, hn⟩ := drawFrom_changes_free Config.freeOrder t
  rw [hn]
  exact h.trans ⟨rfl, rfl, .inl rfl, fun _ => rfl, .refl _ _⟩

/-- An order split around one reader of the mode: `u` is the state in which it takes the change, and `X` says what
the others keep of its block, in a state that reads as `s` does. -/
theorem deliverDemand_around (ha : ∀ f ∈ also, OnlyReports f) (changes : s.mode ≠ old.mode)
    {f : State → State} {others : List (State → State)}
    (split : (modeDeliveries old.mode s.mode).Perm (f :: others)) {X : State → State → Prop}
    (free : ∀ u n, X u { u with free := n }) (trans : ∀ {u v w}, X u v → X v w → X u w)
    (ofMode : ∀ g ∈ others, ∀ u, Ground s u → X u (g u))
    (ofPlain : ∀ u v, Plain (s.travel ≠ old.dir) u v → X u v) :
    ∃ u, Passes (s.travel ≠ old.dir) s u ∧ X s u
      ∧ Passes (s.travel ≠ old.dir) (f u) (deliverDemand old also s) ∧ X (f u) (deliverDemand old also s) := by
  obtain ⟨l, hl, e⟩ := deliverDemand_order (old := old) (also := also) (s := s)
  rw [demandDeliveries, if_neg changes] at hl
  obtain ⟨n, before, after, rest, e'⟩ :=
    inSomeOrder_around (hl.trans (split.append_right (plainDeliveries old also s))) s
  have step : ∀ g ∈ before ++ after, ∀ u, Ground s u →
      Passes (s.travel ≠ old.dir) u (g u) ∧ X u (g u) := by
    intro g hg u ground
    rcases List.mem_append.mp (rest g hg) with mode | plain
    · exact ⟨modeDelivery_passes (split.mem_iff.mpr (List.mem_cons_of_mem _ mode)) u, ofMode g mode u ground⟩
    · exact ⟨plainDelivery_passes ha plain u, ofPlain u _ (plainDelivery_plain ha plain u)⟩
  have run : ∀ (m : List (State → State)) (u : State), (∀ g ∈ m, g ∈ before ++ after) → Ground s u →
      Passes (s.travel ≠ old.dir) u (inOrder m u) ∧ X u (inOrder m u) := by
    intro m u hm ground
    refine inOrder_keeps (P := fun v => Passes (s.travel ≠ old.dir) u v ∧ X u v) (fun g hg v h => ?_)
      ⟨passes_of_free u u.free, free u u.free⟩
    obtain ⟨passes, x⟩ := step g (hm g hg) v (ground.trans h.1.ground)
    exact ⟨h.1.trans passes, trans h.2 x⟩
  have start : Passes (s.travel ≠ old.dir) s { s with free := n } := passes_of_free s n
  obtain ⟨first, x⟩ := run before _ (fun g => List.mem_append_left _) start.ground
  have taken := modeDelivery_passes (turned := s.travel ≠ old.dir) (split.mem_iff.mpr List.mem_cons_self)
    (inOrder before { s with free := n })
  obtain ⟨second, y⟩ := run after _ (fun g => List.mem_append_right _)
    ((start.trans first).ground.trans taken.ground)
  rw [e, e']
  exact ⟨_, start.trans first, trans (free s n) x, second, y⟩

end

end Sys2Proof.Machine
end

section
/-! SUPPORT. A change of the demand record at ADH, at STU and at HHU (R54, R123, R124, R127, R131, R165, R172): what
they have taken of it after the deliveries of the event, in any order. -/

namespace Sys2Proof.Machine

/-- `s` is `before` with a new demand record, and with what else the event has done to BLD, the loop, the link and the
fault records. -/
structure Redemanded (before s : State) : Prop where
  adh : s.adh = before.adh
  stu : s.stu = before.stu
  hhu : s.hhu = before.hhu
  snd : s.snd = before.snd
  rlq : s.rlq = before.rlq
  ref : s.ref = before.ref
  clock : s.clock = before.clock
  cfg : s.sfc.cfg = before.sfc.cfg
  opState : s.sfc.opState = before.sfc.opState

/-! At ADH (R54) -/

theorem effortTurns_iff (old new : Mode) : effortTurns old new = true ↔ new = .coast
    ∨ (old = .drive ∧ new.braking = true) ∨ (old.braking = true ∧ new = .drive) := by
  simp [effortTurns, or_assoc]

section

variable {before s : State} {also : List (State → State)}

theorem deliverDemand_atAdhesion (r : Redemanded before s) (active : before.sfc.opState = .active)
    (ha : ∀ f ∈ also, OnlyReports f) : modeAtAdhesion before (deliverDemand before.bld.demand also s) := by
  have mode := (deliverDemand_passes (old := before.bld.demand) (s := s) ha).ground.mode
  by_cases same : s.mode = before.mode
  · have kept := (deliverDemand_plain ha same).adh.trans r.adh
    rw [modeAtAdhesion, turnsEffort, mode, kept]
    exact ⟨fun turns => absurd same.symm turns.1, fun _ => rfl⟩
  · obtain ⟨u, pre, adh, -, adh'⟩ := deliverDemand_around ha same (f := adhModeChange before.mode s.mode)
      (List.Perm.refl _) (X := fun u v => v.adh = u.adh) (fun _ _ => rfl) (fun a b => b.trans a)
      (fun g hg u _ => by
        simp only [List.mem_cons, List.not_mem_nil, or_false] at hg
        rcases hg with rfl | rfl | rfl
        · exact (congrArg CoreView.adh (hillModeChange_onlyHhu before.mode s.mode u) :)
        · exact (adh_of_core (tripModeChange_core before.mode s.mode u) :)
        · exact (adh_of_core (sandModeChange_core before.mode s.mode u) :))
      (fun _ _ h => h.adh)
    have live : u.isActive = true := by
      rw [pre.ground.isActive, isActive_iff, r.opState, active]
    have was : u.adh = before.adh := adh.trans r.adh
    have turns : turnsEffort before (deliverDemand before.bld.demand also s)
        ↔ effortTurns before.mode s.mode = true := by
      rw [turnsEffort, mode, effortTurns_iff]
      exact and_iff_right (Ne.symm same)
    rw [modeAtAdhesion, turns, adh', adhModeChange]
    refine ⟨fun turned x => ?_, fun kept => ?_⟩
    · rw [if_pos ⟨live, turned⟩]
      show u.adh.allGrip.get x = _
      rw [was]
      exact allGrip_get before x
    · rw [if_neg fun c => kept c.2, was]

/-! At STU (R165, R172) -/

theorem hillModeChange_stu {old : Mode} (free : old ≠ .drive) (new : Mode) (s : State) :
    (hillModeChange old new s).stu = s.stu := by
  unfold hillModeChange
  split
  · rw [if_neg fun c => free c.1]
    exact judgeTakeUp_stu s
  · rfl

theorem hillModeChange_closes (old new : Mode) (s : State) : Closes s.stu (hillModeChange old new s).stu := by
  unfold hillModeChange
  dsimp only
  split
  · split
    · split
      · exact enterHolding_closes _ { s with hhu := { s.hhu with rearm := true } }
      · exact enterHolding_closes _ { s with hhu := { s.hhu with rearm := true } }
      · split
        · exact enterHolding_closes _ { s with hhu := { s.hhu with rearm := true } }
        · exact .refl _
      · exact closes_of_same (judgeTakeUp_stu _)
      · exact .refl _
    · exact closes_of_same (judgeTakeUp_stu s)
  · exact .refl _

theorem deliverDemand_stu_of_free (r : Redemanded before s) (ha : ∀ f ∈ also, OnlyReports f)
    (changes : s.mode ≠ before.mode) (free : before.mode ≠ .drive) :
    ∃ u, Passes (s.travel ≠ before.travel) s u ∧ u.stu = before.stu
      ∧ Passes (s.travel ≠ before.travel) (tripModeChange before.mode s.mode u)
        (deliverDemand before.bld.demand also s)
      ∧ (deliverDemand before.bld.demand also s).stu = (tripModeChange before.mode s.mode u).stu := by
  obtain ⟨u, pre, stu, post, stu'⟩ := deliverDemand_around ha changes (f := tripModeChange before.mode s.mode)
    (List.perm_middle (l₁ := [adhModeChange before.mode s.mode, hillModeChange before.mode s.mode]))
    (X := fun u v => v.stu = u.stu) (fun _ _ => rfl) (fun a b => b.trans a)
    (fun g hg u _ => by
      simp only [List.cons_append, List.nil_append, List.mem_cons, List.not_mem_nil, or_false] at hg
      rcases hg with rfl | rfl | rfl
      · unfold adhModeChange; split <;> rfl
      · exact hillModeChange_stu free _ u
      · rw [sandModeChange_onlySand])
    (fun _ _ h => h.stu)
  exact ⟨u, pre, stu.trans r.stu, post, stu'⟩

theorem ne_drive_of_braking {m : Mode} (h : m.braking = true) : m ≠ .drive := by
  rintro rfl
  exact nomatch h

theorem deliverDemand_atTrip (r : Redemanded before s) (active : before.sfc.opState = .active)
    (ha : ∀ f ∈ also, OnlyReports f) : modeAtTrip before (deliverDemand before.bld.demand also s) := by
  have live {u : State} (pre : Passes (s.travel ≠ before.travel) s u) : u.isActive = true := by
    rw [pre.ground.isActive, isActive_iff, r.opState, active]
  have mode := (deliverDemand_passes (old := before.bld.demand) (s := s) ha).ground.mode
  rw [modeAtTrip, mode]
  refine ⟨fun turns => ?_, fun was is_ x => ?_, fun kept => ?_⟩
  · have changes : s.mode ≠ before.mode := fun same => turns (by rw [same])
    obtain ⟨u, pre, -, -, closed⟩ := deliverDemand_around ha changes (f := tripModeChange before.mode s.mode)
      (List.perm_middle (l₁ := [adhModeChange before.mode s.mode, hillModeChange before.mode s.mode]))
      (X := fun u v => Closes u.stu v.stu) (fun _ _ => .refl _) (fun a b => a.trans b)
      (fun g hg u _ => by
        simp only [List.cons_append, List.nil_append, List.mem_cons, List.not_mem_nil, or_false] at hg
        rcases hg with rfl | rfl | rfl
        · exact closes_of_same (by unfold adhModeChange; split <;> rfl)
        · exact hillModeChange_closes _ _ u
        · exact closes_of_same (by rw [sandModeChange_onlySand]))
      (fun _ _ h => closes_of_same h.stu)
    exact (tripModeChange_fresh (live pre) turns).closes closed
  · have changes : s.mode ≠ before.mode := fun same => by rw [same, was] at is_; exact nomatch is_
    obtain ⟨u, pre, stu, post, stu'⟩ :=
      deliverDemand_stu_of_free r ha changes (ne_drive_of_braking was)
    obtain ⟨shut, ended⟩ := tripModeChange_closes_all (live pre) was is_ x
    rw [stu, pre.ground.ref, pre.ground.nowMs, r.ref, State.nowMs, r.clock, ← State.nowMs] at ended
    rw [stu']
    exact ⟨shut, fun ep open_ => (ended ep open_).imp_right (post.sent _)⟩
  · by_cases same : s.mode = before.mode
    · exact (deliverDemand_plain ha same).stu.trans r.stu
    · have brakes := kept.resolve_left (Ne.symm same)
      obtain ⟨u, -, stu, -, stu'⟩ := deliverDemand_stu_of_free r ha same (ne_drive_of_braking brakes.1)
      rw [stu', tripModeChange_of_same u (brakes.1.trans brakes.2.symm), stu]

end

end Sys2Proof.Machine
end

section
/-! SUPPORT. A change of the demand record at HHU (R119, R121, R123, R124, R127, R131): what HHU has taken of it after
the deliveries of the event, in any order. -/

namespace Sys2Proof.Machine

/-! The change of mode at HHU (R123, R124, R127) -/

/-- R123: the states in which the end of DRIVE brings HOLDING. -/
abbrev endsInHolding (s : State) : Prop :=
  s.hhu.state = .takeUp ∨ s.hhu.state = .releasing ∨ (s.hhu.state = .off ∧ s.ref.active = .standstill)

/-- R127: the state re-armed. -/
def rearmed (s : State) : State := { s with hhu := { s.hhu with rearm := true } }

section

variable {old new : Mode} {s : State}

theorem hillModeChange_of_other (was : old ≠ .drive) (free : s.mode ≠ .drive) : hillModeChange old new s = s := by
  unfold hillModeChange
  split
  · rw [if_neg fun c => was c.1, judgeTakeUp_of_mode free]
  · rfl

theorem hillModeChange_into (active : s.isActive = true) (was : old ≠ .drive) :
    hillModeChange old new s = judgeTakeUp s := by
  rw [hillModeChange, if_pos active, if_neg fun c => was c.1]

theorem hillModeChange_enters (active : s.isActive = true) (ends : new ≠ .drive) (enters : endsInHolding s) :
    hillModeChange .drive new s = enterHolding .driveEnded (rearmed s) := by
  rw [hillModeChange, if_pos active, if_pos ⟨rfl, ends⟩]
  rcases enters with h | h | ⟨h, rest⟩
  · rw [h]; rfl
  · rw [h]; rfl
  · rw [h]
    exact if_pos rest

theorem hillModeChange_rearms (active : s.isActive = true) (ends : new ≠ .drive) (free : s.mode ≠ .drive)
    (stays : ¬ endsInHolding s) : hillModeChange .drive new s = rearmed s := by
  rw [hillModeChange, if_pos active, if_pos ⟨rfl, ends⟩]
  cases h : s.hhu.state with
  | off => exact if_neg fun rest => stays (.inr (.inr ⟨h, rest⟩))
  | holding => exact judgeTakeUp_of_mode free
  | takeUp => exact absurd (.inl h) stays
  | releasing => exact absurd (.inr (.inl h)) stays
  | rollbackCatch => rfl

theorem moveHold_hhu (reason : HoldReason) (next : Hhu) (s : State) : (moveHold reason [] next s).hhu = next :=
  congrArg CoreView.hhu (moveHold_core reason (also := []) (by simp) next s)

theorem enterTakeUp_hhu (s : State) : (enterTakeUp s).hhu = takingUp s s.hhu :=
  congrArg CoreView.hhu (enterTakeUp_core s)

/-- Outside DRIVE the take-up condition does not hold, and HOLDING stays. -/
theorem enterHolding_of_mode (reason : HoldReason) (free : s.mode ≠ .drive) :
    enterHolding reason s = moveHold reason [] (holdingFrom (holdingFloors s)) s := by
  have core := moveHold_core reason (also := []) (by simp) (holdingFrom (holdingFloors s)) s
  rw [← setHhu_core] at core
  rw [enterHolding_eq]
  exact judgeTakeUp_of_mode (by rw [(mode_of_core core :)]; exact free)

theorem enterHolding_hhu_of_mode (reason : HoldReason) (free : s.mode ≠ .drive) :
    (enterHolding reason s).hhu = holdingFrom (holdingFloors s) := by
  rw [enterHolding_of_mode reason free, moveHold_hhu]

end

/-! The accumulators (R131) -/

theorem judgeTakeUp_acc (s : State) : (judgeTakeUp s).hhu.acc = s.hhu.acc := by
  unfold judgeTakeUp
  split
  · rw [enterTakeUp_hhu]
    rfl
  · rfl

theorem enterHolding_acc (reason : HoldReason) (s : State) :
    (enterHolding reason s).hhu.acc = PerAxle.of fun _ => 0 := by
  rw [enterHolding_eq, judgeTakeUp_acc, moveHold_hhu]
  rfl

theorem hillModeChange_acc (old new : Mode) {s : State} (zero : s.hhu.acc = PerAxle.of fun _ => 0) :
    (hillModeChange old new s).hhu.acc = PerAxle.of fun _ => 0 := by
  unfold hillModeChange
  dsimp only
  split
  · split
    · split
      · exact enterHolding_acc _ _
      · exact enterHolding_acc _ _
      · split
        · exact enterHolding_acc _ _
        · exact zero
      · exact (judgeTakeUp_acc _).trans zero
      · exact zero
    · exact (judgeTakeUp_acc s).trans zero
  · exact zero

theorem Turned.acc {p : Prop} {h h' : Hhu} (a : Turned p h h') (zero : h.acc = PerAxle.of fun _ => 0) :
    h'.acc = PerAxle.of fun _ => 0 := by
  rcases a with rfl | ⟨-, rfl⟩
  · exact zero
  · rfl

section

variable {before s : State} {also : List (State → State)}

/-- R131: a change of direction returns the accumulators to 0, whatever the order. -/
theorem deliverDemand_acc (ha : ∀ f ∈ also, OnlyReports f) {old : Demand} (turned : s.travel ≠ old.dir) :
    (deliverDemand old also s).hhu.acc = PerAxle.of fun _ => 0 := by
  obtain ⟨l, hl, e⟩ := deliverDemand_order (old := old) (also := also) (s := s)
  rw [e]
  refine inSomeOrder_reaches (P := fun _ => True) (Q := fun t => t.hhu.acc = PerAxle.of fun _ => 0)
    (f := hillDirection) (fun _ => trivial) (fun _ _ _ _ => trivial) (fun g hg t _ zero => ?_) ?_ (fun _ _ => rfl)
    trivial
  · rcases List.mem_append.mp (hl.mem_iff.mp hg) with ofMode | plain
    · split at ofMode
      · exact absurd ofMode List.not_mem_nil
      · simp only [modeDeliveries, List.mem_cons, List.not_mem_nil, or_false] at ofMode
        rcases ofMode with rfl | rfl | rfl | rfl
        · unfold adhModeChange; split <;> exact zero
        · exact hillModeChange_acc _ _ zero
        · rwa [(hhu_of_core (tripModeChange_core _ _ t) :)]
        · rwa [(hhu_of_core (sandModeChange_core _ _ t) :)]
    · exact (plainDelivery_plain ha plain t).hhu.acc zero
  · rw [hl.mem_iff, demandDeliveries, plainDeliveries, if_neg turned, directionDeliveries]
    simp

/-- A record that may have turned has turned just where the direction has changed. -/
theorem eq_of_turned {p : Prop} {h h' : Hhu} {turn : Hhu → Hhu} (a : Turned p h h')
    (zero : p → h'.acc = PerAxle.of fun _ => 0) (stays : ¬ p → turn h = h)
    (turns : p → turn h = { h with acc := PerAxle.of fun _ => 0 }) : h' = turn h := by
  by_cases hp : p
  · rw [turns hp]
    rcases a with rfl | ⟨-, rfl⟩
    · rw [← zero hp]
    · rfl
  · rw [stays hp]
    exact a.resolve_right fun c => hp c.1

/-- HHU around its taking of the change of mode. -/
theorem deliverDemand_aroundHill (r : Redemanded before s) (ha : ∀ f ∈ also, OnlyReports f)
    (changes : s.mode ≠ before.mode) :
    ∃ u, Passes (s.travel ≠ before.travel) s u ∧ Turned (s.travel ≠ before.travel) before.hhu u.hhu
      ∧ Passes (s.travel ≠ before.travel) (hillModeChange before.mode s.mode u)
        (deliverDemand before.bld.demand also s)
      ∧ Turned (s.travel ≠ before.travel) (hillModeChange before.mode s.mode u).hhu
        (deliverDemand before.bld.demand also s).hhu := by
  obtain ⟨u, pre, hhu, post, hhu'⟩ := deliverDemand_around ha changes (f := hillModeChange before.mode s.mode)
    (List.perm_middle (l₁ := [adhModeChange before.mode s.mode]))
    (X := fun u v => Turned (s.travel ≠ before.travel) u.hhu v.hhu) (fun _ _ => .inl rfl) Turned.trans
    (fun g hg u _ => by
      simp only [List.cons_append, List.nil_append, List.mem_cons, List.not_mem_nil, or_false] at hg
      rcases hg with rfl | rfl | rfl
      · exact .inl (by unfold adhModeChange; split <;> rfl)
      · exact .inl (hhu_of_core (tripModeChange_core before.mode s.mode u) :)
      · exact .inl (hhu_of_core (sandModeChange_core before.mode s.mode u) :))
    (fun _ _ h => h.hhu)
  exact ⟨u, pre, r.hhu ▸ hhu, post, hhu'⟩

/-- R121, R123: HOLDING's floors, levels and forces need HHU's record, the sections and the route queue. -/
theorem holdingFloors_rearmed {w u : State} (hhu : u.hhu = { w.hhu with acc := u.hhu.acc })
    (cfg : u.sfc.cfg = w.sfc.cfg) (queue : u.rlq.queue = w.rlq.queue) :
    holdingFloors (rearmed u) = { holdingFloors w with rearm := true, acc := u.hhu.acc } := by
  have state : (rearmed u).hhu.state = w.hhu.state := by rw [rearmed, hhu]
  have levels : computeHold (rearmed u) = { rearmed u with hhu := { (rearmed u).hhu with
      holdForce := (computeHold w).hhu.holdForce, level := (computeHold w).hhu.level } } := by
    simp only [computeHold, holdForceOf, holdLevel, gradeMagnitude, State.headSegment, State.vehicle, State.blend,
      rearmed, cfg, queue]
  unfold holdingFloors
  rw [state, levels]
  cases w.hhu.state
  case off => simp only [rearmed]; rw [hhu]; rfl
  all_goals
    simp only [rearmed]
    rw [hhu]

theorem Turned.eta {p : Prop} {h h' : Hhu} (a : Turned p h h') : h' = { h with acc := h'.acc } := by
  rcases a with rfl | ⟨-, rfl⟩ <;> rfl

/-- R123: the end of DRIVE in TAKE_UP, RELEASING or at rest in OFF. -/
theorem deliverDemand_ends (r : Redemanded before s) (active : before.sfc.opState = .active)
    (ha : ∀ f ∈ also, OnlyReports f) (was : before.mode = .drive) (ends : s.mode ≠ .drive)
    (enters : endsInHolding before) : ∃ w : State, w.hhu = before.hhu
      ∧ (w = before ∨ (s.travel ≠ before.travel
        ∧ w = { before with rlq := { before.rlq with queue := [] } }))
      ∧ (deliverDemand before.bld.demand also s).hhu = { holdingFrom (holdingFloors w) with rearm := true }
      ∧ reported (.holdState .holding before.hhu.state .driveEnded (holdingFloors w).floor
          (holdingFloors w).holdForce (holdingFloors w).relThreshold (holdingFloors w).dAch before.nowMs)
        (deliverDemand before.bld.demand also s) := by
  obtain ⟨u, pre, hhu, post, hhu'⟩ := deliverDemand_aroundHill r ha (fun same => ends (same.trans was))
  have live : u.isActive = true := by rw [pre.ground.isActive, isActive_iff, r.opState, active]
  have state : u.hhu.state = before.hhu.state := by rw [hhu.eta]
  have free : (rearmed u).mode ≠ .drive := by
    show u.mode ≠ .drive
    rwa [pre.ground.mode]
  have taken : hillModeChange before.mode s.mode u = enterHolding .driveEnded (rearmed u) := by
    rw [was]
    refine hillModeChange_enters live ends ?_
    rwa [endsInHolding, state, pre.ground.ref, r.ref]
  obtain ⟨w, sees, queue, hw⟩ : ∃ w : State, (w.hhu = before.hhu ∧ w.sfc = before.sfc)
      ∧ u.rlq.queue = w.rlq.queue ∧ (w = before ∨ (s.travel ≠ before.travel
        ∧ w = { before with rlq := { before.rlq with queue := [] } })) := by
    rcases pre.rlq with same | ⟨turned, empty⟩
    · exact ⟨before, ⟨rfl, rfl⟩, by rw [same, r.rlq], .inl rfl⟩
    · exact ⟨{ before with rlq := { before.rlq with queue := [] } }, ⟨rfl, rfl⟩, empty, .inr ⟨turned, rfl⟩⟩
  have floors := holdingFloors_rearmed (w := w) (u := u) (by rw [sees.1]; exact hhu.eta)
    (by rw [pre.ground.cfg, r.cfg, sees.2]) queue
  have sent := enterHolding_reported .driveEnded (rearmed u)
  have now : (rearmed u).nowMs = before.nowMs := by
    show u.nowMs = _
    rw [pre.ground.nowMs, State.nowMs, r.clock, ← State.nowMs]
  rw [taken, enterHolding_hhu_of_mode _ free, floors] at hhu'
  rw [now, floors, show (rearmed u).hhu.state = before.hhu.state from state, ← taken] at sent
  refine ⟨w, sees.1, hw, ?_, post.sent _ sent⟩
  rcases hhu' with same | ⟨-, same⟩ <;> exact same

theorem takeUpCondition_iff (s : State) : takeUpCondition s = true
    ↔ s.mode = .drive ∧ 0 < s.bld.demand.effort ∧ s.hhu.rearm = true := by
  simp [takeUpCondition, and_assoc]

/-- R124: DRIVE begun in HOLDING, where the take-up condition holds. -/
theorem enterTakeUp_reported {s : State} (holds : s.hhu.state = .holding) :
    reported (.holdState .takeUp .holding .takeUp s.floors s.hhu.holdForce s.hhu.relThreshold s.hhu.dAch s.nowMs)
      (enterTakeUp s) := by
  have sent := moveHold_reported .takeUp
    (also := if (s.sfc.cfg.hold.sandGrade : Int) ≤ gradeTravel s then [requestLeading .hillStart 2] else [])
    (fun f hf r t h => ?_) (takingUp s s.hhu) s
  · rwa [holds] at sent
  · split at hf
    · rw [List.mem_singleton.mp hf]
      exact requestLeading_keeps (stable_reported r) _ (by decide) (by decide) h
    · exact absurd hf List.not_mem_nil

theorem deliverDemand_atHillHold (r : Redemanded before s) (active : before.sfc.opState = .active)
    (ha : ∀ f ∈ also, OnlyReports f)
    (free : s.mode = .drive → before.mode ≠ .drive → ¬ (s.eblOpen = true ∧ s.bld.demand.latch = some .loop)) :
    modeAtHillHold before (deliverDemand before.bld.demand also s) := by
  have all := deliverDemand_passes (old := before.bld.demand) (s := s) ha
  rw [modeAtHillHold, all.ground.mode, all.ground.travel]
  intro turn enters takes hturn henters htakes
  have settled {h : Hhu} (a : Turned (s.travel ≠ before.travel) h (deliverDemand before.bld.demand also s).hhu) :
      (deliverDemand before.bld.demand also s).hhu = turn h :=
    eq_of_turned a (deliverDemand_acc ha) (fun c => by rw [hturn, if_pos (not_not.mp c)])
      (fun c => by rw [hturn, if_neg c])
  have live {u : State} (pre : Passes (s.travel ≠ before.travel) s u) : u.isActive = true := by
    rw [pre.ground.isActive, isActive_iff, r.opState, active]
  refine ⟨fun was ends => ⟨fun enter => ?_, fun stays => ?_⟩, fun was begins => ⟨fun take => ?_, fun stays => ?_⟩,
    fun neither => ?_⟩
  · obtain ⟨w, hhu, hw, held, sent⟩ := deliverDemand_ends r active ha was ends (henters.mp enter)
    refine ⟨holdingFloors w, fun off => ?_, fun releasing => ?_, fun taking => ?_, held, sent⟩
    · have levels : holdingFloors w = heldLevels w := by rw [holdingFloors, hhu, off]; rfl
      rw [levels]
      exact hw.imp (fun same => by rw [same]) fun flushed => ⟨flushed.1, by rw [flushed.2]⟩
    · rw [holdingFloors, hhu, releasing]
    · rw [holdingFloors, hhu, taking]
  · obtain ⟨u, pre, hhu, -, hhu'⟩ := deliverDemand_aroundHill r ha (fun same => ends (same.trans was))
    refine settled (Turned.trans ?_ hhu')
    rw [was, hillModeChange_rearms (live pre) ends (by rwa [pre.ground.mode]) ?_]
    · rcases hhu with same | ⟨turned, same⟩
      · exact .inl (by rw [rearmed, same])
      · exact .inr ⟨turned, by rw [rearmed, same]⟩
    · rw [endsInHolding, hhu.eta, pre.ground.ref, r.ref]
      exact fun c => stays (henters.mpr c)
  · obtain ⟨held, effort, armed⟩ := htakes.mp take
    obtain ⟨u, pre, hhu, post, hhu'⟩ := deliverDemand_aroundHill r ha (fun same => was (same.symm.trans begins))
    have mode : u.mode = .drive := pre.ground.mode.trans begins
    have demand := free begins was
    rw [all.ground.demand demand, ← pre.ground.demand demand] at effort
    have state : u.hhu.state = .holding := by rw [hhu.eta]; exact held
    have judged : hillModeChange before.mode s.mode u = enterTakeUp u := by
      rw [hillModeChange_into (live pre) was, judgeTakeUp,
        if_pos ⟨state, (takeUpCondition_iff u).mpr ⟨mode, effort, by rw [hhu.eta]; exact armed⟩⟩]
    have taking : takingUp u = takingUp before := by
      funext h
      rw [takingUp, takingUp, pre.ground.clock, pre.ground.cfg, r.clock, r.cfg]
    have sent := enterTakeUp_reported state
    have now : u.nowMs = before.nowMs := by rw [pre.ground.nowMs, State.nowMs, r.clock, ← State.nowMs]
    have floors : u.floors = before.floors := by
      simp only [State.floors, PerBogie.of, State.floor, now, pre.ground.cfg, r.cfg]
      rw [hhu.eta]
    rw [floors, now, hhu.eta, ← judged] at sent
    rw [judged, enterTakeUp_hhu, taking] at hhu'
    refine ⟨settled (Turned.trans ?_ hhu'), post.sent _ sent⟩
    rcases hhu with same | ⟨turned, same⟩
    · exact .inl (by rw [same])
    · exact .inr ⟨turned, by rw [same]; rfl⟩
  · obtain ⟨u, pre, hhu, -, hhu'⟩ := deliverDemand_aroundHill r ha (fun same => was (same.symm.trans begins))
    refine settled (hhu.trans ?_)
    rw [hillModeChange_into (live pre) was, judgeTakeUp, if_neg fun c => ?_] at hhu'
    · exact hhu'
    · have demand := free begins was
      obtain ⟨state, cond⟩ := c
      obtain ⟨-, effort, armed⟩ := (takeUpCondition_iff u).mp cond
      rw [pre.ground.demand demand, ← all.ground.demand demand] at effort
      rw [hhu.eta] at state armed
      exact stays (htakes.mpr ⟨state, effort, armed⟩)
  · by_cases same : s.mode = before.mode
    · exact settled (r.hhu ▸ (deliverDemand_plain ha same).hhu)
    · have was : before.mode ≠ .drive := fun c => same ((neither.mp c).trans c.symm)
      obtain ⟨u, pre, hhu, -, hhu'⟩ := deliverDemand_aroundHill r ha same
      rw [hillModeChange_of_other was (by rw [pre.ground.mode]; exact fun c => was (neither.mpr c))] at hhu'
      exact settled (hhu.trans hhu')

end

end Sys2Proof.Machine
end

section
/-! SUPPORT. A change of the demand record at SND (R139, R140, R142, R143, R146, R147): the EMERGENCY request in a state
that shows SND what another shows it, and what SND has taken after the deliveries of the event, in any order. -/

namespace Sys2Proof.Machine

/-! One request in states that SND sees alike (R138 to R147) -/

theorem SandSees.ms {s u : State} (h : SandSees s u) : u.nowMs = s.nowMs := by
  rw [State.nowMs, State.nowMs, h.clock]

/-- Work at SND alone shows SND the same state around its own. -/
theorem SandSees.of_onlySand {s u s' u' : State} (h : SandSees s u) (a : OnlySand s s') (b : OnlySand u u')
    (core : s'.core = s.core) (core' : u'.core = u.core) (snd : u'.snd = s'.snd) : SandSees s' u' := by
  have travel : u'.travel = s'.travel := by
    rw [(travel_of_core core :), (travel_of_core core' :), h.travel]
  unfold OnlySand at a b
  refine ⟨snd, ?_, ?_, ?_, ?_, ?_, travel⟩
  · rw [a, b]; exact h.rlq
  · rw [a, b]; exact h.cfg
  · rw [a, b]; exact h.opState
  · rw [a, b]; exact h.speed
  · rw [a, b]; exact h.clock

theorem setSanded_snd (s : State) : (setSanded s).snd = { s.snd with sanded := s.vehicle.sLen * 1000 } := by
  unfold setSanded
  dsimp only
  split
  · rw [rerun_snd]
  · rfl

theorem grant_snd (x : SandEntry) (s : State) : (grant x s).snd = { s.snd with
    queue := takeShot x s.snd.queue, valve := s.snd.valve.set x.side (.pouring (shotOf s x))
    sanded := s.vehicle.sLen * 1000 } := by
  unfold grant
  dsimp only
  rw [setSanded_snd, sendReport_snd, State.vehicle, sendReport_sfc]
  rfl

section

variable {s u : State} (h : SandSees s u)
include h

theorem judgeEnd_snd_congr (e : Side) : (judgeEnd e u).snd = (judgeEnd e s).snd := by
  have same : grantee u e = grantee s e := by
    refine (grantee_congr h e u.snd).trans ?_
    rw [h.snd]
  unfold judgeEnd
  rw [same]
  split
  · exact h.snd
  · rw [grant_snd, grant_snd, shotOf, shotOf, State.vehicle, State.vehicle, h.snd, h.cfg, h.ms, h.clock]

theorem enqueueSand_snd_congr (source : SandSource) (e : Side) (leading : Bool) (shots : Nat) :
    (enqueueSand source e leading shots u).snd = (enqueueSand source e leading shots s).snd := by
  have age (src : SandSource) : ageOf u src = ageOf s src := by
    rw [ageOf, ageOf, State.timer, State.timer, h.clock]
  have evicted : (evict u).snd = (evict s).snd := by
    unfold evict
    rw [h.snd]
    split
    · exact h.snd
    · rw [sendReport_snd, sendReport_snd, State.setSandQueue, State.setSandQueue, h.snd]
  have aged (src : SandSource) : ageOf (evict u) src = ageOf (evict s) src := by
    rw [ageOf, ageOf, State.timer, State.timer, (clock_of_core (evict_core u) :), (clock_of_core (evict_core s) :),
      h.clock]
  unfold enqueueSand
  rw [h.snd]
  split_ifs
  · simp only [State.setSandQueue, mergeEntry, age, h.snd]
  · simp only [joinTail, age, h.snd]
  · simp only [joinTail, aged, evicted]
  · exact h.snd
  · rw [sendReport_snd, sendReport_snd, h.snd]

/-- R138 to R147: what a request leaves of SND. -/
theorem requestLeading_snd_congr (source : SandSource) (n : Nat) :
    (requestLeading source n u).snd = (requestLeading source n s).snd := by
  have active : u.isActive = s.isActive := by rw [State.isActive, State.isActive, h.opState]
  have placed (e : Side) : placement source e n u = placement source e n s := by
    rw [placement, placement, h.snd]
  unfold requestLeading requestLeadingAll joinAll joinAll joinNext
  rw [active, h.travel, placed, h.snd]
  dsimp only
  split_ifs
  · exact judgeEnd_snd_congr (h.of_onlySand (enqueueSand_onlySand _ _ _ _ s) (enqueueSand_onlySand _ _ _ _ u)
      (enqueueSand_core _ _ _ _ s) (enqueueSand_core _ _ _ _ u) (enqueueSand_snd_congr h _ _ _ _)) _
  · exact enqueueSand_snd_congr h _ _ _ _
  · exact h.snd

theorem emergencySand_snd_congr : (emergencySand u).snd = (emergencySand s).snd := by
  have timed : SandSees { s with snd := { s.snd with repeatTimer := s.timer 10000 } }
      { u with snd := { u.snd with repeatTimer := u.timer 10000 } } :=
    ⟨by simp only [h.snd, State.timer, h.clock], h.rlq, h.cfg, h.opState, h.speed, h.clock, h.travel⟩
  exact requestLeading_snd_congr timed .emergency 10

end

/-- R139, R146: a request without a waiting entry, with room in the queue. -/
theorem requestLeading_of_joins {source : SandSource} {u : State} (n : Nat) (active : u.isActive = true)
    (fresh : u.snd.queue.any (SandEntry.isFor source u.travel.leading) = false) (room : u.snd.queue.length < 8) :
    requestLeading source n u = judgeEnd u.travel.leading (joinTail source u.travel.leading true n u) := by
  have placed : (placement source u.travel.leading n u).isSome = true := by
    rw [placement_of_fresh n fresh, if_pos (.inl room)]
    rfl
  have joins : enqueueSand source u.travel.leading true n u = joinTail source u.travel.leading true n u := by
    rw [enqueueSand, if_neg (by rw [fresh]; exact Bool.false_ne_true), if_pos room]
  rw [requestLeading, requestLeadingAll, if_pos active, joinAll, joinAll, joinNext,
    if_pos ⟨placed, .inr rfl⟩, joins]

/-! The most urgent entry where others leave (R143, R146) -/

theorem mostUrgent_of_head {a : SandEntry} {q : List SandEntry}
    (low : ∀ y ∈ q, ¬ sandPriority a.source < sandPriority y.source) : mostUrgent (a :: q) = some a := by
  rw [mostUrgent]
  split
  · rfl
  · next y e => rw [if_neg (low y (mostUrgent_mem e))]

theorem mostUrgent_of_tail {a z : SandEntry} {q : List SandEntry} (e : mostUrgent q = some z)
    (less : sandPriority a.source < sandPriority z.source) : mostUrgent (a :: q) = some z := by
  rw [mostUrgent, e]
  exact if_pos less

theorem mostUrgent_eq_none {q : List SandEntry} (h : mostUrgent q = none) : q = [] := by
  cases q with
  | nil => rfl
  | cons a q =>
    rw [mostUrgent] at h
    split at h
    · exact nomatch h
    · split at h <;> exact nomatch h

theorem mostUrgent_max : ∀ {q : List SandEntry} {x : SandEntry}, mostUrgent q = some x →
    ∀ y ∈ q, sandPriority y.source ≤ sandPriority x.source
  | a :: rest, x, h, y, hy => by
    rw [mostUrgent] at h
    split at h
    · next none =>
      cases h
      rw [mostUrgent_eq_none none] at hy
      rw [List.mem_singleton.mp hy]
    · next z e =>
      have tail := mostUrgent_max e
      split_ifs at h with less
      · cases h
        rcases List.mem_cons.mp hy with rfl | hy
        · exact less.le
        · exact tail y hy
      · cases h
        rcases List.mem_cons.mp hy with rfl | hy
        · exact le_rfl
        · exact (tail y hy).trans (not_lt.mp less)

/-- The most urgent entry stays so where others leave. -/
theorem mostUrgent_filter {keep : SandEntry → Bool} : ∀ {q : List SandEntry} {x : SandEntry},
    mostUrgent q = some x → keep x = true → mostUrgent (q.filter keep) = some x
  | a :: rest, x, h, kept => by
    by_cases head : x = a
    · subst head
      rw [List.filter_cons_of_pos kept]
      exact mostUrgent_of_head fun y hy =>
        not_lt.mpr (mostUrgent_max h y (List.mem_cons_of_mem _ (List.mem_filter.mp hy).1))
    · rw [mostUrgent] at h
      split at h
      · cases h
        exact absurd rfl head
      · next z e =>
        split_ifs at h with less
        · cases h
          have tail := mostUrgent_filter e kept
          by_cases keeps : keep a = true
          · rw [List.filter_cons_of_pos keeps]
            exact mostUrgent_of_tail tail less
          · rw [List.filter_cons_of_neg keeps]
            exact tail
        · cases h
          exact absurd rfl head

end Sys2Proof.Machine
end

section
/-! SUPPORT. A change of the demand record at SND (R138 to R147): what SND has taken of it after the deliveries of the
event, in any order, and the four readers of the mode together (R94). -/

namespace Sys2Proof.Machine

/-! The EMERGENCY request where it waits or is granted (R139, R146, R147) -/

section

variable {u : State} {e : Side} {fresh : SandEntry}

theorem emergencySand_repeatTimer (u : State) : (emergencySand u).snd.repeatTimer = some (u.clock + 10000000) :=
  (requestLeading_onward (source := .emergency) 10
    { u with snd := { u.snd with repeatTimer := u.timer 10000 } }).grows.1

/-- SND with the EMERGENCY entry at the end of its queue. -/
abbrev emergencyWaits (u : State) (fresh : SandEntry) : Snd :=
  { u.snd with
    repeatTimer := u.timer 10000, queue := u.snd.queue ++ [fresh], arrivals := u.snd.arrivals + 1 }

theorem emergencySand_of_room (active : u.isActive = true) (side : u.travel.leading = e)
    (hfresh : fresh = {
      source := .emergency, side := e, leading := true, shots := 10, age := none, arrival := u.snd.arrivals })
    (absent : u.snd.queue.any (SandEntry.isFor .emergency e) = false) (room : u.snd.queue.length < 8) :
    emergencySand u = judgeEnd e { u with snd := emergencyWaits u fresh } := by
  have joins := requestLeading_of_joins (source := .emergency)
    (u := { u with snd := { u.snd with repeatTimer := u.timer 10000 } }) 10 active
    (by rw [← side] at absent; exact absent) room
  rw [emergencySand, joins, hfresh, ← side]
  rfl

theorem HillStartLeaves.arrivals {d d' : Snd} (h : HillStartLeaves d d') : d'.arrivals = d.arrivals := by
  rcases h with rfl | rfl <;> rfl

theorem HillStartLeaves.level {d d' : Snd} (h : HillStartLeaves d d') : d'.level = d.level := by
  rcases h with rfl | rfl <;> rfl

theorem HillStartLeaves.valve {d d' : Snd} (h : HillStartLeaves d d') : d'.valve = d.valve := by
  rcases h with rfl | rfl <;> rfl

theorem HillStartLeaves.sublist {d d' : Snd} (h : HillStartLeaves d d') : d'.queue.Sublist d.queue := by
  rcases h with rfl | rfl
  · exact .refl _
  · exact List.filter_sublist

theorem HillStartLeaves.mem {d d' : Snd} (h : HillStartLeaves d d') {x : SandEntry} (hx : x ∈ d.queue)
    (other : x.source ≠ .hillStart) : x ∈ d'.queue := by
  rcases h with rfl | rfl
  · exact hx
  · exact List.mem_filter.mpr ⟨hx, by simpa using other⟩

/-- R146: an entry of another source is granted as well where HILL_START entries have left. -/
theorem HillStartLeaves.grantee {s : State} {d d' : Snd} (h : HillStartLeaves d d') {x : SandEntry}
    (other : x.source ≠ .hillStart) (granted : grantee { s with snd := d } e = some x) :
    grantee { s with snd := d' } e = some x := by
  rcases h with rfl | rfl
  · exact granted
  · unfold Machine.grantee at granted ⊢
    split at granted
    · next free =>
      rw [if_pos (by exact free)]
      have kept := mostUrgent_filter (keep := fun y => !decide (y.source = .hillStart)) granted (by simpa using other)
      rw [List.filter_filter] at kept ⊢
      rw [← kept]
      congr 1
      refine List.filter_congr fun y _ => ?_
      exact Bool.and_comm _ _
    · exact nomatch granted

/-- HILL_START entries that leave the queue leave also where the entry has joined it. -/
theorem hillStartLeaves_waits {s : State} (h : HillStartLeaves s.snd u.snd) (clock : u.clock = s.clock)
    (other : fresh.source ≠ .hillStart) : HillStartLeaves (emergencyWaits s fresh) (emergencyWaits u fresh) := by
  have timer : u.timer 10000 = s.timer 10000 := by rw [State.timer, State.timer, clock]
  rw [emergencyWaits, emergencyWaits, timer]
  rcases h with same | left
  · exact .inl (by rw [same])
  · refine .inr ?_
    rw [left]
    simp [List.filter_append, other]

end

section

variable {before s : State} {also : List (State → State)}

/-- SND around its taking of the change of mode. -/
theorem deliverDemand_aroundSand (r : Redemanded before s) (ha : ∀ f ∈ also, OnlyReports f)
    (changes : s.mode ≠ before.mode) {X : Snd → Snd → Prop} (refl : ∀ d, X d d)
    (trans : ∀ {a b c}, X a b → X b c → X a c)
    (hill : ∀ u, Ground s u → X u.snd (hillModeChange before.mode s.mode u).snd)
    (plain : ∀ u v, Plain (s.travel ≠ before.travel) u v → X u.snd v.snd) :
    ∃ u, Passes (s.travel ≠ before.travel) s u ∧ X before.snd u.snd
      ∧ Passes (s.travel ≠ before.travel) (sandModeChange before.mode s.mode u)
        (deliverDemand before.bld.demand also s)
      ∧ X (sandModeChange before.mode s.mode u).snd (deliverDemand before.bld.demand also s).snd := by
  obtain ⟨u, pre, snd, post, snd'⟩ := deliverDemand_around ha changes (f := sandModeChange before.mode s.mode)
    (List.perm_middle (l₁ := [adhModeChange before.mode s.mode, hillModeChange before.mode s.mode,
      tripModeChange before.mode s.mode]) (l₂ := []))
    (X := fun u v => X u.snd v.snd) (fun _ _ => refl _) trans
    (fun g hg u ground => by
      simp only [List.cons_append, List.nil_append, List.mem_cons, List.not_mem_nil, or_false] at hg
      rcases hg with rfl | rfl | rfl
      · have same : (adhModeChange before.mode s.mode u).snd = u.snd := by unfold adhModeChange; split <;> rfl
        rw [same]
        exact refl _
      · exact hill u ground
      · rw [tripModeChange_snd]
        exact refl _)
    plain
  exact ⟨u, pre, r.snd ▸ snd, post, snd'⟩

/-- R142, R143: the repeat timer and the sources, around SND's taking of the change. -/
theorem deliverDemand_sandGrows (r : Redemanded before s) (ha : ∀ f ∈ also, OnlyReports f)
    (changes : s.mode ≠ before.mode) :
    ∃ u, Passes (s.travel ≠ before.travel) s u ∧ SandGrows .hillStart before.snd u.snd
      ∧ SandGrows .hillStart (sandModeChange before.mode s.mode u).snd
        (deliverDemand before.bld.demand also s).snd := by
  obtain ⟨u, pre, snd, -, snd'⟩ := deliverDemand_aroundSand r ha changes (X := SandGrows .hillStart) (.refl _)
    SandGrows.trans (fun u _ => (hillModeChange_onward _ _ u).grows) (fun _ _ h => h.grows)
  exact ⟨u, pre, snd, snd'⟩

/-- R143: the end of DRIVE but in a catch drops HILL_START entries at most, and another change of mode nothing. -/
theorem hillModeChange_hillStartLeaves {old new : Mode} {u : State} (active : u.isActive = true)
    (ends : new ≠ .drive) (free : u.mode ≠ .drive) : HillStartLeaves u.snd (hillModeChange old new u).snd := by
  by_cases was : old = .drive
  · subst was
    by_cases enters : endsInHolding u
    · rw [hillModeChange_enters active ends enters, enterHolding_of_mode (s := rearmed u) .driveEnded free]
      refine moveHold_hillStartLeaves (s := rearmed u) .driveEnded fun (c : u.hhu.state = .rollbackCatch) => ?_
      rw [endsInHolding, c] at enters
      simp at enters
    · rw [hillModeChange_rearms active ends free enters]
      exact .inl rfl
  · rw [hillModeChange_of_other was free]
    exact .inl rfl

/-- What SND sees before it takes the change of mode, where the direction stays. -/
theorem sandSees_of_passes {u : State} (r : Redemanded before s) (straight : s.travel = before.travel)
    (pre : Passes (s.travel ≠ before.travel) s u) : SandSees { before with snd := u.snd } u :=
  ⟨rfl, (pre.rlq.resolve_right fun c => c.1 straight).trans r.rlq, pre.ground.cfg.trans r.cfg,
    pre.ground.opState.trans r.opState, by rw [pre.ground.ref, r.ref], pre.ground.clock.trans r.clock,
    pre.ground.travel.trans straight⟩

/-- R139, R146, R147: SND's taking of a change into EMERGENCY, in a state that shows SND what `before` shows it but
HILL_START entries. -/
theorem emergencySand_fresh {u t : State} {e : Side} {fresh : SandEntry} (active : before.sfc.opState = .active)
    (sees : SandSees { before with snd := u.snd } u) (left : HillStartLeaves before.snd u.snd)
    (left' : HillStartLeaves (emergencySand u).snd t.snd)
    (sent : ∀ x, reported x (emergencySand u) → reported x t)
    (he : e = if before.travel = .forward then .one else .two)
    (hfresh : fresh = {
      source := .emergency, side := e, leading := true, shots := 10, age := none, arrival := before.snd.arrivals })
    (absent : before.snd.queue.any (SandEntry.isFor .emergency e) = false) (room : before.snd.queue.length < 8) :
    (before.snd.valve.get e ≠ .closed → fresh ∈ t.snd.queue ∧ t.snd.arrivals = before.snd.arrivals + 1)
    ∧ ∀ allowed : Nat,
      grantee { before with snd := { before.snd with queue := before.snd.queue ++ [fresh] } } e = some fresh →
      allowed = min before.sfc.cfg.sand.shot
        (before.snd.level.get e * 1000 / before.sfc.cfg.sand.flow.get e) →
      reported (.sand (.shot allowed (before.sfc.cfg.sand.flow.get e)) e .emergency before.snd.arrivals 9
        (before.snd.level.get e) before.nowMs) t := by
  have side : u.travel.leading = e := by
    rw [he, sees.travel]
    show before.travel.leading = _
    cases before.travel <;> rfl
  have other : fresh.source ≠ .hillStart := by
    rw [hfresh]
    exact SandSource.noConfusion
  have requested := emergencySand_of_room (u := u) (e := e) (fresh := fresh)
    (by rw [isActive_iff, sees.opState]; exact active) side (by rw [hfresh, left.arrivals])
    (any_false_of_sublist left.sublist absent) (left.sublist.length_le.trans_lt room)
  rw [requested] at left' sent
  refine ⟨fun busy => ?_, fun allowed granted hallowed => ?_⟩
  · rw [judgeEnd_of_busy (by rw [← left.valve] at busy; exact busy)] at left'
    exact ⟨left'.mem (by simp) other, by rw [left'.arrivals, ← left.arrivals]⟩
  · have grants : grantee { u with snd := emergencyWaits u fresh } e = some fresh :=
      (grantee_congr sees e _).trans
        ((hillStartLeaves_waits (s := before) left sees.clock other).grantee other granted)
    have shot := grant_reported fresh { u with snd := emergencyWaits u fresh }
    rw [← judgeEnd_of_grantee grants] at shot
    have now : ({ u with snd := emergencyWaits u fresh } : State).nowMs = before.nowMs := by
      rw [State.nowMs, State.nowMs, sees.clock]
    rw [sees.cfg, now, hfresh] at shot
    rw [hallowed, ← left.level]
    exact sent _ (hfresh ▸ shot)

theorem deliverDemand_atSanding (r : Redemanded before s) (active : before.sfc.opState = .active)
    (ha : ∀ f ∈ also, OnlyReports f) : modeAtSanding before (deliverDemand before.bld.demand also s) := by
  have all := deliverDemand_passes (old := before.bld.demand) (s := s) ha
  rw [modeAtSanding, all.ground.mode, all.ground.travel]
  have live {u : State} (pre : Passes (s.travel ≠ before.travel) s u) : u.sfc.opState = .active := by
    rw [pre.ground.opState, r.opState, active]
  refine ⟨fun was begins => ⟨?_, fun straight => ?_⟩, fun was ends => ?_, fun both => ?_⟩
  · have changes : s.mode ≠ before.mode := fun same => was (same.symm.trans begins)
    obtain ⟨u, pre, -, grows⟩ := deliverDemand_sandGrows r ha changes
    rw [grows.1, begins, sandModeChange_to_emergency (live pre), emergencySand_repeatTimer, pre.ground.clock,
      r.clock]
  · have changes : s.mode ≠ before.mode := fun same => was (same.symm.trans begins)
    have free : s.mode ≠ .drive := by rw [begins]; decide
    have plain : ∀ u v, Plain (s.travel ≠ before.travel) u v → v.snd = u.snd :=
      fun u v h => h.snd (not_not.mpr straight)
    refine ⟨fun stands => ?_, fun e fresh he hfresh absent room => ?_⟩
    · obtain ⟨u, pre, snd, -, snd'⟩ := deliverDemand_aroundSand r ha changes (X := fun a b => b = a)
        (fun _ => rfl) (fun a b => b.trans a)
        (fun u ground => by rw [hillModeChange_of_other stands (by rwa [ground.mode])]) plain
      rw [begins, sandModeChange_to_emergency (live pre)] at snd'
      have sees := sandSees_of_passes r straight pre
      rw [snd] at sees
      exact snd'.trans (emergencySand_snd_congr sees)
    · obtain ⟨u, pre, left, post, left'⟩ := deliverDemand_aroundSand r ha changes (X := HillStartLeaves)
        (fun _ => .inl rfl) HillStartLeaves.trans
        (fun u ground => hillModeChange_hillStartLeaves
          (by rw [ground.isActive, isActive_iff, r.opState, active]) free (by rwa [ground.mode]))
        (fun u v h => .inl (plain u v h))
      rw [begins, sandModeChange_to_emergency (live pre)] at left' post
      exact emergencySand_fresh active (sandSees_of_passes r straight pre) left left' post.sent he hfresh absent room
  · have changes : s.mode ≠ before.mode := fun same => ends (same.trans was)
    obtain ⟨u, -, -, timer, grows⟩ := deliverDemand_sandGrows r ha changes
    rw [was, sandModeChange_from_emergency u ends] at timer grows
    refine ⟨timer, fun y hy => ?_⟩
    rcases grows y hy with hill | ⟨z, hz, same⟩
    · rw [hill]; decide
    · rw [← same]
      simpa using (List.mem_filter.mp hz).2
  · by_cases same : s.mode = before.mode
    · rw [(deliverDemand_plain ha same).grows.1, r.snd]
    · obtain ⟨u, -, first, second⟩ := deliverDemand_sandGrows r ha same
      have starts : s.mode ≠ .emergency := fun c => same (c.trans (both.mpr c).symm)
      rw [sandModeChange_other u starts fun c => starts (both.mp c)] at second
      rw [second.1, first.1]

/-- R94: what the four readers of the mode have taken. -/
theorem deliverDemand_modeTaken (r : Redemanded before s) (active : before.sfc.opState = .active)
    (ha : ∀ f ∈ also, OnlyReports f)
    (free : s.mode = .drive → before.mode ≠ .drive → ¬ (s.eblOpen = true ∧ s.bld.demand.latch = some .loop)) :
    modeTaken before (deliverDemand before.bld.demand also s) :=
  ⟨deliverDemand_atAdhesion r active ha, deliverDemand_atSanding r active ha, deliverDemand_atTrip r active ha,
    deliverDemand_atHillHold r active ha free⟩

end

end Sys2Proof.Machine
end

section
/-! SUPPORT. What the deliveries of a change of the demand record leave of the low-adhesion records and of the fault
records (R54, R64, R93, R94, R185), and the record they leave (R97). -/

namespace Sys2Proof.Machine

/-! The record (R97) -/

theorem Demand.eq_of_parts {d d' : Demand} (mode : d.mode = d'.mode) (dir : d.dir = d'.dir)
    (permitted : d.permitted = d'.permitted) (stale : d.stale = d'.stale) (latch : d.latch = d'.latch)
    (timer : d.timer = d'.timer) : d = { d' with effort := d.effort } := by
  cases d
  cases d'
  simp_all

/-- A change that leaves the core leaves the record but the effort. -/
theorem demand_but_effort_of_core {s t : State} (h : s.core = t.core) :
    s.bld.demand = { t.bld.demand with effort := s.bld.demand.effort } :=
  Demand.eq_of_parts (mode_of_core h) (travel_of_core h) (permitted_of_core h) (stale_of_core h) (latch_of_core h)
    (demandTimer_of_core h)

theorem Ground.demand_but_effort {s t : State} (h : Ground s t) :
    t.bld.demand = { s.bld.demand with effort := t.bld.demand.effort } := (demand_but_effort_of_core h :)

/-! The low-adhesion records and the fault records -/

/-- Of the core no more than ADH's axle states and HHU's record change. -/
abbrev Quiet (s t : State) : Prop :=
  t.core = { s.core with adh := { s.core.adh with axle := t.core.adh.axle }, hhu := t.core.hhu }

theorem quiet_of_core {s t : State} (h : t.core = s.core) : Quiet s t := by
  rw [Quiet, h]

theorem quiet_of_onlyHhu {s t : State} (h : OnlyHhu s t) : Quiet s t := by
  unfold OnlyHhu at h
  rw [Quiet, h]

theorem Quiet.trans {s t u : State} (a : Quiet s t) (b : Quiet t u) : Quiet s u := by
  rw [Quiet] at *
  rw [b, a]

theorem Quiet.bogie {s t : State} (h : Quiet s t) : t.adh.bogie = s.adh.bogie :=
  congrArg (fun c : CoreView => c.adh.bogie) h

theorem Quiet.fault {s t : State} (h : Quiet s t) {id : FaultId} (other : ∀ e, id ≠ .sandEmpty e) :
    t.fault id = s.fault id :=
  (fault_of_core (t := { s with adh := { s.adh with axle := t.adh.axle }, hhu := t.hhu }) h other :)

theorem adhModeChange_quiet (old new : Mode) (s : State) : Quiet s (adhModeChange old new s) := by
  unfold adhModeChange
  split <;> rfl

theorem modeDelivery_quiet {before after : Mode} {f : State → State} (h : f ∈ modeDeliveries before after)
    (u : State) : Quiet u (f u) := by
  simp only [modeDeliveries, List.mem_cons, List.not_mem_nil, or_false] at h
  rcases h with rfl | rfl | rfl | rfl
  · exact adhModeChange_quiet _ _ u
  · exact quiet_of_onlyHhu (hillModeChange_onlyHhu _ _ u)
  · exact quiet_of_core (tripModeChange_core _ _ u)
  · exact quiet_of_core (sandModeChange_core _ _ u)

section

variable {old : Demand} {s : State}

theorem delivery_quiet {f : State → State} (h : f ∈ demandDeliveries old [] s) (u : State) : Quiet u (f u) := by
  rcases List.mem_append.mp h with ofMode | plain
  · split at ofMode
    · exact absurd ofMode List.not_mem_nil
    · exact modeDelivery_quiet ofMode u
  · rcases plainDeliveries_cases plain with ⟨-, rfl | rfl | rfl⟩ | rfl | h
    · exact quiet_of_core (routeDirection_core u)
    · rfl
    · rfl
    · exact quiet_of_core (rerun_core u)
    · exact absurd h List.not_mem_nil

theorem deliverDemand_quiet : Quiet s (deliverDemand old [] s) := by
  obtain ⟨l, hl, e⟩ := deliverDemand_order (old := old) (also := []) (s := s)
  rw [e]
  refine inSomeOrder_keeps (P := Quiet s) (fun {t} h => ?_)
    (fun f hf t h => h.trans (delivery_quiet (hl.mem_iff.mp hf) t)) rfl
  rw [Quiet, drawFrom_core]
  exact h

/-- The event around the report it brings along. -/
theorem deliverDemand_aroundReport (f : State → State) :
    ∃ u, Passes (s.travel ≠ old.dir) s u ∧ Quiet s u
      ∧ Passes (s.travel ≠ old.dir) (f u) (deliverDemand old [f] s) ∧ Quiet (f u) (deliverDemand old [f] s) := by
  obtain ⟨l, hl, e⟩ := deliverDemand_order (old := old) (also := [f]) (s := s)
  have split : (demandDeliveries old [f] s).Perm (f :: demandDeliveries old [] s) := by
    simpa [demandDeliveries, plainDeliveries] using List.perm_append_singleton f (demandDeliveries old [] s)
  obtain ⟨n, before, after, rest, e'⟩ := inSomeOrder_around (hl.trans split) s
  have run : ∀ (m : List (State → State)) (u : State), (∀ g ∈ m, g ∈ before ++ after) →
      Passes (s.travel ≠ old.dir) u (inOrder m u) ∧ Quiet u (inOrder m u) := by
    intro m u hm
    refine inOrder_keeps (P := fun v => Passes (s.travel ≠ old.dir) u v ∧ Quiet u v) (fun g hg v h => ?_)
      ⟨passes_of_free u u.free, rfl⟩
    have mem := rest g (hm g hg)
    exact ⟨h.1.trans (delivery_passes (by simp) mem v), h.2.trans (delivery_quiet mem v)⟩
  obtain ⟨first, quiet⟩ := run before { s with free := n } fun g => List.mem_append_left _
  obtain ⟨second, quiet'⟩ := run after (f (inOrder before { s with free := n })) fun g => List.mem_append_right _
  rw [e, e']
  exact ⟨_, (passes_of_free s n).trans first, quiet, second, quiet'⟩

end

end Sys2Proof.Machine
end

section
/-! SUPPORT. The emergency loop, the demand timer and the track-brake timers (R94, R95, R97, R109, R110). -/

namespace Sys2Proof.Machine

theorem redemanded_setDemand (s : State) (d : Demand) : Redemanded s (s.setDemand d) :=
  ⟨rfl, rfl, rfl, rfl, rfl, rfl, rfl, rfl, rfl⟩

/-! The emergency loop (R97) -/

theorem openLoop_of_active {s : State} (shut : s.eblOpen = false) (active : s.sfc.opState = .active) :
    openLoop s = deliverDemand s.bld.demand []
      (({ s with eblOpen := true } : State).setDemand (loopOpened s s.bld.demand)) := by
  rw [openLoop, if_neg (by rw [shut]; exact Bool.false_ne_true), if_pos ((isActive_iff s).mpr active)]

/-- Settles O29: the opening sets the record and delivers it, so the record is read back from what every delivery
keeps, and the effort from the caps it follows. -/
theorem emergencyLoop : Obligations.EmergencyLoop := by
  unfold Obligations.EmergencyLoop
  refine fun s => ⟨rfl, fun opened => ?_, fun shut idle => ?_, fun shut active => ?_⟩
  · exact congrArg Host.Outcome.next (if_pos opened)
  · refine congrArg Host.Outcome.next ?_
    rw [openLoop, if_neg (by rw [shut]; exact Bool.false_ne_true)]
    exact if_neg fun c => idle ((isActive_iff s).mp c)
  · refine ⟨_, congrArg Host.Outcome.next (openLoop_of_active shut active), ?_⟩
    generalize hb : ({ s with eblOpen := true } : State).setDemand (loopOpened s s.bld.demand) = b
    have r : Redemanded s b := by subst hb; exact ⟨rfl, rfl, rfl, rfl, rfl, rfl, rfl, rfl, rfl⟩
    have record : b.bld.demand = loopOpened s s.bld.demand := by rw [← hb]; rfl
    have mode : b.mode = .emergency := by rw [State.mode, record]; rfl
    have straight : b.travel = s.travel := by rw [State.travel, record]; rfl
    have passes := deliverDemand_passes (old := s.bld.demand) (also := []) (s := b) (by simp)
    have quiet := deliverDemand_quiet (old := s.bld.demand) (s := b)
    have taken := deliverDemand_modeTaken (s := b) (also := []) r active (by simp)
      (fun c => absurd (mode.symm.trans c) (by decide))
    have effort : (deliverDemand s.bld.demand [] b).bld.demand.effort
        = (deliverDemand s.bld.demand [] b).bld.cap.sum := by
      have start : loopHolds b := ⟨r.opState.trans active, by rw [← hb]; rfl, by rw [record]; rfl⟩
      obtain ⟨-, ⟨effort, cap⟩ | sum⟩ := passes.follows start
      · rw [effort, cap, record, ← hb]
        rfl
      · exact sum
    refine ⟨?_, ?_, ?_, passes.ground.ref.trans r.ref, ?_, quiet.bogie.trans (by rw [r.adh]), ?_,
      passes.ground.opState.trans (r.opState.trans active), passes.ground.cfg.trans r.cfg, taken, fun was => ?_⟩
    · rw [(eblOpen_of_core passes.ground :), ← hb]
      rfl
    · rw [passes.ground.demand_but_effort, record, effort]
      rfl
    · rw [(wsc_of_core passes.ground :), ← hb]
      rfl
    · exact (passes.rlq.resolve_right fun c => c.1 straight).trans r.rlq
    · rw [(chan_of_core passes.ground :), ← hb]
      rfl
    · have plain := deliverDemand_plain (old := s.bld.demand) (also := []) (s := b) (by simp)
        (mode.trans was.symm)
      exact ⟨(plain.snd (not_not.mpr straight)).trans r.snd, plain.adh.trans r.adh, plain.stu.trans r.stu,
        (plain.hhu.resolve_right fun c => c.1 straight).trans r.hhu⟩

/-! The demand timer (R95) -/

theorem reportStale_onlyReports (m : Mode) (n : Nat) : OnlyReports (reportStale m n) := by
  intro s
  refine ⟨?_, fun r h => sendReport_reported _ (raiseFault_keeps (stable_reported r) (by simp) h)⟩
  obtain ⟨x, -, e⟩ := raiseFault_eq .demandStale s
  rw [reportStale, sendReport_eq, e]
  rfl

theorem raiseFault_fault_self (id : FaultId) (s : State) : (raiseFault id s).fault id
    = if (s.fault id).active then s.fault id else (s.fault id).raised s.nowMs := by
  unfold raiseFault
  split
  · rfl
  · dsimp only
    rw [State.fault, sendReport_sfc, ← State.fault, State.setFault_fault, if_pos rfl]

theorem reportStale_fault (m : Mode) (n : Nat) (s : State) : (reportStale m n s).fault .demandStale
    = if (s.fault .demandStale).active then s.fault .demandStale
      else (s.fault .demandStale).raised s.nowMs := by
  rw [← raiseFault_fault_self, State.fault, reportStale, sendReport_sfc]
  rfl

/-- R95: the record after a demand timeout. -/
def staleRecord (s : State) : Demand :=
  { s.bld.demand with mode := .brake, effort := s.blend.fStale, stale := true, timer := none }

/-- R95: the report and the fault that a demand timeout brings along. -/
abbrev staleReport (s : State) : State → State := reportStale s.bld.demand.mode s.bld.demand.effort

theorem demandTimeout_eq (s : State) : demandTimeout s
    = deliverDemand s.bld.demand [staleReport s] (s.setDemand (staleRecord s)) := rfl

theorem staleReport_only (s : State) : ∀ f ∈ [staleReport s], OnlyReports f := by
  intro f hf
  rw [List.mem_singleton.mp hf]
  exact reportStale_onlyReports _ _

theorem demandTimeout_passes (s : State) : Passes False (s.setDemand (staleRecord s)) (demandTimeout s) := by
  have passes := deliverDemand_passes (old := s.bld.demand) (s := s.setDemand (staleRecord s)) (staleReport_only s)
  exact ⟨passes.ground, passes.sent, passes.rlq.imp_right fun c => absurd rfl c.1, passes.follows⟩

/-- R95, R185: what a demand timeout raises and reports, and the low-adhesion records it leaves. -/
theorem demandTimeout_raises (s : State) :
    (demandTimeout s).fault .demandStale = (if (s.fault .demandStale).active then s.fault .demandStale
      else (s.fault .demandStale).raised s.nowMs)
    ∧ reported (.staleDemand s.bld.demand.mode s.bld.demand.effort s.blend.fStale s.nowMs) (demandTimeout s)
    ∧ (demandTimeout s).adh.bogie = s.adh.bogie := by
  have reports := reportStale_onlyReports s.bld.demand.mode s.bld.demand.effort
  obtain ⟨u, pre, quiet, post, quiet'⟩ :=
    deliverDemand_aroundReport (old := s.bld.demand) (s := s.setDemand (staleRecord s)) (staleReport s)
  have stale : ∀ e, FaultId.demandStale ≠ .sandEmpty e := fun _ => FaultId.noConfusion
  have now : u.nowMs = s.nowMs := pre.ground.nowMs
  have blend : u.blend = s.blend := by rw [State.blend, State.blend, pre.ground.cfg]; rfl
  rw [demandTimeout_eq]
  refine ⟨?_, post.sent _ ?_, ?_⟩
  · rw [quiet'.fault stale, reportStale_fault, quiet.fault stale, now]
    rfl
  · rw [staleReport, reportStale, blend, now]
    exact sendReport_reported_self _ _
  · rw [quiet'.bogie, staleReport, (reports u).1]
    exact quiet.bogie

/-! The track-brake timers (R109, R110) -/

/-- The track brakes stay as they are at a re-run, with the timer that cannot run stopped. -/
theorem rerun_track_of_permitted {s : State} (active : s.sfc.opState = .active) (brakes : s.mode = .brake)
    (permitted : s.bld.demand.permitted = true) :
    (rerun s).bld.track = s.bld.track ∧ (s.bld.track = true → (rerun s).bld.onTimer = none)
      ∧ (s.bld.track = false → (rerun s).bld.offTimer = none) ∧ (rerun s).bld.demand.mode = .brake
      ∧ rerun s = { s with bld := (rerun s).bld, afe := { s.afe with sup := (rerun s).afe.sup } } := by
  obtain ⟨out, sup, h⟩ := rerunWith_changes allPlain active
  obtain ⟨track, off, on⟩ := allocated_track_of_permitted brakes permitted
  have mode : (allocated s).bld.demand.mode = .brake := by rw [allocated_stagesTaken s]; exact brakes
  rw [rerun, h]
  exact ⟨track, fun isOn => (on isOn).1, fun isOff => (off isOff).1, mode, rfl⟩

/-- Settles O28: the demand timer's event is one of `deliverDemand`; a track-brake timer's is one re-run. -/
theorem demandAndTrackTimers : Obligations.DemandAndTrackTimers := by
  unfold Obligations.DemandAndTrackTimers
  refine ⟨fun s due free => ?_, fun s active brakes permitted => ⟨fun due => ?_, fun due => ?_⟩⟩
  · have passes := demandTimeout_passes s
    obtain ⟨raised, sent, bogie⟩ := demandTimeout_raises s
    rw [FaultRec.raised, Nat.min_comm] at raised
    exact ⟨_, congrArg Host.Outcome.next (if_pos due), passes.ground.demand free, raised, sent,
      (wsc_of_core passes.ground :), passes.ground.ref, passes.rlq.resolve_right fun c => c.1, bogie,
      (chan_of_core passes.ground :), passes.ground.opState, passes.ground.cfg, fun active =>
      deliverDemand_modeTaken (redemanded_setDemand s _) active (staleReport_only s) fun drive => nomatch drive⟩
  · obtain ⟨track, on, -, mode, blend⟩ := rerun_track_of_permitted
      (s := { s with bld := { s.bld with track := true, onTimer := none } }) active brakes permitted
    exact ⟨_, congrArg Host.Outcome.next (if_pos due), rfl, track, on rfl, mode, blend⟩
  · obtain ⟨track, -, off, mode, blend⟩ := rerun_track_of_permitted
      (s := { s with bld := { s.bld with track := false, offTimer := none } }) active brakes permitted
    exact ⟨_, congrArg Host.Outcome.next (if_pos due), rfl, track, off rfl, mode, blend⟩

end Sys2Proof.Machine
end

section
/-! SUPPORT. DEMAND (R92 to R98, R111): the record that is taken, what its change delivers, and the settlement. -/

namespace Sys2Proof.Machine

/-! The fields and the reply (R92, R93, R96) -/

theorem demandFields_of_codes {mode dir permitted : Byte} {effort : BitVec 16} {m : Mode} {d : Direction} {p : Bool}
    (hm : Mode.ofCode? mode.toNat = some m) (hd : dirOfCode? dir.toNat = some d) (he : effort.toNat ≤ 2000)
    (hp : boolOfCode? permitted.toNat = some p) :
    demandFields mode dir effort permitted = .ok ⟨m, d, effort.toNat, p⟩ := by
  rw [demandFields, hm, hd]
  dsimp only
  rw [if_neg (Nat.not_lt.mpr he), hp]

section

variable {s : State} {f : DemandFields}

theorem directionHeld_iff : directionHeld s f = true ↔ f.dir ≠ s.travel ∧ s.ref.active ≠ .standstill := by
  simp [directionHeld]

theorem clearsLatch_iff : clearsLatch s f = true ↔ s.bld.demand.latch ≠ none ∧ f.mode ≠ .emergency
    ∧ s.ref.active = .standstill ∧ s.eblOpen = false := by
  simp [clearsLatch, Option.isSome_iff_ne_none, and_assoc]

theorem modeHeld_iff : modeHeld s f = true ↔ s.bld.demand.latch ≠ none ∧ f.mode ≠ .emergency
    ∧ (s.ref.active ≠ .standstill ∨ s.eblOpen = true) := by
  rw [modeHeld, Bool.and_eq_true, Bool.not_eq_true', ← Bool.not_eq_true, clearsLatch_iff]
  simp only [Bool.and_eq_true, Option.isSome_iff_ne_none, decide_eq_true_eq, ← Bool.not_eq_true]
  tauto

/-- R92, R93, R96: the reply to a DEMAND that is taken. -/
def takenReply (f : DemandFields) (s : State) : Result :=
  if directionHeld s f ∨ modeHeld s f then .held else .ok []

theorem takeDemand_of_fields {tag mode dir permitted : Byte} {effort : BitVec 16} (active : s.sfc.opState = .active)
    (fields : demandFields mode dir effort permitted = .ok f) :
    takeDemand tag mode dir effort permitted s = applyDemand f (answer .demand tag (takenReply f s) s) := by
  have live := (isActive_iff s).mpr active
  have result : demandResult mode dir effort permitted s = takenReply f s := by
    rw [demandResult, fields, takenReply]
    simp only [live, Bool.not_true, Bool.false_eq_true, if_false]
  unfold takeDemand
  rw [fields, result]
  exact if_pos live

theorem exec_demand {tag mode dir permitted : Byte} {effort : BitVec 16} (h : activeAccepts s)
    (fields : demandFields mode dir effort permitted = .ok f) : exec (.demand tag mode dir effort permitted) s
      = .next (applyDemand f (answer .demand tag (takenReply f s) s)) :=
  congrArg Host.Outcome.next ((asRequest_of_accepts _ h.2).trans (takeDemand_of_fields h.1 fields))

/-! The record (R92 to R98) -/

/-- R93: the direction after a DEMAND. -/
def takenDir (s : State) (f : DemandFields) : Direction :=
  if s.ref.active = .standstill then f.dir else s.travel

theorem takenDir_of_held : (if directionHeld s f then s.travel else f.dir) = takenDir s f := by
  unfold takenDir
  by_cases rests : s.ref.active = .standstill
  · rw [if_pos rests, if_neg fun held => (directionHeld_iff.mp held).2 rests]
  · rw [if_neg rests]
    by_cases other : f.dir = s.travel
    · rw [other, ite_self]
    · rw [if_pos (directionHeld_iff.mpr ⟨other, rests⟩)]

/-- R92, R93: the record with what every DEMAND sets. -/
def baseRecord (s : State) (f : DemandFields) : Demand :=
  { s.bld.demand with dir := takenDir s f, permitted := f.permitted, stale := false }

theorem demandTaken_eq (s : State) (f : DemandFields) : demandTaken s f = match s.bld.demand.latch with
    | none =>
      if f.mode = .emergency then
        { baseRecord s f with mode := .emergency, effort := f.effort, latch := some .demand, timer := none }
      else { baseRecord s f with mode := f.mode, effort := f.effort, timer := demandTimer s }
    | some _ =>
      if clearsLatch s f then
        { baseRecord s f with mode := f.mode, effort := f.effort, latch := none, timer := demandTimer s }
      else if f.mode = .emergency ∧ !s.eblOpen then { baseRecord s f with effort := f.effort }
      else baseRecord s f := by
  unfold demandTaken
  rw [takenDir_of_held]
  cases s.bld.demand.latch <;> rfl

/-- R92: without a latch. -/
theorem demandTaken_of_free (free : s.bld.demand.latch = none) (other : f.mode ≠ .emergency) : demandTaken s f = {
    mode := f.mode, dir := takenDir s f, effort := f.effort, permitted := f.permitted, stale := false
    latch := none, timer := demandTimer s } := by
  rw [demandTaken_eq, free]
  dsimp only
  rw [if_neg other, baseRecord, free]

/-- R96: EMERGENCY sets the latch. -/
theorem demandTaken_latches (free : s.bld.demand.latch = none) (emergency : f.mode = .emergency) :
    demandTaken s f = {
      mode := .emergency, dir := takenDir s f, effort := f.effort, permitted := f.permitted, stale := false
      latch := some .demand, timer := none } := by
  rw [demandTaken_eq, free]
  dsimp only
  rw [if_pos emergency, baseRecord]

/-- R98: another mode at rest with the loop closed clears the latch. -/
theorem demandTaken_clears (clears : clearsLatch s f = true) : demandTaken s f = {
    mode := f.mode, dir := takenDir s f, effort := f.effort, permitted := f.permitted, stale := false
    latch := none, timer := demandTimer s } := by
  obtain ⟨l, latched⟩ := Option.ne_none_iff_exists'.mp (clearsLatch_iff.mp clears).1
  rw [demandTaken_eq, latched]
  dsimp only
  rw [if_pos clears, baseRecord]

/-- R96: EMERGENCY under a latch with the loop closed sets the effort alone. -/
theorem demandTaken_of_emergency (latched : s.bld.demand.latch ≠ none) (emergency : f.mode = .emergency)
    (shut : s.eblOpen = false) : demandTaken s f = { baseRecord s f with effort := f.effort } := by
  obtain ⟨l, latched⟩ := Option.ne_none_iff_exists'.mp latched
  rw [demandTaken_eq, latched]
  dsimp only
  rw [if_neg fun c => (clearsLatch_iff.mp c).2.1 emergency, if_pos ⟨emergency, by rw [shut]; rfl⟩]

/-- R96, R97: another mode in motion, and every DEMAND under an open loop, leaves mode and effort. -/
theorem demandTaken_of_held (latched : s.bld.demand.latch ≠ none)
    (held : s.eblOpen = true ∨ (f.mode ≠ .emergency ∧ s.ref.active ≠ .standstill)) :
    demandTaken s f = baseRecord s f := by
  obtain ⟨l, latched⟩ := Option.ne_none_iff_exists'.mp latched
  rw [demandTaken_eq, latched]
  dsimp only
  rw [if_neg fun c => ?_, if_neg fun c => ?_]
  · obtain ⟨emergency, shut⟩ := c
    rcases held with opened | ⟨other, -⟩
    · simp [opened] at shut
    · exact other emergency
  · obtain ⟨-, -, rests, shut⟩ := clearsLatch_iff.mp c
    rcases held with opened | ⟨-, moves⟩
    · simp [opened] at shut
    · exact moves rests

/-- R92, R93: what every DEMAND sets. -/
theorem demandTaken_base (s : State) (f : DemandFields) : (demandTaken s f).dir = takenDir s f
    ∧ (demandTaken s f).permitted = f.permitted ∧ (demandTaken s f).stale = false := by
  rw [demandTaken_eq]
  split
  · split_ifs <;> exact ⟨rfl, rfl, rfl⟩
  · split_ifs <;> exact ⟨rfl, rfl, rfl⟩

/-- A DEMAND that leaves the latch on the loop leaves the mode. -/
theorem demandTaken_loop (loop : (demandTaken s f).latch = some .loop) : (demandTaken s f).mode = s.mode := by
  rw [demandTaken_eq] at loop ⊢
  split at loop
  · next free =>
    split_ifs at loop
    · exact absurd loop (by simp)
    · exact absurd (free.symm.trans loop) (by simp)
  · split_ifs at loop ⊢
    · rfl
    · rfl

/-! The event (R92 to R94, R111) -/

theorem endStale_eq (s : State) :
    endStale s = s.setFault .demandStale { s.fault .demandStale with active := false } := by
  unfold endStale
  split
  · rfl
  · next ended =>
    have same : ({ s.fault .demandStale with active := false } : FaultRec) = s.fault .demandStale := by
      rw [← Bool.not_eq_true _ |>.mp ended]
    rw [same, State.setFault_fault_self]

/-- The state that the change of the record is delivered in. -/
def demanded (f : DemandFields) (s : State) : State :=
  endStale ((if clearsLatch s f then releaseTrack s else s).setDemand (demandTaken s f))

/-- R111: beyond the deliveries, the DEMAND that clears the latch puts the track brakes off. -/
theorem applyDemand_eq (f : DemandFields) (s : State) : ∃ track on off,
    (clearsLatch s f = true → track = false ∧ on = none ∧ off = none)
    ∧ applyDemand f s = { deliverDemand s.bld.demand [] (demanded f s) with
        bld := { (deliverDemand s.bld.demand [] (demanded f s)).bld with
          track := track, onTimer := on, offTimer := off } } := by
  cases clears : clearsLatch s f with
  | true =>
    refine ⟨_, _, _, fun _ => ⟨rfl, rfl, rfl⟩, ?_⟩
    rw [applyDemand, demanded, if_pos clears, if_pos clears]
    rfl
  | false =>
    refine ⟨(deliverTaken f s).bld.track, (deliverTaken f s).bld.onTimer, (deliverTaken f s).bld.offTimer,
      nofun, ?_⟩
    rw [applyDemand, demanded, clears]
    rfl

/-- `l` is the link after the reply. -/
theorem demanded_eq (f : DemandFields) (s : State) (l : Lnk) : ∃ track on off,
    demanded f { s with lnk := l } = { s with
      bld := { s.bld with demand := demandTaken s f, track := track, onTimer := on, offTimer := off }
      sfc := { s.sfc with
        faults := s.sfc.faults.set .demandStale { s.fault .demandStale with active := false } }
      lnk := l } := by
  rw [demanded, endStale_eq]
  cases clears : clearsLatch { s with lnk := l } f with
  | true => exact ⟨_, _, _, rfl⟩
  | false => exact ⟨_, _, _, rfl⟩

end

end Sys2Proof.Machine
end

section
/-! SUPPORT. DEMAND: what the change of the record delivers, and the settlement (R92 to R98, R111). -/

namespace Sys2Proof.Machine

section

variable {old : Demand} {s : State}

/-- R93, R87: a change of direction empties the route, whatever the order. -/
theorem deliverDemand_flushes (turned : s.travel ≠ old.dir) : (deliverDemand old [] s).rlq.queue = [] := by
  obtain ⟨l, hl, e⟩ := deliverDemand_order (old := old) (also := []) (s := s)
  rw [e]
  refine inSomeOrder_reaches (P := fun _ => True) (Q := fun t => t.rlq.queue = []) (f := routeDirection)
    (fun _ => trivial) (fun _ _ _ _ => trivial) (fun g hg t _ empty => ?_) ?_ (fun t _ => routeDirection_queue t)
    trivial
  · rcases (delivery_passes (by simp) (hl.mem_iff.mp hg) t).rlq with same | ⟨-, gone⟩
    · rwa [same]
    · exact gone
  · rw [hl.mem_iff, demandDeliveries, plainDeliveries, if_neg turned, directionDeliveries]
    simp

/-- R99: neither mode nor direction changes, and the allocation re-runs once. -/
theorem deliverDemand_of_same (mode : s.mode = old.mode) (straight : s.travel = old.dir) :
    deliverDemand old [] s = rerun s := by
  rw [deliverDemand, if_pos mode, if_pos straight]
  rfl

/-- R97: one re-run that leaves the caps leaves the effort. -/
theorem rerun_effort_of_cap (active : s.sfc.opState = .active) (cap : (rerun s).bld.cap = s.bld.cap) :
    (rerun s).bld.demand.effort = s.bld.demand.effort := by
  obtain ⟨out, sup, h⟩ := rerunWith_changes allPlain active
  rw [rerun, h, allocated_stagesTaken s] at cap ⊢
  exact if_neg fun c => c.2.2 cap

end

/-! DEMAND's event in the state after the reply -/

section

variable {s b : State} {f : DemandFields}

/-- `b` is `s` with the record and the fault record of a DEMAND that is taken. -/
structure Demanded (f : DemandFields) (s b : State) : Prop where
  same : Redemanded s b
  record : b.bld.demand = demandTaken s f
  cap : b.bld.cap = s.bld.cap
  eblOpen : b.eblOpen = s.eblOpen
  wsc : b.wsc = s.wsc
  chan : b.afe.chan = s.afe.chan
  fault : ∀ id, b.fault id = if id = .demandStale then { s.fault .demandStale with active := false } else s.fault id

theorem demanded_spec (f : DemandFields) (s : State) (l : Lnk) : Demanded f s (demanded f { s with lnk := l }) := by
  obtain ⟨track, on, off, e⟩ := demanded_eq f s l
  rw [e]
  exact ⟨⟨rfl, rfl, rfl, rfl, rfl, rfl, rfl, rfl, rfl⟩, rfl, rfl, rfl, rfl, rfl,
    fun id => State.setFault_fault s .demandStale id _⟩

theorem takenReply_eq (f : DemandFields) (s : State) : takenReply f s
    = if (f.dir ≠ s.travel ∧ s.ref.active ≠ .standstill) ∨ (s.bld.demand.latch ≠ none ∧ f.mode ≠ .emergency
        ∧ (s.ref.active ≠ .standstill ∨ s.eblOpen = true)) then .held else .ok [] :=
  if_congr (or_congr directionHeld_iff modeHeld_iff) rfl rfl

theorem demanded_passes : Passes (b.travel ≠ s.travel) b (deliverDemand s.bld.demand [] b) :=
  deliverDemand_passes (by simp)

namespace Demanded

variable (h : Demanded f s b)
include h

theorem dir : b.travel = takenDir s f := by rw [State.travel, h.record, (demandTaken_base s f).1]

theorem modeTaken (active : s.sfc.opState = .active) : modeTaken s (deliverDemand s.bld.demand [] b) := by
  refine deliverDemand_modeTaken h.same active (by simp) fun drives was loop => was ?_
  rw [State.mode, h.record] at drives
  rw [h.record] at loop
  exact (demandTaken_loop loop.2).symm.trans drives

theorem but_effort : (deliverDemand s.bld.demand [] b).bld.demand
    = { demandTaken s f with effort := (deliverDemand s.bld.demand [] b).bld.demand.effort } := by
  rw [← h.record]
  exact demanded_passes.ground.demand_but_effort

/-- The record that the loop does not hold is the record taken. -/
theorem record_of_free (free : ¬ (s.eblOpen = true ∧ (demandTaken s f).latch = some .loop)) :
    (deliverDemand s.bld.demand [] b).bld.demand = demandTaken s f := by
  rw [← h.record]
  exact demanded_passes.ground.demand (by rwa [h.eblOpen, h.record])

/-- R97: the effort while the loop holds it. -/
theorem effort_of_loop (active : s.sfc.opState = .active) (opened : s.eblOpen = true)
    (loop : s.bld.demand.latch = some .loop) :
    ((deliverDemand s.bld.demand [] b).bld.cap = s.bld.cap → takenDir s f = s.travel →
      (deliverDemand s.bld.demand [] b).bld.demand.effort = s.bld.demand.effort)
    ∧ (((deliverDemand s.bld.demand [] b).bld.demand.effort = s.bld.demand.effort
        ∧ (deliverDemand s.bld.demand [] b).bld.cap = s.bld.cap)
      ∨ (deliverDemand s.bld.demand [] b).bld.demand.effort = (deliverDemand s.bld.demand [] b).bld.cap.sum) := by
  have base : b.bld.demand = baseRecord s f := by
    rw [h.record, demandTaken_of_held (by rw [loop]; simp) (.inl opened)]
  have effort : b.bld.demand.effort = s.bld.demand.effort := by rw [base]; rfl
  have live : b.sfc.opState = .active := h.same.opState.trans active
  refine ⟨fun cap straight => ?_, ?_⟩
  · have mode : b.mode = s.mode := by rw [State.mode, base]; rfl
    have once := deliverDemand_of_same (old := s.bld.demand) mode (h.dir.trans straight)
    rw [once] at cap ⊢
    rw [rerun_effort_of_cap live (by rw [cap, h.cap]), effort]
  · obtain ⟨-, kept⟩ := demanded_passes.follows ⟨live, by rw [h.eblOpen, opened], by rw [base]; exact loop⟩
    rwa [effort, h.cap] at kept

/-- R96, R97: a DEMAND under a latch and an open loop. -/
theorem record_of_opened (active : s.sfc.opState = .active) (latched : s.bld.demand.latch ≠ none)
    (opened : s.eblOpen = true) :
    (deliverDemand s.bld.demand [] b).bld.demand
      = { baseRecord s f with effort := (deliverDemand s.bld.demand [] b).bld.demand.effort }
    ∧ (s.bld.demand.latch ≠ some .loop ∨ ((deliverDemand s.bld.demand [] b).bld.cap = s.bld.cap
        ∧ (deliverDemand s.bld.demand [] b).bld.demand.dir = s.travel) →
      (deliverDemand s.bld.demand [] b).bld.demand.effort = s.bld.demand.effort)
    ∧ (s.bld.demand.latch = some .loop → (deliverDemand s.bld.demand [] b).bld.cap ≠ s.bld.cap →
      (deliverDemand s.bld.demand [] b).bld.demand.effort = (deliverDemand s.bld.demand [] b).bld.cap.sum)
    ∧ ((deliverDemand s.bld.demand [] b).bld.demand.effort = s.bld.demand.effort
      ∨ (deliverDemand s.bld.demand [] b).bld.demand.effort = (deliverDemand s.bld.demand [] b).bld.cap.sum) := by
  have held := demandTaken_of_held (f := f) latched (.inl opened)
  have record := h.but_effort
  rw [held] at record
  by_cases loop : s.bld.demand.latch = some .loop
  · obtain ⟨stays, follows⟩ := h.effort_of_loop active opened loop
    refine ⟨record, fun c => ?_, fun _ cap => follows.resolve_left fun c => cap c.2, follows.imp_left And.left⟩
    obtain ⟨cap, straight⟩ := c.resolve_left (not_not.mpr loop)
    rw [record] at straight
    exact stays cap straight
  · have whole := h.record_of_free (by rw [held]; exact fun c => loop c.2)
    have effort : (deliverDemand s.bld.demand [] b).bld.demand.effort = s.bld.demand.effort := by
      rw [whole, held]
      rfl
    exact ⟨record, fun _ => effort, fun c => absurd c loop, .inl effort⟩

/-- R92, R185: DEMAND_STALE ends, and no other record but SAND_EMPTY changes. -/
theorem fault_after {id : FaultId} (other : ∀ e, id ≠ .sandEmpty e) :
    (deliverDemand s.bld.demand [] b).fault id
      = if id = .demandStale then { s.fault .demandStale with active := false } else s.fault id := by
  rw [deliverDemand_quiet.fault other, h.fault]

end Demanded

/-- The state after a DEMAND that is taken, up to the track brakes. -/
theorem applyDemand_answered (f : DemandFields) (s : State) (tag : Byte) : ∃ b track on off, Demanded f s b
    ∧ (clearsLatch s f = true → track = false ∧ on = none ∧ off = none)
    ∧ applyDemand f (answer .demand tag (takenReply f s) s) = { deliverDemand s.bld.demand [] b with
        bld := { (deliverDemand s.bld.demand [] b).bld with track := track, onTimer := on, offTimer := off } } := by
  rw [show answer .demand tag (takenReply f s) s = { s with lnk := (answer .demand tag (takenReply f s) s).lnk }
    from sendReply_eq _ s]
  obtain ⟨track, on, off, clears, e⟩ :=
    applyDemand_eq f { s with lnk := (answer .demand tag (takenReply f s) s).lnk }
  exact ⟨_, track, on, off, demanded_spec f s _, clears, e⟩

end

/-- Settles O27: the record is `demandTaken`, one case per latch, mode and loop; what its change delivers is read
back from what every delivery keeps. -/
theorem demandRecord : Obligations.DemandRecord := by
  unfold Obligations.DemandRecord
  intro tag mode dir effort permitted m d p s ready hm hd he hp
  have active := ready.1
  generalize hf : (⟨m, d, effort.toNat, p⟩ : DemandFields) = f
  have fields := demandFields_of_codes hm hd he hp
  rw [hf] at fields
  refine ⟨_, exec_demand ready fields, ?_⟩
  have answered := applyDemand_keeps (stable_replied .demand tag (takenReply f s)) f
    (answer_replied .demand tag (takenReply f s) s)
  obtain ⟨b, track, on, off, taken, clears, e⟩ := applyDemand_answered f s tag
  rw [e] at answered ⊢
  have fm : f.mode = m := by rw [← hf]
  have fe : f.effort = effort.toNat := by rw [← hf]
  have fp : f.permitted = p := by rw [← hf]
  have fd : f.dir = d := by rw [← hf]
  have quiet := deliverDemand_quiet (old := s.bld.demand) (s := b)
  have passes := demanded_passes (s := s) (b := b)
  have dirTaken : (deliverDemand s.bld.demand [] b).bld.demand.dir = b.travel := passes.ground.travel
  dsimp only
  refine ⟨?_, ?_, ?_, ?_, fun free other => ?_, fun free emergency => ?_, fun latched other rests shut => ?_,
    fun latched emergency shut => ?_, fun latched other moves shut => ?_, fun latched opened => ?_, ?_,
    fun id other sand => ?_, fun straight => ?_, fun turned => ?_, (wsc_of_core passes.ground :).trans taken.wsc,
    passes.ground.ref.trans taken.same.ref, (chan_of_core passes.ground :).trans taken.chan,
    passes.ground.opState.trans taken.same.opState, passes.ground.cfg.trans taken.same.cfg,
    quiet.bogie.trans (by rw [taken.same.adh]), taken.modeTaken active⟩
  · rw [takenReply_eq, fm, fd] at answered
    exact answered
  · rw [dirTaken, taken.dir, takenDir, fd]
  · rw [taken.but_effort]
    exact (demandTaken_base s f).2.1.trans fp
  · rw [taken.but_effort]
    exact (demandTaken_base s f).2.2
  · have record := demandTaken_of_free free (by rwa [fm])
    rw [taken.record_of_free (by rw [record]; simp), record, fm, fe, fp]
    rfl
  · have record := demandTaken_latches free (by rwa [fm])
    rw [taken.record_of_free (by rw [record]; simp), record, fe, fp]
  · have clear : clearsLatch s f = true := clearsLatch_iff.mpr ⟨latched, by rwa [fm], rests, shut⟩
    have record := demandTaken_clears clear
    rw [taken.record_of_free (by rw [record]; simp), record, fm, fe, fp]
    exact ⟨rfl, clears clear⟩
  · rw [taken.record_of_free (by simp [shut]), demandTaken_of_emergency latched (by rwa [fm]) shut, baseRecord, fe, fp]
  · have record := demandTaken_of_held (f := f) latched (.inr ⟨by rwa [fm], moves⟩)
    rw [taken.record_of_free (by simp [shut]), record, baseRecord, fp]
  · obtain ⟨record, stays, follows, either⟩ := taken.record_of_opened active latched opened
    refine ⟨?_, stays, follows, either⟩
    rw [record, baseRecord, fp]
  · exact taken.fault_after fun _ => FaultId.noConfusion
  · exact (taken.fault_after sand).trans (if_neg other)
  · exact (passes.rlq.resolve_right fun c => c.1 (dirTaken.symm.trans straight)).trans taken.same.rlq
  · exact deliverDemand_flushes (by rwa [← dirTaken])

end Sys2Proof.Machine
end

section
/-! SUPPORT. HHU's deliveries (R119): what each of them leaves alone, and what a move of HHU leaves once all of them
are taken, in any order. -/

namespace Sys2Proof.Machine

/-- `t` is `s` after deliveries that HHU makes: the core, the route and SFC's record stand as they stood, and no report
is taken back. -/
structure Delivered (s t : State) : Prop where
  core : t.core = s.core
  rlq : t.rlq = s.rlq
  sfc : t.sfc = s.sfc
  sent : ∀ r, reported r s → reported r t

namespace Delivered

theorem refl (s : State) : Delivered s s := ⟨rfl, rfl, rfl, fun _ => id⟩

theorem trans {s t u : State} (a : Delivered s t) (b : Delivered t u) : Delivered s u :=
  ⟨b.core.trans a.core, b.rlq.trans a.rlq, b.sfc.trans a.sfc, fun r h => b.sent r (a.sent r h)⟩

variable {s t : State} (h : Delivered s t)
include h

theorem hhu : t.hhu = s.hhu := (hhu_of_core h.core :)
theorem wsc : t.wsc = s.wsc := (wsc_of_core h.core :)
theorem ref : t.ref = s.ref := (ref_of_core h.core :)
theorem adh : t.adh = s.adh := (adh_of_core h.core :)
theorem chan : t.afe.chan = s.afe.chan := (chan_of_core h.core :)
theorem clock : t.clock = s.clock := (clock_of_core h.core :)
theorem mode : t.mode = s.mode := (mode_of_core h.core :)
theorem travel : t.travel = s.travel := (travel_of_core h.core :)
theorem isActive : t.isActive = s.isActive := (isActive_of_core h.core :)
theorem opState : t.sfc.opState = s.sfc.opState := by rw [h.sfc]
theorem cfg : t.sfc.cfg = s.sfc.cfg := by rw [h.sfc]
theorem nowMs : t.nowMs = s.nowMs := by rw [State.nowMs, State.nowMs, h.clock]

theorem demand (free : ¬ (s.eblOpen = true ∧ s.bld.demand.latch = some .loop)) :
    t.bld.demand = s.bld.demand := (demand_of_core h.core free :)

/-- A record of HHU set on both sides. -/
theorem setHhu (n : Hhu) : Delivered { s with hhu := n } { t with hhu := n } :=
  ⟨congrArg (fun c => { c with hhu := n }) h.core, h.rlq, h.sfc, h.sent⟩

end Delivered

/-! Each delivery -/

theorem free_delivered (n : Free) (s : State) : Delivered s { s with free := n } :=
  ⟨rfl, rfl, rfl, fun _ => id⟩

theorem sendReport_delivered (r : Report) (s : State) : Delivered s (sendReport r s) :=
  ⟨sendReport_core r s, sendReport_rlq r s, sendReport_sfc r s, fun _ => sendReport_reported r⟩

theorem rerunWith_delivered (causes : PerBogie AimCause) (s : State) : Delivered s (rerunWith causes s) :=
  ⟨rerunWith_core causes s, rlq_of_view (rerunWith_view causes s), by rw [rerunWith_onlyBlend causes s],
    fun r => (stable_reported r).view (rerunWith_view causes s)⟩

theorem inSomeOrder_delivered {l : List (State → State)} (h : ∀ f ∈ l, ∀ t, Delivered t (f t)) (s : State) :
    Delivered s (inSomeOrder l s) :=
  inSomeOrder_keeps (P := Delivered s) (fun {t} d => by
      obtain ⟨n, hn⟩ := drawFrom_changes_free Config.freeOrder t
      rw [hn]
      exact d.trans (free_delivered n t))
    (fun f hf t d => d.trans (h f hf t)) (.refl s)

theorem closeDump_sfc (cause : CloseCause) (slip accel : Int) (floors : PerBogie AimCause) (x : Bogie) (s : State) :
    (closeDump cause slip accel floors x s).sfc = s.sfc := by
  cases e : (s.stu.bogie.get x).episode with
  | none => rw [closeDump_of_shut slip accel floors e]
  | some ep =>
    rw [closeDump_of_open slip accel floors e]
    unfold tripReport
    rw [sendReport_sfc, rerunWith_onlyBlend]
    rfl

theorem closeDump_delivered (cause : CloseCause) (slip accel : Int) (floors : PerBogie AimCause) (x : Bogie)
    (s : State) : Delivered s (closeDump cause slip accel floors x s) :=
  ⟨closeDump_core .., closeDump_rlq .., closeDump_sfc .., fun r => closeDump_keeps (stable_reported r) _ _ _ _ _⟩

theorem tripFloorRise_delivered (rose : PerBogie Bool) (floors : PerBogie AimCause) (s : State) :
    Delivered s (tripFloorRise rose floors s) :=
  inSomeOrder_delivered (fun f hf t => by
    obtain ⟨x, -, rfl⟩ := List.mem_map.mp hf
    exact closeDump_delivered _ _ _ _ x t) s

theorem sandHoldChange_delivered (old new : Hold) (s : State) : Delivered s (sandHoldChange old new s) :=
  ⟨sandHoldChange_core old new s, sandHoldChange_rlq old new s, by unfold sandHoldChange; split_ifs <;> rfl,
    fun r => sandHoldChange_keeps (stable_reported r) old new⟩

theorem requestLeading_delivered (source : SandSource) {shots : Nat} (h1 : 1 ≤ shots) (h10 : shots ≤ 10) (s : State) :
    Delivered s (requestLeading source shots s) :=
  ⟨requestLeading_core source shots s, by rw [requestLeading_onlySand], by rw [requestLeading_onlySand],
    fun r => requestLeading_keeps (stable_reported r) source h1 h10⟩

theorem requestRollback_onlySand (e : Side) (s : State) : OnlySand s (requestRollback e s) := by
  unfold requestRollback
  split
  · exact joinAll_onlySand _ _ _ _ s
  · rfl

theorem requestRollback_delivered (e : Side) (s : State) : Delivered s (requestRollback e s) :=
  ⟨requestRollback_core e s, by rw [requestRollback_onlySand], by rw [requestRollback_onlySand],
    fun r => requestRollback_keeps (stable_reported r) e⟩

/-! The deliveries of one event -/

/-- R169: the bogies whose floor has risen from 0. -/
def floorsRisen (old s : State) : PerBogie Bool := PerBogie.of fun x => decide (old.floor x = 0 ∧ 0 < s.floor x)

/-- R114: the bogies whose catch floor has risen. -/
def catchCauses (old : State) (caught : Bool) (s : State) : PerBogie AimCause :=
  PerBogie.of fun x => if caught ∧ old.floor x < s.floor x then AimCause.caught else .plain

/-- R119: what HHU delivers to BLD, STU and SND when it has moved from `old` to `s`. -/
def hillReaders (old : State) (caught force : Bool) (s : State) : List (State → State) :=
  (if force || (decide (old.hhu.state = .rollbackCatch) != decide (s.hhu.state = .rollbackCatch))
      || decide (old.floors ≠ s.floors) then [rerunWith (catchCauses old caught s)] else [])
    ++ (if Bogie.all.any (floorsRisen old s).get then [tripFloorRise (floorsRisen old s) (catchCauses old caught s)]
      else [])
    ++ (if old.hhu.state ≠ s.hhu.state then [sandHoldChange old.hhu.state s.hhu.state] else [])

section

variable {old s : State} {caught force : Bool} {also : List (State → State)} {f : State → State}

theorem hillPublish_eq : hillPublish old caught force also s = inSomeOrder (hillReaders old caught force s ++ also) s :=
  rfl

theorem hillReaders_cases (h : f ∈ hillReaders old caught force s) :
    (∃ causes, f = rerunWith causes) ∨ (∃ rose causes, f = tripFloorRise rose causes)
      ∨ f = sandHoldChange old.hhu.state s.hhu.state := by
  simp only [hillReaders, List.mem_append] at h
  rcases h with (h | h) | h
  · split at h
    · exact .inl ⟨_, List.mem_singleton.mp h⟩
    · exact absurd h List.not_mem_nil
  · split at h
    · exact .inr (.inl ⟨_, _, List.mem_singleton.mp h⟩)
    · exact absurd h List.not_mem_nil
  · split at h
    · exact .inr (.inr (List.mem_singleton.mp h))
    · exact absurd h List.not_mem_nil

theorem hillReader_delivered (h : f ∈ hillReaders old caught force s) (t : State) : Delivered t (f t) := by
  rcases hillReaders_cases h with ⟨_, rfl⟩ | ⟨_, _, rfl⟩ | rfl
  · exact rerunWith_delivered _ t
  · exact tripFloorRise_delivered _ _ t
  · exact sandHoldChange_delivered _ _ t

theorem hillDelivery_delivered (ha : ∀ f ∈ also, ∀ t, Delivered t (f t))
    (h : f ∈ hillReaders old caught force s ++ also) (t : State) : Delivered t (f t) :=
  (List.mem_append.mp h).elim (fun reader => hillReader_delivered reader t) fun passed => ha f passed t

theorem hillPublish_delivered (ha : ∀ f ∈ also, ∀ t, Delivered t (f t)) :
    Delivered s (hillPublish old caught force also s) :=
  inSomeOrder_delivered (fun _ hf => hillDelivery_delivered ha hf) s

theorem hillPublish_reported {r : Report} (ha : ∀ f ∈ also, ∀ t, Delivered t (f t)) (hr : sendReport r ∈ also) :
    reported r (hillPublish old caught force also s) :=
  inSomeOrder_reaches (P := fun _ => True) (fun _ => trivial) (fun _ _ _ _ => trivial)
    (fun _ hf t _ sent => (hillDelivery_delivered ha hf t).sent r sent) (List.mem_append_right _ hr)
    (fun t _ => sendReport_reported_self r t) trivial

theorem report_delivered {r : Report} : ∀ f ∈ [sendReport r], ∀ t, Delivered t (f t) := fun f hf t => by
  rw [List.mem_singleton.mp hf]
  exact sendReport_delivered r t

end

/-! Moves of HHU (R123, R124, R128) -/

theorem moveHold_delivered (reason : HoldReason) {also : List (State → State)}
    (ha : ∀ f ∈ also, ∀ t, Delivered t (f t)) (next : Hhu) (s : State) :
    Delivered { s with hhu := next } (moveHold reason also next s) :=
  hillPublish_delivered fun f hf t => by
    rcases List.mem_cons.mp hf with rfl | hf
    · exact sendReport_delivered _ t
    · exact ha f hf t

theorem enterTakeUp_delivered (s : State) : Delivered { s with hhu := takingUp s s.hhu } (enterTakeUp s) :=
  moveHold_delivered .takeUp (fun f hf t => by
    split at hf
    · rw [List.mem_singleton.mp hf]
      exact requestLeading_delivered _ (by decide) (by decide) t
    · exact absurd hf List.not_mem_nil) _ s

section

variable {s : State}

theorem judgeTakeUp_of_condition (held : s.hhu.state = .holding) (cond : takeUpCondition s = true) :
    judgeTakeUp s = enterTakeUp s := if_pos ⟨held, cond⟩

theorem judgeTakeUp_of_not_condition (cond : takeUpCondition s ≠ true) : judgeTakeUp s = s :=
  if_neg fun c => cond c.2

/-- HHU's record changes at most, whatever the take-up condition. -/
theorem judgeTakeUp_delivered (s : State) : ∃ n, Delivered { s with hhu := n } (judgeTakeUp s) := by
  unfold judgeTakeUp
  split
  · exact ⟨_, enterTakeUp_delivered s⟩
  · exact ⟨s.hhu, .refl s⟩

/-- R123: the entry to HOLDING before the take-up condition is judged. -/
theorem moveHolding_delivered (reason : HoldReason) (s : State) :
    Delivered { s with hhu := holdingFrom (holdingFloors s) }
      (moveHold reason [] (holdingFrom (holdingFloors s)) s) :=
  moveHold_delivered reason (by simp) _ s

theorem enterHolding_delivered (reason : HoldReason) (s : State) :
    ∃ n, Delivered { s with hhu := n } (enterHolding reason s) := by
  obtain ⟨n, judged⟩ := judgeTakeUp_delivered (moveHold reason [] (holdingFrom (holdingFloors s)) s)
  exact ⟨n, ((moveHolding_delivered reason s).setHhu n).trans judged⟩

/-- R127: with the re-arm flag clear HOLDING stays. -/
theorem enterHolding_hhu_of_unarmed (reason : HoldReason) (unarmed : s.hhu.rearm = false) :
    (enterHolding reason s).hhu = holdingFrom (holdingFloors s) := by
  have moved := moveHolding_delivered reason s
  rw [enterHolding_eq, judgeTakeUp_of_not_condition fun c => ?_, moved.hhu]
  have armed := ((takeUpCondition_iff _).mp c).2.2
  rw [moved.hhu] at armed
  exact Bool.false_ne_true (unarmed.symm.trans ((holdingFloors_rearm s).symm.trans armed))

/-- R124: an armed drive whose effort stands takes up at once. -/
theorem enterHolding_hhu_of_drive (reason : HoldReason) (drives : s.mode = .drive) (armed : s.hhu.rearm = true)
    (effort : 0 < s.bld.demand.effort) (free : ¬ (s.eblOpen = true ∧ s.bld.demand.latch = some .loop)) :
    (enterHolding reason s).hhu = takingUp s (holdingFrom (holdingFloors s)) := by
  have moved := moveHolding_delivered reason s
  have cond : takeUpCondition (moveHold reason [] (holdingFrom (holdingFloors s)) s) = true := by
    rw [takeUpCondition_iff, moved.mode, moved.demand free, moved.hhu]
    exact ⟨drives, effort, (holdingFloors_rearm s).trans armed⟩
  rw [enterHolding_eq, judgeTakeUp_of_condition (by rw [moved.hhu]; rfl) cond, enterTakeUp_hhu, takingUp, moved.clock,
    moved.sfc, moved.hhu]
  rfl

end

/-! Release (R128) -/

/-- R128: HHU in RELEASING, each ramp with its floor as start value and the present instant as start. -/
def releasingFrom (s : State) : Hhu :=
  { s.hhu with
    state := .releasing, takeUp := none, confirm := .stopped, blocked := false
    ramp := PerBogie.of fun x => if s.hhu.floor.get x = 0 then none else some ⟨s.hhu.floor.get x, s.nowMs⟩ }

/-- R128: HHU in OFF, its floors at 0. -/
def releasedFrom (h : Hhu) : Hhu := { h with state := .off, floor := ⟨0, 0, 0⟩, ramp := ⟨none, none, none⟩ }

/-- R135: the report of the end of a hold. -/
abbrev releasedReport (left : Hold) (s : State) : Report :=
  .holdState .off left .released ⟨0, 0, 0⟩ s.hhu.holdForce s.hhu.relThreshold s.hhu.dAch s.nowMs

/-- R135: the report of an entry to RELEASING. -/
abbrev releaseReport (s : State) : Report :=
  .holdState .releasing s.hhu.state .release s.hhu.floor s.hhu.holdForce s.hhu.relThreshold s.hhu.dAch s.nowMs

theorem enterReleased_delivered (s : State) : Delivered { s with hhu := releasedFrom s.hhu } (enterReleased s) :=
  hillPublish_delivered report_delivered

theorem enterReleased_reported (s : State) : reported (releasedReport s.hhu.state s) (enterReleased s) :=
  hillPublish_reported report_delivered (List.mem_singleton.mpr rfl)

/-- R128: the entry to RELEASING before it is judged whether a ramp is in flight. -/
def releaseStarted (s : State) : State :=
  hillPublish s false true [sendReport (holdReport s.hhu.state .release { s with hhu := releasingFrom s })]
    { s with hhu := releasingFrom s }

section

variable {s : State}

theorem enterReleasing_eq : enterReleasing s
    = if rampsDone (releaseStarted s) then enterReleased (releaseStarted s) else releaseStarted s := rfl

theorem releaseStarted_delivered (s : State) : Delivered { s with hhu := releasingFrom s } (releaseStarted s) :=
  hillPublish_delivered report_delivered

theorem rampsDone_iff : rampsDone s = true ↔ ∀ x, s.hhu.ramp.get x = none := by
  simp only [rampsDone, List.all_eq_true, Option.isNone_iff_eq_none]
  exact ⟨fun h x => h x (Bogie.mem_all x), fun h x _ => h x⟩

theorem rampsDone_releaseStarted : rampsDone (releaseStarted s) = true ↔ ∀ x, s.hhu.floor.get x = 0 := by
  rw [rampsDone_iff, (releaseStarted_delivered s).hhu]
  simp [releasingFrom]

/-- R128: a ramp has not fallen at the instant it starts. -/
theorem FloorRamp.value_at_start (rate : Nat) (now : Time) (start : Nat) :
    (FloorRamp.mk start now).value rate now = start := by
  simp [FloorRamp.value, elapsed, roundDown]

theorem floors_releasingFrom (s : State) : ({ s with hhu := releasingFrom s } : State).floors = s.hhu.floor := by
  have each (x : Bogie) : ({ s with hhu := releasingFrom s } : State).floor x = s.hhu.floor.get x := by
    simp only [State.floor, releasingFrom, PerBogie.get_of]
    by_cases zero : s.hhu.floor.get x = 0
    · rw [if_pos zero]
    · rw [if_neg zero]
      exact FloorRamp.value_at_start _ _ _
  rw [State.floors, funext each]
  rfl

theorem releaseStarted_reported (s : State) : reported (releaseReport s) (releaseStarted s) := by
  have sent : reported (holdReport s.hhu.state .release { s with hhu := releasingFrom s }) (releaseStarted s) :=
    hillPublish_reported report_delivered (List.mem_singleton.mpr rfl)
  rwa [holdReport, floors_releasingFrom] at sent

/-- R128: a release with a floor above 0. -/
theorem enterReleasing_ramps (above : ∃ x, s.hhu.floor.get x ≠ 0) :
    Delivered { s with hhu := releasingFrom s } (enterReleasing s) ∧ reported (releaseReport s) (enterReleasing s) := by
  obtain ⟨x, hx⟩ := above
  rw [enterReleasing_eq, if_neg fun done => hx (rampsDone_releaseStarted.mp done x)]
  exact ⟨releaseStarted_delivered s, releaseStarted_reported s⟩

/-- R128: floors of 0 complete at the entry. -/
theorem enterReleasing_ends (zero : ∀ x, s.hhu.floor.get x = 0) :
    Delivered { s with hhu := releasedFrom (releasingFrom s) } (enterReleasing s)
    ∧ reported (releaseReport s) (enterReleasing s)
    ∧ reported (releasedReport .releasing s) (enterReleasing s) := by
  have started := releaseStarted_delivered s
  have ended := enterReleased_delivered (releaseStarted s)
  have sent := enterReleased_reported (releaseStarted s)
  rw [enterReleasing_eq, if_pos (rampsDone_releaseStarted.mpr zero)]
  refine ⟨?_, ended.sent _ (releaseStarted_reported s), ?_⟩
  · have both := (started.setHhu _).trans ended
    rwa [started.hhu] at both
  · rwa [releasedReport, started.hhu, started.nowMs] at sent

theorem enterReleasing_delivered (s : State) : ∃ n, Delivered { s with hhu := n } (enterReleasing s) := by
  by_cases zero : ∀ x, s.hhu.floor.get x = 0
  · exact ⟨_, (enterReleasing_ends zero).1⟩
  · exact ⟨_, (enterReleasing_ramps (not_forall.mp zero)).1⟩

theorem anyPressureLatched_iff : anyPressureLatched s = true ↔ ∃ x, (s.fault (.pressure x)).latched = true := by
  simp only [anyPressureLatched, List.any_eq_true]
  exact ⟨fun ⟨x, _, h⟩ => ⟨x, h⟩, fun ⟨x, h⟩ => ⟨x, Bogie.mem_all x, h⟩⟩

theorem anyPressureLatched_eq_false (clear : ∀ x, (s.fault (.pressure x)).latched = false) :
    anyPressureLatched s = false := by
  rw [Bool.eq_false_iff, Ne, anyPressureLatched_iff]
  rintro ⟨x, latched⟩
  exact Bool.false_ne_true ((clear x).symm.trans latched)

end

end Sys2Proof.Machine
end

section
/-! SUPPORT. The hill hold's timers (R126 to R128): each expiry, the record it leaves and the report it sends. -/

namespace Sys2Proof.Machine

section

variable {s : State}

theorem exec_releaseConfirmExpiry (taking : s.hhu.state = .takeUp) (due : s.confirmExpired s.hhu.confirm = true) :
    exec .releaseConfirmExpiry s = .next (confirmComplete s) :=
  congrArg Host.Outcome.next
    (if_pos ((expiryDue_releaseConfirm_iff s).mpr ⟨taking, (confirmExpired_iff s _).mp due⟩))

theorem exec_takeUpTimerExpiry (taking : s.hhu.state = .takeUp) (due : s.expired s.hhu.takeUp = true) :
    exec .takeUpTimerExpiry s = .next (takeUpTimeout s) :=
  congrArg Host.Outcome.next (if_pos ((expiryDue_takeUpTimer_iff s).mpr ⟨taking, (expired_iff s _).mp due⟩))

theorem exec_releaseRampCompletion {x : Bogie} (releases : s.hhu.state = .releasing) (runs : s.hhu.ramp.get x ≠ none)
    (fallen : s.floor x = 0) : exec (.releaseRampCompletion x) s = .next (releaseRampDone x s) :=
  congrArg Host.Outcome.next (if_pos ((expiryDue_releaseRamp_iff s x).mpr ⟨releases, runs, fallen⟩))

/-! The release confirm (R126) -/

/-- R126: the confirm is complete. -/
def confirmStands (s : State) : State := { s with hhu := { s.hhu with confirm := .complete } }

theorem confirmStands_state (s : State) : (confirmStands s).hhu.state = s.hhu.state := rfl

theorem confirmComplete_of_clear (clear : ∀ x, (s.fault (.pressure x)).latched = false) :
    confirmComplete s = enterReleasing (confirmStands s) := by
  have free : anyPressureLatched (confirmStands s) = false := anyPressureLatched_eq_false clear
  exact if_pos (by rw [← confirmStands, free]; rfl)

theorem confirmComplete_of_latched (latched : ∃ x, (s.fault (.pressure x)).latched = true) : confirmComplete s
    = if s.hhu.blocked then confirmStands s
      else sendReport (holdReport .takeUp .releaseBlocked (confirmStands s))
        { s with hhu := { s.hhu with confirm := .complete, blocked := true } } := by
  have held : anyPressureLatched (confirmStands s) = true := anyPressureLatched_iff.mpr latched
  exact if_neg (by rw [← confirmStands, held]; exact Bool.false_ne_true)

theorem releaseBlocked_report (taking : s.hhu.state = .takeUp) : holdReport .takeUp .releaseBlocked (confirmStands s)
    = .holdState .takeUp .takeUp .releaseBlocked s.floors s.hhu.holdForce s.hhu.relThreshold s.hhu.dAch s.nowMs := by
  rw [holdReport, confirmStands_state, taking]
  rfl

/-! The take-up timer (R127) -/

theorem holdingFloors_of_takeUp (taking : s.hhu.state = .takeUp) : holdingFloors s = s.hhu := by
  rw [holdingFloors, taking]

/-- R127: the re-arm flag clear. -/
def unarmed (s : State) : State := { s with hhu := { s.hhu with rearm := false } }

theorem takeUpTimeout_eq (s : State) : takeUpTimeout s = enterHolding .holdTimeout (unarmed s) := rfl

theorem takeUpTimeout_hhu (taking : s.hhu.state = .takeUp) :
    (takeUpTimeout s).hhu = holdingFrom { s.hhu with rearm := false } := by
  have floors : holdingFloors (unarmed s) = (unarmed s).hhu := holdingFloors_of_takeUp taking
  rw [takeUpTimeout_eq, enterHolding_hhu_of_unarmed .holdTimeout rfl, floors]
  rfl

theorem takeUpTimeout_reported (taking : s.hhu.state = .takeUp) : reported (.holdState .holding .takeUp .holdTimeout
    s.hhu.floor s.hhu.holdForce s.hhu.relThreshold s.hhu.dAch s.nowMs) (takeUpTimeout s) := by
  have floors : holdingFloors (unarmed s) = (unarmed s).hhu := holdingFloors_of_takeUp taking
  have left : (unarmed s).hhu.state = .takeUp := taking
  have sent := enterHolding_reported .holdTimeout (unarmed s)
  rwa [floors, left] at sent

/-! The completion of a falling floor (R128) -/

/-- R128: the bogie's floor is 0 and its ramp has ended. -/
def floorFallen (x : Bogie) (s : State) : State :=
  { s with hhu := { s.hhu with floor := s.hhu.floor.set x 0, ramp := s.hhu.ramp.set x none } }

theorem floorFallen_state (x : Bogie) (s : State) : (floorFallen x s).hhu.state = s.hhu.state := rfl

theorem rampsDone_floorFallen {x : Bogie} :
    rampsDone (floorFallen x s) = true ↔ ∀ y, y ≠ x → s.hhu.ramp.get y = none := by
  rw [rampsDone_iff]
  refine ⟨fun h y ne => (PerBogie.get_set_ne _ _ ne).symm.trans (h y), fun h y => ?_⟩
  by_cases same : y = x
  · subst same
    exact PerBogie.get_set_self _ _ _
  · exact (PerBogie.get_set_ne _ _ same).trans (h y same)

theorem releaseRampDone_continues {x : Bogie} (others : ∃ y, y ≠ x ∧ s.hhu.ramp.get y ≠ none) :
    Delivered (floorFallen x s) (releaseRampDone x s) := by
  obtain ⟨y, ne, runs⟩ := others
  have falls : releaseRampDone x s = hillPublish s false true [] (floorFallen x s) :=
    if_neg fun done => runs (rampsDone_floorFallen.mp done y ne)
  rw [falls]
  exact hillPublish_delivered (by simp)

theorem releaseRampDone_ends {x : Bogie} (last : ∀ y, y ≠ x → s.hhu.ramp.get y = none) :
    releaseRampDone x s = enterReleased (floorFallen x s) :=
  if_pos (rampsDone_floorFallen.mpr last)

end

/-- Settles O51: one lemma for each branch of an expiry; the frames are what HHU's deliveries leave. -/
theorem hillTimers : Obligations.HillTimers := by
  unfold Obligations.HillTimers
  intro s
  refine ⟨fun taking due => ⟨fun latched blocked => ?_, fun latched open_ => ?_, fun clear above => ?_,
    fun clear zero => ?_⟩, fun taking due => ?_, fun x releases runs fallen => ⟨fun others => ?_, fun last => ?_⟩⟩
  · rw [exec_releaseConfirmExpiry taking due, confirmComplete_of_latched latched, if_pos blocked]
    rfl
  · rw [exec_releaseConfirmExpiry taking due, confirmComplete_of_latched latched, open_, if_neg Bool.false_ne_true]
    exact ⟨_, rfl, releaseBlocked_report taking ▸ sendReport_reported_self _ _, sendReport_eq _ _⟩
  · obtain ⟨moved, sent⟩ := enterReleasing_ramps (s := confirmStands s) above
    rw [releaseReport, confirmStands_state, taking] at sent
    refine ⟨_, exec_releaseConfirmExpiry taking due, ?_⟩
    rw [confirmComplete_of_clear clear]
    exact ⟨moved.hhu, sent, moved.wsc, moved.ref, moved.adh, moved.rlq, moved.opState, moved.cfg⟩
  · obtain ⟨moved, sent, ended⟩ := enterReleasing_ends (s := confirmStands s) zero
    rw [releaseReport, confirmStands_state, taking] at sent
    refine ⟨_, exec_releaseConfirmExpiry taking due, ?_⟩
    rw [confirmComplete_of_clear clear]
    exact ⟨moved.hhu, sent, ended, moved.wsc, moved.ref, moved.adh, moved.rlq, moved.opState, moved.cfg⟩
  · obtain ⟨n, moved⟩ := enterHolding_delivered .holdTimeout (unarmed s)
    rw [← takeUpTimeout_eq] at moved
    exact ⟨_, exec_takeUpTimerExpiry taking due, takeUpTimeout_hhu taking, takeUpTimeout_reported taking, moved.wsc,
      moved.ref, moved.adh, moved.rlq, moved.opState, moved.cfg⟩
  · have moved := releaseRampDone_continues others
    exact ⟨_, exec_releaseRampCompletion releases runs fallen, moved.hhu, moved.wsc, moved.ref, moved.adh,
      moved.rlq, moved.opState, moved.cfg⟩
  · have moved := enterReleased_delivered (floorFallen x s)
    have sent := enterReleased_reported (floorFallen x s)
    rw [← releaseRampDone_ends last] at moved sent
    rw [releasedReport, floorFallen_state, releases] at sent
    refine ⟨_, exec_releaseRampCompletion releases runs fallen, moved.hhu, sent, moved.wsc, moved.ref,
      moved.adh, moved.rlq, moved.opState, moved.cfg⟩

end Sys2Proof.Machine
end

section
/-! SUPPORT. Sand and a force reading at HHU (R120, R121, R124 to R129, R138, R139): SND where HHU passes a request, and
one equation for each branch of a published reading. -/

namespace Sys2Proof.Machine

/-! SND where HHU passes a request (R119, R138) -/

section

variable {old s : State} {caught force : Bool} {also : List (State → State)} {f : State → State}

/-- R143: a move that removes no entry delivers nothing that SND takes. -/
theorem hillReader_snd (quiet : ∀ t, sandHoldChange old.hhu.state s.hhu.state t = t)
    (h : f ∈ hillReaders old caught force s) (t : State) : (f t).snd = t.snd := by
  rcases hillReaders_cases h with ⟨_, rfl⟩ | ⟨_, _, rfl⟩ | rfl
  · exact rerunWith_snd _ t
  · exact closeDumps_snd _ _ _ t
  · rw [quiet]

theorem hillPublish_snd (quiet : ∀ t, sandHoldChange old.hhu.state s.hhu.state t = t)
    (ha : ∀ f ∈ also, ∀ t, (f t).snd = t.snd) : (hillPublish old caught force also s).snd = s.snd :=
  inSomeOrder_snd (fun f hf t => (List.mem_append.mp hf).elim (fun reader => hillReader_snd quiet reader t)
    fun passed => ha f passed t) s

/-- The one delivery that SND takes finds SND as the event found it, and what it leaves of SND stands. -/
theorem hillPublish_snd_of_request {others : List (State → State)} (passed : also.Perm (f :: others))
    (quiet : ∀ t, sandHoldChange old.hhu.state s.hhu.state t = t)
    (ho : ∀ g ∈ others, ∀ t, Delivered t (g t) ∧ (g t).snd = t.snd) :
    ∃ u, Delivered s u ∧ u.snd = s.snd ∧ (hillPublish old caught force also s).snd = (f u).snd := by
  have apart : (hillReaders old caught force s ++ also).Perm (f :: (hillReaders old caught force s ++ others)) :=
    (passed.append_left _).trans List.perm_middle
  obtain ⟨n, before, after, rest, e⟩ := inSomeOrder_around apart s
  have leaves (g : State → State) (hg : g ∈ before ++ after) (t : State) : Delivered t (g t) ∧ (g t).snd = t.snd := by
    rcases List.mem_append.mp (rest g hg) with reader | other
    · exact ⟨hillReader_delivered reader t, hillReader_snd quiet reader t⟩
    · exact ho g other t
  obtain ⟨delivered, same⟩ := inOrder_keeps (P := fun t => Delivered s t ∧ t.snd = s.snd)
    (fun g hg t kept => by
      obtain ⟨d, e⟩ := leaves g (List.mem_append_left _ hg) t
      exact ⟨kept.1.trans d, e.trans kept.2⟩)
    (show Delivered s { s with free := n } ∧ ({ s with free := n } : State).snd = s.snd from
      ⟨free_delivered n s, rfl⟩)
  refine ⟨_, delivered, same, ?_⟩
  rw [hillPublish_eq, e]
  exact inOrder_keeps (P := fun t => t.snd = (f (inOrder before { s with free := n })).snd)
    (fun g hg t kept => (leaves g (List.mem_append_right _ hg) t).2.trans kept) rfl

end

/-- R139, R146: where the valve is not CLOSED no grant follows, and SND is as the new entry leaves it. -/
theorem requestLeading_snd_of_busy {source : SandSource} {u : State} (n : Nat) (active : u.isActive = true)
    (fresh : u.snd.queue.any (SandEntry.isFor source u.travel.leading) = false) (room : u.snd.queue.length < 8)
    (busy : u.snd.valve.get u.travel.leading ≠ .closed) :
    (requestLeading source n u).snd = (joinTail source u.travel.leading true n u).snd := by
  rw [requestLeading_of_joins n active fresh room]
  exact congrArg State.snd (judgeEnd_of_busy (s := joinTail source u.travel.leading true n u) busy)

/-! Grade force and hold levels (R120, R121) -/

/-- R120: the magnitude is that of the grade, the sign the grade's. -/
theorem gradeForce_eq (mass : Nat) (grade : Int) : gradeForce mass grade
    = grade.sign * ((2 * (mass * 981 * grade.natAbs) + 100000) / 200000 : Nat) := by
  have size : ((mass : Int) * 981 * grade).natAbs = mass * 981 * grade.natAbs := by
    rw [Int.natAbs_mul, Int.natAbs_mul, Int.natAbs_natCast]
    rfl
  rw [gradeForce, roundNearest, size]
  rcases Nat.eq_zero_or_pos mass with rfl | heavy
  · simp
  · have sense : ((mass : Int) * 981 * grade).sign = grade.sign := by
      rw [Int.sign_mul, Int.sign_eq_one_of_pos (by omega), Int.one_mul]
    rw [sense]

theorem gradeMagnitude_eq (s : State) : gradeMagnitude s = match s.rlq.queue with
    | [] => s.vehicle.gDef
    | g :: _ => g.grade.natAbs := by
  rw [gradeMagnitude, State.headSegment]
  cases s.rlq.queue <;> rfl

theorem gradeTravel_eq (s : State) : gradeTravel s = match s.rlq.queue with
    | [] => (s.vehicle.gDef : Int)
    | g :: _ => if s.rlq.dir = some s.travel then g.grade else -g.grade := by
  rw [gradeTravel, State.headSegment]
  cases s.rlq.queue <;> rfl

theorem computeHold_level (s : State) (x : Bogie) : (computeHold s).hhu.level.get x
    = holdLevel s ((loadShares s.vehicle (holdForceOf s)).get x) x := PerBogie.get_of _ x

/-! Take-up at a reading (R124) -/

section

variable {s : State}

theorem hillReading_of_idle (idle : s.hhu.state = .off ∨ s.hhu.state = .rollbackCatch) : hillReading s = s := by
  rcases idle with h | h <;> rw [hillReading, h]

theorem hillReading_holding (held : s.hhu.state = .holding) : hillReading s = judgeTakeUp s := by
  rw [hillReading, held]

theorem takeUp_removes_none (held : s.hhu.state = .holding) (t : State) :
    sandHoldChange s.hhu.state (takingUp s s.hhu).state t = t := by
  rw [held]
  rfl

/-- R124: below the sand grade no request is passed. -/
theorem enterTakeUp_snd_of_gentle (held : s.hhu.state = .holding) (gentle : gradeTravel s < s.sfc.cfg.hold.sandGrade) :
    (enterTakeUp s).snd = s.snd := by
  rw [enterTakeUp, if_neg (not_le.mpr gentle)]
  exact hillPublish_snd (takeUp_removes_none held) fun f hf t => by
    rw [List.mem_singleton.mp hf, sendReport_snd]

/-- R124, R138, R139: from the sand grade on, the HILL_START request joins where it finds room and no entry of its
own. -/
theorem enterTakeUp_snd_of_steep (held : s.hhu.state = .holding) (active : s.sfc.opState = .active)
    (steep : (s.sfc.cfg.hold.sandGrade : Int) ≤ gradeTravel s)
    (fresh : s.snd.queue.any (SandEntry.isFor .hillStart s.travel.leading) = false) (room : s.snd.queue.length < 8)
    (busy : s.snd.valve.get s.travel.leading ≠ .closed) : (enterTakeUp s).snd = { s.snd with
      queue := s.snd.queue ++ [{
        source := .hillStart, side := s.travel.leading, leading := true, shots := 2, age := none
        arrival := s.snd.arrivals }]
      arrivals := s.snd.arrivals + 1 } := by
  rw [enterTakeUp, if_pos steep]
  obtain ⟨u, delivered, snd, taken⟩ := hillPublish_snd_of_request (f := requestLeading .hillStart 2)
    (old := s) (caught := false) (force := false) (s := { s with hhu := takingUp s s.hhu })
    (List.Perm.swap _ (sendReport (holdReport s.hhu.state .takeUp { s with hhu := takingUp s s.hhu })) [])
    (takeUp_removes_none held) fun g hg t => by
      rw [List.mem_singleton.mp hg]
      exact ⟨sendReport_delivered _ t, sendReport_snd _ t⟩
  have travel : u.travel = s.travel := delivered.travel
  have live : u.isActive = true := delivered.isActive.trans ((isActive_iff s).mpr active)
  refine taken.trans ?_
  rw [← travel, ← snd] at fresh busy
  rw [← snd] at room
  rw [requestLeading_snd_of_busy 2 live fresh room busy, joinTail, travel, snd]
  rfl

/-! The drive at a reading (R125, R126, R129) -/

/-- R125: the drive as the judgement finds it. -/
def driveNoted (s : State) : State :=
  { s with hhu := { s.hhu with dAch := achievedDrive s, relThreshold := releaseThreshold s } }

/-- R125: the drive noted, the confirm as it responds. -/
def driveJudged (c : Confirm) (s : State) : State :=
  { driveNoted s with hhu := { (driveNoted s).hhu with confirm := c } }

theorem driveJudged_confirm (s : State) : driveJudged s.hhu.confirm s = driveNoted s := rfl

theorem hillReading_takeUp (taking : s.hhu.state = .takeUp) {c : Confirm}
    (response : confirmResponse s (releaseThreshold s ≤ achievedDrive s) = c) : hillReading s
    = if c = .complete ∧ anyPressureLatched s = false then enterReleasing (driveJudged c s) else driveJudged c s := by
  subst response
  rw [hillReading, taking]
  unfold judgeDrive
  dsimp only
  split
  · simp only [Bool.not_eq_true']
    rfl
  all_goals
    next other => exact nomatch other.symm.trans taking

/-- R125: where the confirm does not stand complete, it responds and HHU stays in TAKE_UP. -/
theorem hillReading_confirms (taking : s.hhu.state = .takeUp) {c : Confirm}
    (response : confirmResponse s (releaseThreshold s ≤ achievedDrive s) = c) (waits : c ≠ .complete) :
    hillReading s = driveJudged c s := by
  rw [hillReading_takeUp taking response, if_neg fun h => waits h.1]

section

variable (taking : s.hhu.state = .takeUp)
include taking

theorem hillReading_of_short (short : achievedDrive s < releaseThreshold s) :
    hillReading s = driveJudged .stopped s :=
  hillReading_confirms taking (by simp [confirmResponse, short]) nofun

variable (enough : releaseThreshold s ≤ achievedDrive s)
include enough

theorem hillReading_starts (stopped : s.hhu.confirm = .stopped) :
    hillReading s = driveJudged (.running (s.clock + s.sfc.cfg.hold.confirm * 1000)) s :=
  hillReading_confirms taking (by simp [confirmResponse, enough, stopped]) nofun

theorem hillReading_continues {due : Nat} (runs : s.hhu.confirm = .running due) : hillReading s = driveNoted s := by
  rw [hillReading_confirms taking (c := s.hhu.confirm) (by simp [confirmResponse, enough, runs])
    (by rw [runs]; exact nofun), driveJudged_confirm]

variable (complete : s.hhu.confirm = .complete)
include complete

theorem hillReading_complete : hillReading s
    = if anyPressureLatched s = false then enterReleasing (driveNoted s) else driveNoted s := by
  rw [hillReading_takeUp taking (c := s.hhu.confirm) (by simp [confirmResponse, enough, complete]),
    driveJudged_confirm]
  simp only [complete, true_and]

/-- R126: a latched PRESSURE record blocks the release. -/
theorem hillReading_blocked (latched : ∃ x, (s.fault (.pressure x)).latched = true) :
    hillReading s = driveNoted s := by
  rw [hillReading_complete taking enough complete, anyPressureLatched_iff.mpr latched, if_neg (by simp)]

theorem hillReading_releases (clear : ∀ x, (s.fault (.pressure x)).latched = false) :
    hillReading s = enterReleasing (driveNoted s) := by
  rw [hillReading_complete taking enough complete, if_pos (anyPressureLatched_eq_false clear)]

end

/-! The drive in RELEASING (R128, R129) -/

theorem hillReading_releasing (releases : s.hhu.state = .releasing) : hillReading s
    = if achievedDrive s < releaseBase s then returnToTakeUp (driveNoted s)
      else hillPublish (driveNoted s) false true [] (driveNoted s) := by
  rw [hillReading, releases]
  unfold judgeDrive
  dsimp only
  split
  · next other => exact nomatch other.symm.trans releases
  · rfl
  all_goals
    next other => exact nomatch other.symm.trans releases

/-- R128: the falling floors alone are one re-run. -/
theorem hillPublish_unmoved (s : State) :
    hillPublish s false true [] s = rerunWith (catchCauses s false s) s := by
  have level : Bogie.all.any (floorsRisen s s).get = false := by
    rw [List.any_eq_false]
    intro x _
    rw [floorsRisen, PerBogie.get_of, decide_eq_true_eq]
    omega
  simp [hillPublish_eq, hillReaders, level]

/-- R129: HHU back in TAKE_UP, its floors at the hold levels. -/
def takeUpAgain (s : State) : Hhu :=
  { s.hhu with
    state := .takeUp, floor := s.hhu.level, ramp := ⟨none, none, none⟩
    takeUp := some (s.clock + s.sfc.cfg.hold.takeUp * 1000), confirm := .stopped }

theorem returnToTakeUp_delivered (s : State) : Delivered { s with hhu := takeUpAgain s } (returnToTakeUp s) :=
  moveHold_delivered .driveFell (by simp) _ s

theorem returnToTakeUp_reported (s : State) : reported (.holdState .takeUp s.hhu.state .driveFell s.hhu.level
    s.hhu.holdForce s.hhu.relThreshold s.hhu.dAch s.nowMs) (returnToTakeUp s) := by
  have sent := moveHold_reported .driveFell (also := []) (by simp) (takeUpAgain s) s
  rwa [holdReport, floors_of_no_ramps s (takeUpAgain s) rfl] at sent

/-- A published reading changes HHU's record, and what HHU's deliveries change. -/
theorem hillReading_delivered (s : State) : ∃ n, Delivered { s with hhu := n } (hillReading s) := by
  cases state : s.hhu.state with
  | off => exact ⟨s.hhu, by rw [hillReading_of_idle (.inl state)]; exact .refl s⟩
  | rollbackCatch => exact ⟨s.hhu, by rw [hillReading_of_idle (.inr state)]; exact .refl s⟩
  | holding => rw [hillReading_holding state]; exact judgeTakeUp_delivered s
  | takeUp =>
    rw [hillReading_takeUp state rfl]
    split
    · exact enterReleasing_delivered (driveJudged _ s)
    · exact ⟨_, .refl (driveJudged _ s)⟩
  | releasing =>
    rw [hillReading_releasing state]
    split
    · exact ⟨_, returnToTakeUp_delivered (driveNoted s)⟩
    · rw [hillPublish_unmoved]
      exact ⟨_, rerunWith_delivered _ _⟩

end

/-- Settles O50: the forces and levels by their definitions; of a reading, one lemma for each branch in each hold
state. -/
theorem holdLevelsAndDrive : Obligations.HoldLevelsAndDrive := by
  unfold Obligations.HoldLevelsAndDrive
  refine ⟨by decide, gradeForce_eq, ?_, gradeTravel_eq, ?_⟩
  · rintro s _ force sA sB sT rfl hforce hA hB hT
    have kept : holdForceOf s = force := by
      rw [hforce, holdForceOf, roundUp, gradeMagnitude_eq]
      cases s.rlq.queue <;> rfl
    have shares : loadShares s.vehicle force = ⟨sA, sT, sB⟩ := by
      rw [hT, hA, hB]
      rfl
    refine ⟨by rw [← kept]; rfl, fun x => ?_⟩
    rw [computeHold_level, kept, shares]
    rfl
  · rintro s _ d base f rfl hd hbase hf
    obtain rfl : d = achievedDrive s := hd
    obtain rfl : base = releaseBase s := hbase
    obtain rfl : f = releaseThreshold s := hf
    obtain ⟨n, all⟩ := hillReading_delivered s
    refine ⟨hillReading_of_idle, fun held unmet => ?_, fun held drives effort armed active => ?_, fun taking => ?_,
      fun releases => ⟨fun stands => ?_, fun falls => ?_⟩, all.wsc, all.ref, all.adh, all.rlq, all.chan, all.sfc⟩
    · rw [hillReading_holding held, judgeTakeUp_of_not_condition fun c => ?_]
      obtain ⟨drives, effort, armed⟩ := (takeUpCondition_iff s).mp c
      rcases unmet with other | zero | unarmed
      · exact other drives
      · omega
      · exact Bool.false_ne_true (unarmed.symm.trans armed)
    · rw [hillReading_holding held,
        judgeTakeUp_of_condition held ((takeUpCondition_iff s).mpr ⟨drives, effort, armed⟩)]
      exact ⟨enterTakeUp_hhu s, enterTakeUp_reported held, enterTakeUp_snd_of_gentle held,
        enterTakeUp_snd_of_steep held active⟩
    · refine ⟨hillReading_of_short taking, hillReading_starts taking, fun enough ⟨due, runs⟩ =>
        hillReading_continues taking enough runs, hillReading_blocked taking, fun enough complete clear above => ?_,
        fun enough complete clear zero => ?_⟩
      · obtain ⟨moved, sent⟩ := enterReleasing_ramps (s := driveNoted s) above
        have left : (driveNoted s).hhu.state = .takeUp := taking
        rw [releaseReport, left] at sent
        rw [hillReading_releases taking enough complete clear]
        exact ⟨moved.hhu, sent⟩
      · obtain ⟨moved, -, ended⟩ := enterReleasing_ends (s := driveNoted s) zero
        rw [hillReading_releases taking enough complete clear]
        exact ⟨moved.hhu, ended⟩
    · rw [hillReading_releasing releases, if_neg (not_lt.mpr stands), hillPublish_unmoved]
      have view := rerunWith_view (catchCauses (driveNoted s) false (driveNoted s)) (driveNoted s)
      exact ⟨(rerunWith_delivered _ _).hhu, lnk_of_view view, rerunWith_snd _ _⟩
    · have sent := returnToTakeUp_reported (driveNoted s)
      have left : (driveNoted s).hhu.state = .releasing := releases
      rw [left] at sent
      rw [hillReading_releasing releases, if_pos falls]
      exact ⟨(returnToTakeUp_delivered (driveNoted s)).hhu, sent⟩

end Sys2Proof.Machine
end

section
/-! SUPPORT. The rollback watch (R131, R132): which axles are watched, what is over the threshold, and one equation for
each branch of an axle sample's arrival at HHU. -/

namespace Sys2Proof.Machine

section

variable {s : State}

/-! Watched axles and the detection (R131, R132) -/

theorem watched_iff (x : Axle) : watched s x = true ↔ isWatched s x := by
  rw [watched, Bool.and_eq_true, Bool.not_eq_true', Bool.not_eq_true', Bool.eq_false_iff, Ne, unwatched_iff, not_or,
    and_assoc]

theorem exceeding_eq (s : State) : exceeding s = Axle.all.filter fun y => decide (isOver s y) :=
  List.filter_congr fun y _ => by
    rw [Bool.eq_iff_iff, Bool.and_eq_true, watched_iff, decide_eq_true_iff, decide_eq_true_iff]

theorem mem_exceeding (y : Axle) : y ∈ exceeding s ↔ isOver s y := by
  simp [exceeding_eq, Axle.mem_all]

theorem mem_watched (y : Axle) : y ∈ Axle.all.filter (watched s) ↔ isWatched s y := by
  rw [List.mem_filter, watched_iff]
  exact and_iff_right (Axle.mem_all y)

theorem axles_filter_nodup (p : Axle → Bool) : (Axle.all.filter p).Nodup :=
  List.Nodup.filter p (by decide)

/-- R132: at least two. -/
theorem two_exceed_iff : 2 ≤ (exceeding s).length ↔ ∃ y z, y ≠ z ∧ isOver s y ∧ isOver s z := by
  have nodup : (exceeding s).Nodup := axles_filter_nodup _
  rw [← List.toFinset_card_of_nodup nodup, Nat.succ_le_iff, Finset.one_lt_card]
  simp only [List.mem_toFinset, ← mem_exceeding]
  exact ⟨fun ⟨y, hy, z, hz, ne⟩ => ⟨y, z, ne, hy, hz⟩, fun ⟨y, z, ne, hy, hz⟩ => ⟨y, hy, z, hz, ne⟩⟩

/-- R132: the only watched axle. -/
theorem only_exceeds_iff : (Axle.all.filter (watched s)).length = 1 ∧ (exceeding s).length = 1
    ↔ ∃ y, isOver s y ∧ ∀ z, isWatched s z → z = y := by
  simp only [List.length_eq_one_iff]
  constructor
  · rintro ⟨⟨w, hw⟩, y, hy⟩
    have exceeds : isOver s y := (mem_exceeding y).mp (by rw [hy]; exact List.mem_singleton_self y)
    have only {z : Axle} (hz : isWatched s z) : z = w := List.mem_singleton.mp (hw ▸ (mem_watched z).mpr hz)
    exact ⟨y, exceeds, fun z hz => (only hz).trans (only exceeds.1).symm⟩
  · rintro ⟨y, exceeds, only⟩
    have single {l : List Axle} (nodup : l.Nodup) (mem : y ∈ l) (all : ∀ z ∈ l, isWatched s z) : l = [y] :=
      List.perm_singleton.mp ((List.perm_ext_iff_of_nodup nodup (List.nodup_singleton y)).mpr fun z =>
        ⟨fun hz => List.mem_singleton.mpr (only z (all z hz)), fun hz => List.mem_singleton.mp hz ▸ mem⟩)
    exact ⟨⟨y, single (axles_filter_nodup _) ((mem_watched y).mpr exceeds.1) fun z => (mem_watched z).mp⟩,
      y, single (axles_filter_nodup _) ((mem_exceeding y).mpr exceeds) fun z hz => ((mem_exceeding z).mp hz).1⟩

theorem rollbackDetected_iff : rollbackDetected s = true ↔ (∃ y z, y ≠ z ∧ isOver s y ∧ isOver s z)
    ∨ ∃ y, isOver s y ∧ ∀ z, isWatched s z → z = y := by
  rw [← two_exceed_iff, ← only_exceeds_iff]
  simp only [rollbackDetected, Bool.or_eq_true, Bool.and_eq_true, decide_eq_true_eq]

theorem watchedAtRest_iff : watchedAtRest s = true
    ↔ ∀ y, isWatched s y → ∃ q, (s.wsc.axle.get y).latest = some q ∧ q.flags.standstill = true := by
  simp only [watchedAtRest, List.all_eq_true, mem_watched]
  refine forall₂_congr fun y _ => ?_
  cases (s.wsc.axle.get y).latest <;> simp

/-! The branches of an arrival (R131, R134) -/

/-- R131: the accumulator of the axle set. -/
def accumulated (x : Axle) (n : Nat) (s : State) : State := { s with hhu := { s.hhu with acc := s.hhu.acc.set x n } }

theorem sampleDistance_eq {p : Sample} {far : Nat}
    (wheel : ∀ circ teeth, p.scale = .wheel circ teeth → far = p.net.natAbs * circ / (4 * teeth))
    (ground : ∀ e, p.scale = .ground e → far = p.net.natAbs * e) : far = sampleDistance p := by
  unfold sampleDistance
  split
  · next circ teeth scale => exact wheel circ teeth scale
  · next e scale => exact ground e scale

theorem hillArrival_of_set_aside (x : Axle) {p : Sample}
    (aside : s.sfc.opState ≠ .active ∨ p.flags.isolated = true ∨ p.flags.implausible = true) :
    hillArrival x p s = s := by
  rw [hillArrival, if_pos]
  exact aside.imp_left fun idle => by simp [State.isActive, idle]

section

variable {x : Axle} {p : Sample} (active : s.sfc.opState = .active) (kept : p.flags.isolated = false)
  (sound : p.flags.implausible = false)
include active kept sound

theorem hillArrival_of_taken : hillArrival x p s = if s.hhu.state = .rollbackCatch then
      if s.hhu.caughtAtRest = true ∧ s.ref.active = .standstill ∧ watchedAtRest s = true then
        enterHolding .catchEnded s
      else s
    else if watched s x = true then watchArrival x p s else s := by
  rw [hillArrival, if_neg]
  simp [(isActive_iff s).mpr active, kept, sound]

theorem hillArrival_of_unwatched (free : s.hhu.state ≠ .rollbackCatch) (unwatched : ¬ isWatched s x) :
    hillArrival x p s = s := by
  rw [hillArrival_of_taken active kept sound, if_neg free, if_neg fun h => unwatched ((watched_iff x).mp h)]

theorem hillArrival_of_watched (free : s.hhu.state ≠ .rollbackCatch) (watches : isWatched s x) :
    hillArrival x p s = watchArrival x p s := by
  rw [hillArrival_of_taken active kept sound, if_neg free, if_pos ((watched_iff x).mpr watches)]

end

/-- R131: the watch rests in OFF at speed. -/
theorem watchArrival_of_fast (x : Axle) (p : Sample) (off : s.hhu.state = .off) (fast : 1500 ≤ s.ref.speed.natAbs) :
    watchArrival x p s = accumulated x 0 s := by
  have rests : watchActive s = false := by
    rw [watchActive, off]
    exact decide_eq_false (by omega)
  rw [watchArrival, rests, if_neg Bool.false_ne_true]
  rfl

theorem watchActive_of {s : State} (h : s.hhu.state = .holding ∨ s.hhu.state = .takeUp ∨ s.hhu.state = .releasing
    ∨ (s.hhu.state = .off ∧ s.ref.speed.natAbs < 1500)) : watchActive s = true := by
  rcases h with h | h | h | ⟨h, slow⟩
  · rw [watchActive, h]
  · rw [watchActive, h]
  · rw [watchActive, h]
  · rw [watchActive, h]
    exact decide_eq_true slow

theorem watchArrival_of_active (x : Axle) (p : Sample) {n : Nat} (active : watchActive s = true)
    (counts : accumulate s p (s.hhu.acc.get x) = n) : watchArrival x p s
      = if n ≠ s.hhu.acc.get x ∧ rollbackDetected (accumulated x n s) = true then enterCatch (accumulated x n s)
        else accumulated x n s := by
  subst counts
  rw [watchArrival, active, if_pos rfl]
  rfl

end

end Sys2Proof.Machine
end

section
/-! SUPPORT. The rollback catch (R133): HHU's record at the entry, and what its deliveries leave of the drive, of the
dump episodes and of SND, in any order. -/

namespace Sys2Proof.Machine

/-! The drive while the catch lasts (R102) -/

/-- R102: in a catch the drive requests are 0. -/
structure DriveStopped (s : State) : Prop where
  active : s.sfc.opState = .active
  caught : s.hhu.state = .rollbackCatch
  drive : s.bld.drive = ⟨0, 0⟩

theorem DriveStopped.of_same {s t : State} (h : DriveStopped s) (sfc : t.sfc = s.sfc) (hhu : t.hhu = s.hhu)
    (bld : t.bld = s.bld) : DriveStopped t :=
  ⟨by rw [sfc]; exact h.active, by rw [hhu]; exact h.caught, by rw [bld]; exact h.drive⟩

theorem DriveStopped.setSnd {s : State} (h : DriveStopped s) (d : Snd) : DriveStopped { s with snd := d } :=
  h.of_same rfl rfl rfl

/-- R99, R102: a re-run in a catch, in any demand mode. -/
theorem rerunWith_stopped (causes : PerBogie AimCause) {s : State} (active : s.sfc.opState = .active)
    (caught : s.hhu.state = .rollbackCatch) : DriveStopped (rerunWith causes s) := by
  have after := rerunWith_delivered causes s
  obtain ⟨driving, idling, -⟩ := rerunDrive causes s _ rfl active
  refine ⟨by rw [after.sfc]; exact active, by rw [after.hhu]; exact caught, ?_⟩
  by_cases drives : s.mode = .drive
  · exact (driving drives).1 caught
  · exact (idling drives).1

section

variable {s : State} (h : DriveStopped s)
include h

theorem sendReport_stopped (r : Report) : DriveStopped (sendReport r s) :=
  h.of_same (sendReport_sfc r s) (sendReport_hhu r s) (sendReport_bld r s)

theorem tripReport_stopped (x : Bogie) (axle : Axle) (action : TripAction) (slip accel : Int) (openTime : Time) :
    DriveStopped (tripReport x axle action slip accel openTime s) := sendReport_stopped h _

theorem sandHoldChange_stopped (old new : Hold) : DriveStopped (sandHoldChange old new s) := by
  unfold sandHoldChange
  split_ifs
  · exact h.setSnd _
  · exact h.setSnd _
  · exact h

theorem closeDump_stopped (cause : CloseCause) (slip accel : Int) (floors : PerBogie AimCause) (x : Bogie) :
    DriveStopped (closeDump cause slip accel floors x s) := by
  cases e : (s.stu.bogie.get x).episode with
  | none => rwa [closeDump_of_shut slip accel floors e]
  | some ep =>
    rw [closeDump_of_open slip accel floors e]
    have closed : DriveStopped (zeroCounters x (s.setStu x ((s.stu.bogie.get x).closed cause))) :=
      h.of_same rfl rfl rfl
    exact tripReport_stopped (rerunWith_stopped _ closed.active closed.caught) _ _ _ _ _ _

theorem tripFloorRise_stopped (rose : PerBogie Bool) (floors : PerBogie AimCause) :
    DriveStopped (tripFloorRise rose floors s) :=
  inSomeOrder_keeps (P := DriveStopped) (fun {t} k => by
      obtain ⟨n, hn⟩ := drawFrom_changes_free Config.freeOrder t
      rw [hn]
      exact k.of_same rfl rfl rfl)
    (fun f hf t k => by
      obtain ⟨x, -, rfl⟩ := List.mem_map.mp hf
      exact closeDump_stopped k _ _ _ _ x) h

theorem setSanded_stopped : DriveStopped (setSanded s) := by
  unfold setSanded
  dsimp only
  split
  · exact rerunWith_stopped _ h.active h.caught
  · exact h.setSnd _

theorem judgeEnd_stopped (e : Side) : DriveStopped (judgeEnd e s) := by
  unfold judgeEnd
  split
  · exact h
  · exact setSanded_stopped (sendReport_stopped (h.setSnd _) _)

theorem enqueueSand_stopped (source : SandSource) (e : Side) (leading : Bool) (shots : Nat) :
    DriveStopped (enqueueSand source e leading shots s) := by
  have evicted : DriveStopped (evict s) := by
    unfold evict
    split
    · exact h
    · exact sendReport_stopped (h.setSnd _) _
  unfold enqueueSand
  split_ifs
  · exact h.setSnd _
  · exact h.setSnd _
  · exact evicted.setSnd _
  · exact h
  · exact sendReport_stopped h _

omit h in
theorem requestRollback_of_active (e : Side) (active : s.isActive = true) :
    requestRollback e s = joinNext .rollback e false 3 false s := if_pos active

theorem requestRollback_stopped (e : Side) : DriveStopped (requestRollback e s) := by
  rw [requestRollback_of_active e ((isActive_iff s).mpr h.active), joinNext]
  have joined := enqueueSand_stopped h .rollback e false 3
  split
  · exact judgeEnd_stopped joined e
  · exact joined

end

/-! The episodes that a risen floor ends (R169, R172) -/

section

variable {s : State} {y : Bogie}

/-- An episode closed, or none: the bogie is without one. -/
theorem closeDump_shuts (cause : CloseCause) (slip accel : Int) (floors : PerBogie AimCause) (x : Bogie) (s : State) :
    ((closeDump cause slip accel floors x s).stu.bogie.get x).episode = none := by
  cases e : (s.stu.bogie.get x).episode with
  | none => rwa [closeDump_of_shut slip accel floors e]
  | some ep =>
    rw [closeDump_stu slip accel floors e, PerBogie.get_set_self]
    rfl

theorem closeDump_keeps_shut (cause : CloseCause) (slip accel : Int) (floors : PerBogie AimCause) (x : Bogie)
    (shut : (s.stu.bogie.get y).episode = none) :
    ((closeDump cause slip accel floors x s).stu.bogie.get y).episode = none := by
  by_cases same : y = x
  · rw [same]
    exact closeDump_shuts cause slip accel floors x s
  · rwa [closeDump_get_ne slip accel floors same]

theorem tripFloorRise_keeps_shut (rose : PerBogie Bool) (floors : PerBogie AimCause)
    (shut : (s.stu.bogie.get y).episode = none) :
    ((tripFloorRise rose floors s).stu.bogie.get y).episode = none :=
  inSomeOrder_keeps (P := fun t => (t.stu.bogie.get y).episode = none) (fun {t} k => by
      obtain ⟨n, hn⟩ := drawFrom_changes_free Config.freeOrder t
      rw [hn]
      exact k)
    (fun f hf t k => by
      obtain ⟨x, -, rfl⟩ := List.mem_map.mp hf
      exact closeDump_keeps_shut _ _ _ _ x k) shut

/-- R169: a floor risen from 0 ends the open episode of its bogie. -/
theorem tripFloorRise_shuts {rose : PerBogie Bool} (floors : PerBogie AimCause) (rises : rose.get y = true)
    (s : State) : ((tripFloorRise rose floors s).stu.bogie.get y).episode = none := by
  cases e : (s.stu.bogie.get y).episode with
  | none => exact tripFloorRise_keeps_shut rose floors e
  | some ep =>
    have waits : y ∈ (Bogie.all.filter rose.get).filter s.dumpOpen := by
      refine List.mem_filter.mpr ⟨List.mem_filter.mpr ⟨Bogie.mem_all y, rises⟩, ?_⟩
      rw [State.dumpOpen, e]
      rfl
    exact inSomeOrder_reaches (P := fun _ => True) (Q := fun t => (t.stu.bogie.get y).episode = none)
      (fun _ => trivial) (fun _ _ _ _ => trivial) (fun f hf t _ k => by
        obtain ⟨x, -, rfl⟩ := List.mem_map.mp hf
        exact closeDump_keeps_shut _ _ _ _ x k)
      (List.mem_map.mpr ⟨y, waits, rfl⟩) (fun t _ => closeDump_shuts _ _ _ _ y t) trivial

end

/-! The entry to the catch (R133) -/

/-- R133: HHU's record at the entry. -/
def caughtFrom (s : State) : Hhu :=
  { (computeHold s).hhu with
    state := .rollbackCatch
    floor := PerBogie.of fun x => max (s.floor x) (max ((computeHold s).hhu.level.get x) (catchLevel s x))
    ramp := ⟨none, none, none⟩, confirm := .stopped, takeUp := none
    caughtAtRest := decide (s.ref.active = .standstill) }

/-- R133: the state at the entry, before its deliveries. -/
abbrev inCatch (s : State) : State := { s with hhu := caughtFrom s }

/-- R135: the ROLLBACK report. -/
def rollbackReport (s : State) : Report :=
  .rollback s.hhu.state ((exceeding s).map fun x => (x, s.hhu.acc.get x)) (caughtFrom s).floor s.travel.trailing
    s.ref.speed s.nowMs

/-- What the entry passes on beside what HHU's readers take. -/
def catchPassed (s : State) : List (State → State) :=
  [requestRollback s.travel.trailing, sendReport (rollbackReport s)]

theorem enterCatch_eq (s : State) : enterCatch s = hillPublish s true false (catchPassed s) (inCatch s) := rfl

section

variable {s : State}

/-- With no ramp in flight the floors published are the catch floors. -/
theorem inCatch_floor (y : Bogie) : (inCatch s).floor y = (caughtFrom s).floor.get y := by
  cases y <;> rfl

theorem catchPassed_cases {f : State → State} (h : f ∈ catchPassed s) :
    f = requestRollback s.travel.trailing ∨ f = sendReport (rollbackReport s) := by
  simpa [catchPassed] using h

theorem catchPassed_delivered : ∀ f ∈ catchPassed s, ∀ t, Delivered t (f t) := fun f hf t => by
  rcases catchPassed_cases hf with rfl | rfl
  · exact requestRollback_delivered _ t
  · exact sendReport_delivered _ t

theorem enterCatch_delivered (s : State) : Delivered (inCatch s) (enterCatch s) :=
  hillPublish_delivered catchPassed_delivered

theorem enterCatch_reported (s : State) : reported (rollbackReport s) (enterCatch s) :=
  hillPublish_reported catchPassed_delivered (List.mem_cons_of_mem _ (List.mem_singleton_self _))

/-- R102, R119: the entry to the catch is delivered to BLD, and no later delivery brings drive back. -/
theorem enterCatch_drive (active : s.sfc.opState = .active) (free : s.hhu.state ≠ .rollbackCatch) :
    (enterCatch s).bld.drive = ⟨0, 0⟩ := by
  have turns : rerunWith (catchCauses s true (inCatch s)) ∈ hillReaders s true false (inCatch s) := by
    simp [hillReaders, caughtFrom, free]
  have stopped : DriveStopped (enterCatch s) := by
    refine inSomeOrder_reaches (P := Delivered (inCatch s)) (fun {t} d => ?_)
      (fun f hf t d => d.trans (hillDelivery_delivered catchPassed_delivered hf t))
      (fun f hf t _ k => ?_) (List.mem_append_left _ turns)
      (fun t d => rerunWith_stopped _ (by rw [d.sfc]; exact active) (by rw [d.hhu]; rfl)) (.refl _)
    · obtain ⟨n, hn⟩ := drawFrom_changes_free Config.freeOrder t
      rw [hn]
      exact d.trans (free_delivered n t)
    · rcases List.mem_append.mp hf with reader | passed
      · rcases hillReaders_cases reader with ⟨_, rfl⟩ | ⟨_, _, rfl⟩ | rfl
        · exact rerunWith_stopped _ k.active k.caught
        · exact tripFloorRise_stopped k _ _
        · exact sandHoldChange_stopped k _ _
      · rcases catchPassed_cases passed with rfl | rfl
        · exact requestRollback_stopped k _
        · exact sendReport_stopped k _
  exact stopped.drive

/-- R133, R169: a floor that the catch raises from 0 ends the open episode of its bogie. -/
theorem enterCatch_episode {y : Bogie} (low : s.floor y = 0) (high : 0 < (caughtFrom s).floor.get y) :
    ((enterCatch s).stu.bogie.get y).episode = none := by
  have rises : (floorsRisen s (inCatch s)).get y = true := by
    rw [floorsRisen, PerBogie.get_of]
    exact decide_eq_true ⟨low, by rwa [inCatch_floor]⟩
  have delivered : tripFloorRise (floorsRisen s (inCatch s)) (catchCauses s true (inCatch s))
      ∈ hillReaders s true false (inCatch s) := by
    rw [hillReaders, if_pos (List.any_eq_true.mpr ⟨y, Bogie.mem_all y, rises⟩)]
    simp
  refine inSomeOrder_reaches (P := fun _ => True) (Q := fun t => (t.stu.bogie.get y).episode = none)
    (fun _ => trivial) (fun _ _ _ _ => trivial) (fun f hf t _ k => ?_) (List.mem_append_left _ delivered)
    (fun t _ => tripFloorRise_shuts _ rises t) trivial
  rcases List.mem_append.mp hf with reader | passed
  · rcases hillReaders_cases reader with ⟨_, rfl⟩ | ⟨_, _, rfl⟩ | rfl
    · rwa [rerunWith_stu]
    · exact tripFloorRise_keeps_shut _ _ k
    · rwa [sandHoldChange_stu]
  · rcases catchPassed_cases passed with rfl | rfl
    · rwa [requestRollback_onlySand]
    · rwa [sendReport_stu]

/-- R139, R146: where the valve is not CLOSED no grant follows, and SND is as the new ROLLBACK entry leaves it. -/
theorem requestRollback_snd_of_busy {e : Side} (active : s.isActive = true)
    (fresh : s.snd.queue.any (SandEntry.isFor .rollback e) = false) (room : s.snd.queue.length < 8)
    (busy : s.snd.valve.get e ≠ .closed) :
    (requestRollback e s).snd = (joinTail .rollback e false 3 s).snd := by
  have joins : enqueueSand .rollback e false 3 s = joinTail .rollback e false 3 s := by
    rw [enqueueSand, if_neg (by rw [fresh]; exact Bool.false_ne_true), if_pos room]
  rw [requestRollback_of_active e active, joinNext, joins]
  split
  · exact congrArg State.snd (judgeEnd_of_busy (s := joinTail .rollback e false 3 s) busy)
  · rfl

/-- R133, R138, R139: from HOLDING and from OFF, whose end removes no entry (R143), the ROLLBACK request joins. -/
theorem enterCatch_snd {e : Side} (trails : s.travel.trailing = e) (active : s.sfc.opState = .active)
    (left : s.hhu.state = .holding ∨ s.hhu.state = .off)
    (fresh : s.snd.queue.any (SandEntry.isFor .rollback e) = false) (room : s.snd.queue.length < 8)
    (busy : s.snd.valve.get e ≠ .closed) : (enterCatch s).snd = { s.snd with
      queue := s.snd.queue ++ [{
        source := .rollback, side := e, leading := false, shots := 3, age := none, arrival := s.snd.arrivals }]
      arrivals := s.snd.arrivals + 1 } := by
  have quiet (t : State) : sandHoldChange s.hhu.state (caughtFrom s).state t = t := by
    rcases left with h | h <;> rw [h] <;> rfl
  rw [enterCatch_eq, catchPassed, trails]
  obtain ⟨u, delivered, snd, taken⟩ := hillPublish_snd_of_request (old := s) (caught := true) (force := false)
    (s := inCatch s) (.refl [requestRollback e, sendReport (rollbackReport s)]) quiet
    fun g hg t => by
      rw [List.mem_singleton.mp hg]
      exact ⟨sendReport_delivered _ t, sendReport_snd _ t⟩
  have live : u.isActive = true := delivered.isActive.trans ((isActive_iff s).mpr active)
  refine taken.trans ?_
  rw [← snd] at fresh room busy
  rw [requestRollback_snd_of_busy live fresh room busy, joinTail, snd]
  rfl

end

end Sys2Proof.Machine
end

section
/-! SUPPORT. An axle sample at HHU (R131 to R134): the end of a catch, and the settlement of what an arrival does. -/

namespace Sys2Proof.Machine

section

variable {s : State} {x : Axle} {p : Sample}

theorem holdingFloors_of_caught (caught : s.hhu.state = .rollbackCatch) :
    holdingFloors s = { s.hhu with level := s.hhu.floor } := by
  rw [holdingFloors, caught]

/-- R134: the report of the end of a catch. -/
theorem catchEnded_reported (caught : s.hhu.state = .rollbackCatch) : reported (.holdState .holding .rollbackCatch
    .catchEnded s.hhu.floor s.hhu.holdForce s.hhu.relThreshold s.hhu.dAch s.nowMs) (enterHolding .catchEnded s) := by
  have sent := enterHolding_reported .catchEnded s
  rwa [holdingFloors_of_caught caught, caught] at sent

theorem catchEnded_holds (caught : s.hhu.state = .rollbackCatch) (waits : s.mode ≠ .drive ∨ s.hhu.rearm = false) :
    (enterHolding .catchEnded s).hhu = holdingFrom { s.hhu with level := s.hhu.floor } := by
  rw [← holdingFloors_of_caught caught]
  exact waits.elim (enterHolding_hhu_of_mode .catchEnded) (enterHolding_hhu_of_unarmed .catchEnded)

/-- An arrival changes HHU's record, and what HHU's deliveries change. -/
theorem hillArrival_delivered (x : Axle) (p : Sample) (s : State) :
    ∃ n, Delivered { s with hhu := n } (hillArrival x p s) := by
  have stays : ∃ n, Delivered { s with hhu := n } s := ⟨s.hhu, .refl s⟩
  unfold hillArrival watchArrival
  dsimp only
  split_ifs
  · exact stays
  · exact enterHolding_delivered _ s
  · exact stays
  · exact ⟨_, enterCatch_delivered (accumulated x _ s)⟩
  · exact ⟨_, .refl (accumulated x _ s)⟩
  · exact ⟨_, .refl (accumulated x 0 s)⟩
  · exact stays

/-- The catch needs no more of a state than the accumulators leave alone. -/
theorem caughtFrom_accumulated (n : Nat) : caughtFrom (accumulated x n s) = { (accumulated x n s).hhu with
    state := .rollbackCatch, floor := (caughtFrom (accumulated x n s)).floor
    level := (computeHold s).hhu.level, holdForce := (computeHold s).hhu.holdForce
    ramp := ⟨none, none, none⟩, confirm := .stopped, takeUp := none
    caughtAtRest := decide (s.ref.active = .standstill) } := rfl

theorem caughtFrom_floor (y : Bogie) : (caughtFrom s).floor.get y
    = max (s.floor y) (max ((computeHold s).hhu.level.get y)
        (s.blend.pMax.get y * s.sfc.cfg.hold.catchShare / 1000)) := PerBogie.get_of _ y

theorem trailing_eq (d : Direction) : d.trailing = if d = .forward then .two else .one := by
  cases d <;> rfl

end

/-- Settles O52: the branches of an arrival by their equations; of a catch, its record, its report, and what its
deliveries leave of the drive, of the episodes and of SND. -/
theorem rollbackWatch : Obligations.RollbackWatch := by
  unfold Obligations.RollbackWatch
  rintro x p s _ dir rfl hdir
  obtain ⟨n, all⟩ := hillArrival_delivered x p s
  refine ⟨hillArrival_of_set_aside x, fun active kept sound => ⟨fun caught rest hrest => ?_,
    hillArrival_of_unwatched active kept sound, fun off watches fast => ?_,
    fun state watches far count u detected wheel ground hcount hu hdetected => ?_⟩,
    all.wsc, all.ref, all.adh, all.rlq, all.sfc, all.chan⟩
  · rw [← watchedAtRest_iff] at hrest
    rw [hillArrival_of_taken active kept sound, if_pos caught]
    refine ⟨fun moves => if_neg fun ends => moves (hrest.mpr ends), fun ends held hheld => ?_⟩
    rw [if_pos (hrest.mp ends)]
    obtain rfl : held = holdingFrom { s.hhu with level := s.hhu.floor } := hheld
    refine ⟨catchEnded_reported caught, catchEnded_holds caught, fun drives armed effort shut => ?_⟩
    rw [enterHolding_hhu_of_drive .catchEnded drives armed effort (by simp [shut]), holdingFloors_of_caught caught]
    rfl
  · rw [hillArrival_of_watched active kept sound (by rw [off]; exact nofun) watches, watchArrival_of_fast x p off fast]
    rfl
  · have free : s.hhu.state ≠ .rollbackCatch := by
      rcases state with h | h | h | ⟨h, -⟩ <;> rw [h] <;> exact nofun
    obtain rfl : far = sampleDistance p := sampleDistance_eq wheel ground
    obtain rfl : dir = s.travel.sign := hdir.trans (sign_eq _).symm
    obtain rfl : u = accumulated x count s := hu
    rw [← rollbackDetected_iff] at hdetected
    rw [hillArrival_of_watched active kept sound free watches,
      watchArrival_of_active x p (watchActive_of state) hcount.symm]
    refine ⟨fun quiet => if_neg fun c => quiet (hdetected.mpr c), ?_⟩
    rintro detects _ rfl
    rw [if_pos (hdetected.mp detects)]
    have moved := enterCatch_delivered (accumulated x count s)
    have sent := enterCatch_reported (accumulated x count s)
    rw [rollbackReport, exceeding_eq, trailing_eq] at sent
    rw [moved.hhu]
    refine ⟨caughtFrom_accumulated count, caughtFrom_floor, sent, enterCatch_drive active free, fun y low high =>
      enterCatch_episode low high, ?_⟩
    rintro e he left fresh room busy
    exact enterCatch_snd ((trailing_eq _).trans he.symm) active left fresh room busy

end Sys2Proof.Machine
end

section
/-! SUPPORT. Every step keeps the sand request queue well formed (R137): what the deliveries keep is said by
`Stable`; here stand the few changes that a command makes of itself. -/

namespace Sys2Proof.Machine

theorem raiseFault_snd (id : FaultId) (s : State) : (raiseFault id s).snd = s.snd := by
  obtain ⟨r, -, e⟩ := raiseFault_eq id s
  rw [e]
  rfl

/-- R192: a discard touches the link and its record alone. -/
theorem discardFrame_snd (s : State) : (discardFrame s).snd = s.snd := by
  unfold discardFrame
  dsimp only
  split
  · exact raiseFault_snd _ _
  · rfl

theorem countGood_snd (s : State) : (countGood s).snd = s.snd := by
  unfold countGood
  dsimp only
  split <;> rfl

/-- R155: a RESTART that takes effect leaves no request for sand. -/
theorem restartEffect_sandQueue (s : State) : (restartEffect s).snd.queue = [] := by
  obtain ⟨-, -, -, -, -, -, empty, -⟩ := restartEffect_facts s
  exact empty

/-- Only a move of the sand queue changes it, and each such move keeps it well formed; RESTART empties it. -/
theorem kept_sandWf : Kept fun s => sandWf s.snd.queue where
  view e w := by rwa [sandQueue_of_view e]
  report _ _ w := by rwa [sendReport_snd]
  fault _ _ _ _ _ w := w
  sand _ _ move w := move w
  route _ _ _ w := w
  failsafe _ w := w
  chans _ _ w := w
  ebl _ _ w := w
  valid _ _ w := w
  reply _ _ _ w := by rwa [sendReply_snd]
  notices _ _ _ w := w
  framer _ _ _ w := w
  discard w := by rwa [discardFrame_snd]
  good w := by rwa [countGood_snd]
  freed _ w := by rwa [arbitrate_snd]
  clear _ _ _ w := w
  section_ _ _ _ _ _ _ w := w
  ready _ _ w := w
  active _ w := w
  stopped _ w := w
  restart _ _ _ _ w := by rwa [answer_snd]
  effect _ _ := by
    rw [restartEffect_sandQueue]
    exact sandWf_nil

/-- Settles O8: every command keeps it, power-on reset empties the queue, and time touches no block. -/
theorem stepKeepsSandQueue : Obligations.StepKeepsSandQueue := by
  unfold Obligations.StepKeepsSandQueue
  exact fun _ _ e w => step_keeps kept_sandWf (fun _ _ _ _ => sandWf_nil) (fun _ _ _ w => w) e w

end Sys2Proof.Machine
end

section
/-! SUPPORT. A request for sand and a grant (R138 to R147): one equation for each way a request is taken, the entry an
eviction takes, the entry an arbiter grants, and the frame of all of them. -/

namespace Sys2Proof.Machine

/-! The frame -/

/-- A request for sand or a grant changes SND, the allocation, AFE's output conditions and the link alone. -/
abbrev SandFrame (s t : State) : Prop := t = { s with
  snd := t.snd, bld := t.bld, afe := { s.afe with sup := t.afe.sup }, lnk := t.lnk }

theorem sandFrame_of_onlySand {s t : State} (only : OnlySand s t) (core : t.core = s.core) : SandFrame s t := by
  have afe : t.afe = { s.afe with sup := t.afe.sup } := by
    show t.afe = ⟨s.afe.chan, t.afe.sup⟩
    rw [← chan_of_core core]
  unfold OnlySand at only
  rw [only] at afe
  unfold SandFrame
  rw [only, afe]

theorem answer_onlySand (k : ReqKind) (tag : Byte) (r : Result) (s : State) : OnlySand s (answer k tag r s) := by
  unfold OnlySand
  rw [answer_eq]

theorem joinSand_onlySand (source : SandSource) (e : Side) (leading : Bool) (n : Nat) (s : State) :
    OnlySand s (joinSand source e leading n s) := joinAll_onlySand _ _ _ _ s

/-! The entry an eviction takes (R140) -/

theorem lowestPriority_le {q : List SandEntry} {x : SandEntry} (hx : x ∈ q) :
    lowestPriority q ≤ sandPriority x.source := by
  induction q with
  | nil => exact absurd hx List.not_mem_nil
  | cons a q ih =>
    rcases List.mem_cons.mp hx with rfl | hx
    · exact Nat.min_le_left _ _
    · exact (Nat.min_le_right _ _).trans (ih hx)

theorem le_lowestPriority {q : List SandEntry} {p : Nat} (some : q ≠ [])
    (higher : ∀ x ∈ q, p ≤ sandPriority x.source) : p ≤ lowestPriority q := by
  obtain ⟨x, hx, low⟩ := lowestPriority_mem some
  exact low ▸ higher x hx

/-- `x` is the newest of the entries of lowest priority. -/
abbrev IsNewestLowest (x : SandEntry) (before after : List SandEntry) : Prop :=
  (∀ z ∈ before, sandPriority x.source ≤ sandPriority z.source)
    ∧ ∀ z ∈ after, sandPriority x.source < sandPriority z.source

theorem evictee_eq_none {p : Nat} {q : List SandEntry} (other : ∀ z ∈ q, sandPriority z.source ≠ p) :
    evictee p q = none := by
  induction q with
  | nil => rfl
  | cons a q ih =>
    rw [evictee, ih fun z hz => other z (List.mem_cons_of_mem _ hz)]
    exact if_neg (other a List.mem_cons_self)

section

variable {before after : List SandEntry} {x : SandEntry} (newest : IsNewestLowest x before after)
include newest

theorem IsNewestLowest.lowestPriority : lowestPriority (before ++ x :: after) = sandPriority x.source := by
  obtain ⟨older, newer⟩ := newest
  refine Nat.le_antisymm (lowestPriority_le (by simp)) (le_lowestPriority (by simp) fun y hy => ?_)
  rcases List.mem_append.mp hy with hy | hy
  · exact older y hy
  · rcases List.mem_cons.mp hy with rfl | hy
    · exact le_rfl
    · exact (newer y hy).le

theorem IsNewestLowest.evictee :
    evictee (sandPriority x.source) (before ++ x :: after) = some (x, before ++ after) := by
  have newer : Machine.evictee (sandPriority x.source) after = none :=
    evictee_eq_none fun z hz => (newest.2 z hz).ne'
  clear newest
  induction before with
  | nil =>
    rw [List.nil_append, Machine.evictee, newer]
    exact if_pos rfl
  | cons a before ih =>
    rw [List.cons_append, Machine.evictee, ih]
    rfl

theorem IsNewestLowest.evict {s : State} (queue : s.snd.queue = before ++ x :: after) : evict s
    = sendReport (.sand .evicted x.side x.source x.arrival x.shots (s.snd.level.get x.side) s.nowMs)
      (s.setSandQueue (before ++ after)) := by
  rw [Machine.evict, queue, newest.lowestPriority, newest.evictee]

end

/-! A request (R138 to R141, R146) -/

section

variable {source : SandSource} {e : Side} {leading : Bool} {n : Nat} {s : State}

theorem any_isFor_of_find?_eq_none (absent : s.snd.queue.find? (SandEntry.isFor source e) = none) :
    s.snd.queue.any (SandEntry.isFor source e) = false := by simpa using absent

/-- R139, R146: the request is taken, and where it finds a place the arbiter judges. -/
theorem joinSand_eq (source : SandSource) (e : Side) (leading : Bool) (n : Nat) (s : State) :
    joinSand source e leading n s = if (placement source e n s).isSome then
      judgeEnd e (enqueueSand source e leading n s) else enqueueSand source e leading n s := by
  rw [joinSand, joinAll, joinAll, joinNext]
  simp

/-- R139: a request that finds an entry of its source and end. -/
theorem joinSand_of_match (leading : Bool) (n : Nat)
    (waits : s.snd.queue.any (SandEntry.isFor source e) = true) :
    joinSand source e leading n s = judgeEnd e (s.setSandQueue
      (s.snd.queue.map fun y => if y.isFor source e then mergeEntry s leading n y else y)) := by
  rw [joinSand_eq, if_pos (placement_of_match n waits), enqueueSand, if_pos waits]

variable (absent : s.snd.queue.any (SandEntry.isFor source e) = false)
include absent

/-- R139: a request that joins a queue with room. -/
theorem joinSand_of_room (leading : Bool) (n : Nat) (room : s.snd.queue.length < 8) :
    joinSand source e leading n s = judgeEnd e (joinTail source e leading n s) := by
  have placed : (placement source e n s).isSome = true := by
    rw [placement_of_fresh n absent, if_pos (.inl room)]
    rfl
  rw [joinSand_eq, if_pos placed, enqueueSand, if_neg (by simp [absent]), if_pos room]

/-- R140: a request that joins a full queue in the place of an entry of lower priority. -/
theorem joinSand_of_evicts (leading : Bool) (n : Nat) (full : 8 ≤ s.snd.queue.length)
    (lower : lowestPriority s.snd.queue < sandPriority source) :
    joinSand source e leading n s = judgeEnd e (joinTail source e leading n (evict s)) := by
  have placed : (placement source e n s).isSome = true := by
    rw [placement_of_fresh n absent, if_pos (.inr lower)]
    rfl
  rw [joinSand_eq, if_pos placed, enqueueSand, if_neg (by simp [absent]), if_neg (Nat.not_lt.mpr full),
    if_pos lower]

theorem placement_of_dropped (n : Nat) (full : 8 ≤ s.snd.queue.length)
    (higher : sandPriority source ≤ lowestPriority s.snd.queue) : placement source e n s = none := by
  rw [placement_of_fresh n absent, if_neg (by omega)]

/-- R140: a request that finds no entry of lower priority in a full queue. -/
theorem joinSand_of_dropped (leading : Bool) (n : Nat) (full : 8 ≤ s.snd.queue.length)
    (higher : sandPriority source ≤ lowestPriority s.snd.queue) (reports : source ≠ .manual) :
    joinSand source e leading n s
      = sendReport (.sand .dropped e source 0 n (s.snd.level.get e) s.nowMs) s := by
  rw [joinSand_eq, placement_of_dropped absent n full higher, if_neg (by simp), enqueueSand,
    if_neg (by simp [absent]), if_neg (Nat.not_lt.mpr full), if_neg (Nat.not_lt.mpr higher), if_neg reports]

end

/-! What a request leaves of SND where no grant follows (R139, R140) -/

theorem ageOf_congr {s u : State} (clock : u.clock = s.clock) (source : SandSource) :
    ageOf u source = ageOf s source := by rw [ageOf, ageOf, State.timer, State.timer, clock]

theorem judgeEnd_snd_of_busy {s : State} {e : Side} (busy : s.snd.valve.get e ≠ .closed) :
    (judgeEnd e s).snd = s.snd := by rw [judgeEnd_of_busy busy]

/-- R139: the entry with which a request joins the queue. -/
abbrev newEntry (source : SandSource) (e : Side) (leading : Bool) (n : Nat) (s : State) : SandEntry :=
  ⟨source, e, leading, n, ageOf s source, s.snd.arrivals⟩

/-- R139: the queue after a merge. -/
abbrev mergedQueue (source : SandSource) (e : Side) (leading : Bool) (n : Nat) (s : State) : List SandEntry :=
  s.snd.queue.map fun y => if y.source = source ∧ y.side = e
    then { y with shots := min 10 (y.shots + n), leading := y.leading && leading, age := ageOf s source }
    else y

section

variable {s u : State} (snd : u.snd = s.snd) (clock : u.clock = s.clock) (source : SandSource) (e : Side)
  (leading : Bool) (n : Nat)
include snd clock

theorem newEntry_congr : newEntry source e leading n u = newEntry source e leading n s := by
  rw [newEntry, newEntry, ageOf_congr clock, snd]

theorem mergedQueue_congr : mergedQueue source e leading n u = mergedQueue source e leading n s := by
  rw [mergedQueue, mergedQueue, ageOf_congr clock, snd]

end

section

variable {source : SandSource} {e : Side} {s : State}

theorem map_mergeEntry (leading : Bool) (n : Nat) :
    (s.snd.queue.map fun y => if y.isFor source e then mergeEntry s leading n y else y)
      = mergedQueue source e leading n s := by
  refine List.map_congr_left fun y _ => ?_
  by_cases same : y.source = source ∧ y.side = e
  · rw [if_pos same, if_pos (isFor_iff.mpr same), mergeEntry, same.1]
  · rw [if_neg same, if_neg (mt isFor_iff.mp same)]

/-- R140, R154: the join that evicts reports the entry it evicts, and leaves SND with the new one at the tail. -/
theorem evictJoin_facts (leading : Bool) (n : Nat) {before after : List SandEntry} {x : SandEntry}
    (newest : IsNewestLowest x before after) (queue : s.snd.queue = before ++ x :: after) :
    reported (.sand .evicted x.side x.source x.arrival x.shots (s.snd.level.get x.side) s.nowMs)
        (joinTail source e leading n (evict s))
      ∧ (joinTail source e leading n (evict s)).snd = { s.snd with
          queue := before ++ after ++ [newEntry source e leading n s], arrivals := s.snd.arrivals + 1 } := by
  have clock : (evict s).clock = s.clock := clock_of_core (evict_core s)
  have snd : (evict s).snd = { s.snd with queue := before ++ after } := by
    rw [newest.evict queue, sendReport_snd, State.setSandQueue_snd]
  constructor
  · have sent : reported _ (evict s) := newest.evict queue ▸ sendReport_reported_self _ _
    exact sent
  · rw [joinTail, ageOf_congr clock, snd]

variable (busy : s.snd.valve.get e ≠ .closed)
include busy

theorem joinSand_snd_of_match (leading : Bool) (n : Nat)
    (waits : s.snd.queue.any (SandEntry.isFor source e) = true) :
    (joinSand source e leading n s).snd = { s.snd with queue := mergedQueue source e leading n s } := by
  rw [joinSand_of_match leading n waits, map_mergeEntry]
  exact judgeEnd_snd_of_busy (by exact busy)

variable (absent : s.snd.queue.any (SandEntry.isFor source e) = false)
include absent

theorem joinSand_snd_of_room (leading : Bool) (n : Nat) (room : s.snd.queue.length < 8) :
    (joinSand source e leading n s).snd = { s.snd with
      queue := s.snd.queue ++ [newEntry source e leading n s], arrivals := s.snd.arrivals + 1 } := by
  rw [joinSand_of_room absent leading n room]
  exact judgeEnd_snd_of_busy (by exact busy)

end

/-- R140, R154: a request that joins in the place of the newest entry of lowest priority. -/
theorem joinSand_evicts {source : SandSource} {e : Side} {s : State} (leading : Bool) (n : Nat)
    (absent : s.snd.queue.any (SandEntry.isFor source e) = false) (full : 8 ≤ s.snd.queue.length)
    {before after : List SandEntry} {x : SandEntry} (newest : IsNewestLowest x before after)
    (queue : s.snd.queue = before ++ x :: after) (lower : sandPriority x.source < sandPriority source) :
    reported (.sand .evicted x.side x.source x.arrival x.shots (s.snd.level.get x.side) s.nowMs)
        (joinSand source e leading n s)
      ∧ (s.snd.valve.get e ≠ .closed → (joinSand source e leading n s).snd = { s.snd with
          queue := before ++ after ++ [newEntry source e leading n s], arrivals := s.snd.arrivals + 1 }) := by
  rw [joinSand_of_evicts absent leading n full (by rwa [queue, newest.lowestPriority])]
  obtain ⟨sent, snd⟩ := evictJoin_facts (source := source) (e := e) leading n newest queue
  refine ⟨judgeEnd_keeps (stable_reported _) e sent, fun busy => ?_⟩
  rw [judgeEnd_snd_of_busy (by rw [snd]; exact busy), snd]

/-! What an arbiter grants (R146) -/

/-- `x` may be served, none before it that may has its priority, and none behind it that may has a higher one. -/
abbrev IsMostUrgent (may : SandEntry → Bool) (x : SandEntry) (q : List SandEntry) : Prop :=
  may x = true ∧ ∃ before after, q = before ++ x :: after
    ∧ (∀ y ∈ before, may y = true → sandPriority y.source < sandPriority x.source)
    ∧ ∀ y ∈ after, may y = true → sandPriority y.source ≤ sandPriority x.source

theorem IsMostUrgent.cons {may : SandEntry → Bool} {a x : SandEntry} {q : List SandEntry} (h : IsMostUrgent may x q)
    (lower : may a = true → sandPriority a.source < sandPriority x.source) : IsMostUrgent may x (a :: q) := by
  obtain ⟨served, before, after, rfl, older, newer⟩ := h
  exact ⟨served, a :: before, after, rfl, List.forall_mem_cons.mpr ⟨lower, older⟩, newer⟩

/-- The most urgent entry among those that may be served, by its place in the whole queue. -/
theorem mostUrgent_filter_eq_some {may : SandEntry → Bool} {x : SandEntry} : ∀ {q : List SandEntry},
    mostUrgent (q.filter may) = some x → IsMostUrgent may x q
  | a :: q, h => by
    by_cases served : may a = true
    · rw [List.filter_cons_of_pos served] at h
      by_cases head : a = x
      · subst head
        exact ⟨served, [], q, rfl, by simp, fun y hy may_y =>
          mostUrgent_max h y (List.mem_cons_of_mem _ (List.mem_filter.mpr ⟨hy, may_y⟩))⟩
      · rw [mostUrgent] at h
        split at h
        · exact absurd (Option.some.inj h) head
        · next z e =>
          split_ifs at h with lower
          · cases h
            exact (mostUrgent_filter_eq_some e).cons fun _ => lower
          · exact absurd (Option.some.inj h) head
    · rw [List.filter_cons_of_neg served] at h
      exact (mostUrgent_filter_eq_some h).cons fun yes => absurd yes served

theorem grantee_of_closed {s : State} {e : Side} (active : s.sfc.opState = .active)
    (closed : s.snd.valve.get e = .closed) :
    grantee s e = mostUrgent (s.snd.queue.filter fun x => x.side = e && permitted s x) :=
  if_pos ⟨(isActive_iff s).mpr active, closed⟩

/-- R146: an arbiter grants in ACTIVE, at a CLOSED valve. -/
theorem judges_of_grantee_eq_some {s : State} {e : Side} {x : SandEntry} (granted : grantee s e = some x) :
    s.sfc.opState = .active ∧ s.snd.valve.get e = .closed := by
  unfold grantee at granted
  split at granted
  · next judges => exact ⟨(isActive_iff s).mp judges.1, judges.2⟩
  · exact nomatch granted

/-- R146: the arbiter of an end grants an entry that is permitted there, by priority and then by age. -/
theorem grantee_eq_some {s : State} {e : Side} {x : SandEntry} (granted : grantee s e = some x) :
    permitted s x = true ∧ x.side = e ∧ ∃ before after, s.snd.queue = before ++ x :: after
      ∧ (∀ y ∈ before, y.side = e → permitted s y = true → sandPriority y.source < sandPriority x.source)
      ∧ ∀ y ∈ after, y.side = e → permitted s y = true → sandPriority y.source ≤ sandPriority x.source := by
  obtain ⟨active, closed⟩ := judges_of_grantee_eq_some granted
  rw [grantee_of_closed active closed] at granted
  obtain ⟨served, before, after, queue, older, newer⟩ := mostUrgent_filter_eq_some granted
  have may (y : SandEntry) : (y.side = e && permitted s y) = true ↔ y.side = e ∧ permitted s y = true := by simp
  obtain ⟨side, allowed⟩ := (may x).mp served
  exact ⟨allowed, side, before, after, queue, fun y hy at_e ok => older y hy ((may y).mpr ⟨at_e, ok⟩),
    fun y hy at_e ok => newer y hy ((may y).mpr ⟨at_e, ok⟩)⟩

/-- R146: an arbiter that judges and grants nothing finds no entry permitted. -/
theorem not_permitted_of_grantee_eq_none {s : State} {e : Side} (active : s.sfc.opState = .active)
    (closed : s.snd.valve.get e = .closed) (none : grantee s e = none) {y : SandEntry} (hy : y ∈ s.snd.queue)
    (side : y.side = e) : permitted s y = false := by
  rw [grantee_of_closed active closed] at none
  have empty := List.filter_eq_nil_iff.mp (mostUrgent_eq_none none) y hy
  simpa [side] using empty

end Sys2Proof.Machine
end

section
/-! SUPPORT. SAND REQUEST (R138 to R141): the result of the checks in their order, and the ways the request joins. -/

namespace Sys2Proof.Machine

/-! The end and the result (R141) -/

/-- R141: the end and the leading mark a code names. -/
abbrev NamesEnd (s : State) (side : Byte) (e : Side) (leading : Bool) : Prop :=
  (side = 0 ∧ e = s.travel.leading ∧ leading = true) ∨ (side = 1 ∧ e = .one ∧ leading = false)
    ∨ (side = 2 ∧ e = .two ∧ leading = false)

theorem sideOfCode?_of_three_le {n : Nat} (h : 3 ≤ n) : sideOfCode? n = none := by
  obtain ⟨m, rfl⟩ := Nat.exists_eq_add_of_le' h
  rfl

section

variable {s : State} {side : Byte}

theorem sandEnd_of_three_le (large : 3 ≤ side.toNat) : sandEnd s side = none := by
  have named : side ≠ 0 := by rintro rfl; simp at large
  rw [sandEnd, if_neg named, sideOfCode?_of_three_le large]
  rfl

theorem sandEnd_of_names {e : Side} {leading : Bool} (names : NamesEnd s side e leading) :
    sandEnd s side = some (e, leading) := by
  rcases names with ⟨rfl, rfl, rfl⟩ | ⟨rfl, rfl, rfl⟩ | ⟨rfl, rfl, rfl⟩ <;> rfl

theorem exists_namesEnd (small : side.toNat < 3) : ∃ e leading, NamesEnd s side e leading := by
  have codes : side = 0 ∨ side = 1 ∨ side = 2 := by bv_omega
  rcases codes with h | h | h
  · exact ⟨_, _, .inl ⟨h, rfl, rfl⟩⟩
  · exact ⟨_, _, .inr (.inl ⟨h, rfl, rfl⟩)⟩
  · exact ⟨_, _, .inr (.inr ⟨h, rfl, rfl⟩)⟩

end

section

variable {tag side shots : Byte} {s : State} {e : Side} {leading : Bool}

/-- R141: the body of an OK reply. -/
def placedBody (e : Side) (arrival : BitVec 16) (total : Nat) : List Byte :=
  one e.number ++ two arrival.toNat ++ one total

theorem placedBody_eq (e : Side) (arrival : BitVec 16) (total : Nat) : placedBody e arrival total
    = BitVec.ofNat 8 e.number :: bytesOf 2 arrival.toNat ++ [BitVec.ofNat 8 total] := by
  simp [placedBody, one, two, bytesOf]

/-- R141: the result of a request that passes the first two checks, by its place in the queue. -/
def placedResult (e : Side) (place : Option (BitVec 16 × Nat)) : Result :=
  place.elim (.refusedFull none) fun p => .ok (placedBody e p.1 p.2)

/-- R141: the checks in their order. -/
theorem sandRequestResult_of_names (names : NamesEnd s side e leading) : sandRequestResult side shots s =
    if shots.toNat < 1 ∨ 10 < shots.toNat then .refusedRange 2
    else if !s.isActive then .refusedState
    else placedResult e (placement .manual e shots.toNat s) := by
  rw [sandRequestResult, sandEnd_of_names names]
  dsimp only
  generalize placement .manual e shots.toNat s = place
  rcases place with _ | ⟨arrival, total⟩ <;> rfl

theorem exec_sandRequest (h : accepts s) :
    exec (.sandRequest tag side shots) s = .next (takeSandRequest tag side shots s) :=
  congrArg Host.Outcome.next (asRequest_of_accepts (takeSandRequest tag side shots) h)

/-- A request that is not answered OK changes nothing else. -/
theorem sandRequest_answersOnly (h : accepts s) {r : Result} (hr : sandRequestResult side shots s = r)
    (refused : ∀ body, r ≠ .ok body) : answersOnly (.sandRequest tag side shots) .sandRequest tag r s := by
  subst hr
  unfold answersOnly
  rw [exec_sandRequest h]
  unfold takeSandRequest
  dsimp only
  split
  · next ok => exact absurd ok (refused _)
  · rfl

end

/-! The request in ACTIVE (R139, R140) -/

/-- A request for sand that passes the checks of R141. -/
structure Requests (s : State) (side shots : Byte) (e : Side) (leading : Bool) : Prop where
  accepts : accepts s
  names : NamesEnd s side e leading
  low : 1 ≤ shots.toNat
  high : shots.toNat ≤ 10
  active : s.sfc.opState = .active

section

variable {tag side shots : Byte} {s : State} {e : Side} {leading : Bool}

theorem Requests.result (r : Requests s side shots e leading) :
    sandRequestResult side shots s = placedResult e (placement .manual e shots.toNat s) := by
  have range : ¬ (shots.toNat < 1 ∨ 10 < shots.toNat) := by
    have := r.low
    have := r.high
    omega
  rw [sandRequestResult_of_names r.names, if_neg range, if_neg (by simp [State.isActive, r.active])]

/-- R141: what a request that joins or merges leaves: the reply, and the join in the state after it. -/
theorem Requests.placed (r : Requests s side shots e leading) {arrival : BitVec 16} {total : Nat}
    (place : placement .manual e shots.toNat s = some (arrival, total)) :
    exec (.sandRequest tag side shots) s = .next (joinSand .manual e leading shots.toNat
      (answer .sandRequest tag (.ok (placedBody e arrival total)) s)) := by
  rw [exec_sandRequest r.accepts, takeSandRequest, r.result, place, sandEnd_of_names r.names]
  rfl

/-- R139, R141: a request that is answered OK: the reply, and the frame of the join in the state after it. -/
theorem Requests.taken (r : Requests s side shots e leading) {arrival : BitVec 16} {total : Nat}
    (place : placement .manual e shots.toNat s = some (arrival, total)) :
    ∃ u : State, u.snd = s.snd ∧ u.clock = s.clock
      ∧ exec (.sandRequest tag side shots) s = .next (joinSand .manual e leading shots.toNat u)
      ∧ replied .sandRequest tag (.ok (BitVec.ofNat 8 e.number :: bytesOf 2 arrival.toNat
          ++ [BitVec.ofNat 8 total])) (joinSand .manual e leading shots.toNat u)
      ∧ SandFrame s (joinSand .manual e leading shots.toNat u) := by
  refine ⟨_, answer_snd _ _ _ _, answer_clock _ _ _ _, r.placed place, ?_, ?_⟩
  · rw [← placedBody_eq]
    exact joinSand_keeps (stable_replied _ _ _) _ _ _ r.low r.high (answer_replied _ _ _ _)
  · exact sandFrame_of_onlySand ((answer_onlySand _ _ _ s).trans (joinSand_onlySand _ _ _ _ _))
      ((joinSand_core _ _ _ _ _).trans (answer_core _ _ _ s))

end

/-! The settlement -/

section

variable {s : State} {e : Side} (absent : s.snd.queue.any (SandEntry.isFor .manual e) = false)
include absent

theorem placement_manual_of_room (n : Nat) (room : s.snd.queue.length < 8) :
    placement .manual e n s = some (s.snd.arrivals, n) := by
  rw [placement_of_fresh n absent, if_pos (.inl room)]

theorem placement_manual_of_lower (n : Nat) (lower : lowestPriority s.snd.queue < 2) :
    placement .manual e n s = some (s.snd.arrivals, n) := by
  rw [placement_of_fresh n absent, if_pos (.inr lower)]

end

/-- An ADHESION entry with none behind it is the newest of lowest priority. -/
theorem isNewestLowest_of_adhesion {before after : List SandEntry} {x : SandEntry} (adhesion : x.source = .adhesion)
    (last : ∀ z ∈ after, z.source ≠ .adhesion) : IsNewestLowest x before after := by
  have above (source : SandSource) : 1 ≤ sandPriority source ∧ (source ≠ .adhesion → 1 < sandPriority source) := by
    cases source <;> decide
  rw [IsNewestLowest, adhesion]
  exact ⟨fun z _ => (above z.source).1, fun z hz => (above z.source).2 (last z hz)⟩

/-- Settles O53: the refusals in their order; in ACTIVE the ways of `placement`, each with its equation of
`joinSand`. -/
theorem sandRequest : Obligations.SandRequest := by
  unfold Obligations.SandRequest
  intro tag side shots s h
  refine ⟨fun large => ?_, fun small range => ?_, fun small low high idle => ?_,
    fun e leading fresh names hfresh low high active => ?_⟩
  · exact sandRequest_answersOnly h (by rw [sandRequestResult, sandEnd_of_three_le large]) (by simp)
  · obtain ⟨e, leading, names⟩ := exists_namesEnd (s := s) small
    exact sandRequest_answersOnly h (by rw [sandRequestResult_of_names names, if_pos (by omega)]) (by simp)
  · obtain ⟨e, leading, names⟩ := exists_namesEnd (s := s) small
    exact sandRequest_answersOnly h (by
      rw [sandRequestResult_of_names names, if_neg (by omega), if_pos (by simp [State.isActive, idle])]) (by simp)
  · have r : Requests s side shots e leading := ⟨h, names, low, high, active⟩
    have code : BitVec.ofNat 8 shots.toNat = shots := by simp
    refine ⟨fun x found => ?_, fun none room => ?_, fun none full higher => ?_,
      fun before after y none full queue adhesion last => ?_⟩
    · have waits : s.snd.queue.any (SandEntry.isFor .manual e) = true :=
        List.any_eq_true.mpr ⟨x, List.mem_of_find?_eq_some found, List.find?_some found⟩
      obtain ⟨u, snd, clock, run, reply, frame⟩ := r.taken (tag := tag) (by rw [placement, found])
      refine ⟨_, run, reply, frame, fun busy => ?_⟩
      rw [joinSand_snd_of_match (by rwa [snd]) leading _ (by rwa [snd]), mergedQueue_congr snd clock, snd]
      rfl
    · have absent := any_isFor_of_find?_eq_none none
      obtain ⟨u, snd, clock, run, reply, frame⟩ :=
        r.taken (tag := tag) (placement_manual_of_room absent shots.toNat room)
      rw [code] at reply
      refine ⟨_, run, reply, frame, fun busy => ?_⟩
      rw [joinSand_snd_of_room (by rwa [snd]) (by rwa [snd]) leading _ (by rwa [snd]), newEntry_congr snd clock, snd,
        hfresh]
      rfl
    · have absent := any_isFor_of_find?_eq_none none
      have lowest : 2 ≤ lowestPriority s.snd.queue := le_lowestPriority (by rintro e; simp [e] at full) higher
      exact sandRequest_answersOnly h (by rw [r.result, placement_of_dropped absent _ full lowest]; rfl) (by simp)
    · have absent := any_isFor_of_find?_eq_none none
      have newest := isNewestLowest_of_adhesion (before := before) adhesion last
      have lower : sandPriority y.source < sandPriority .manual := by rw [adhesion]; decide
      obtain ⟨u, snd, clock, run, reply, -⟩ := r.taken (tag := tag)
        (placement_manual_of_lower absent shots.toNat (by rw [queue, newest.lowestPriority]; exact lower))
      rw [code] at reply
      obtain ⟨sent, left⟩ := joinSand_evicts leading shots.toNat (by rwa [snd]) (by rwa [snd]) newest
        (snd ▸ queue) lower
      rw [snd, State.nowMs, clock, adhesion] at sent
      rw [snd, newEntry_congr snd clock] at left
      exact ⟨_, run, reply, sent, hfresh ▸ left⟩

end Sys2Proof.Machine
end

section
/-! SUPPORT. SAND FILL (R151, R154): the checks in their order, the close of an open shot, and the level with its
SAND_EMPTY record. -/

namespace Sys2Proof.Machine

/-! The judgement after a fill (R146, R151) -/

theorem judgeEnd_sfc (e : Side) (s : State) : (judgeEnd e s).sfc = s.sfc := by
  rw [judgeEnd_onlySand e s]

theorem judgeEnd_level (e : Side) (s : State) : (judgeEnd e s).snd.level = s.snd.level := by
  unfold judgeEnd
  split
  · rfl
  · rw [grant_snd]

theorem judgeEnd_of_idle {e : Side} {s : State} (idle : s.sfc.opState ≠ .active) : judgeEnd e s = s := by
  rw [judgeEnd, grantee, if_neg fun judges => idle ((isActive_iff s).mp judges.1)]

/-! The close of an open shot (R151, R154) -/

section

variable {e : Side} {s : State}

theorem closeForFill_of_pouring {shot : Shot} (opened : s.snd.valve.get e = .pouring shot) : closeForFill e s
    = sendReport (.sand (.closed .fill (elapsed s.nowMs shot.since) 0) e shot.source shot.arrival
      (shotsLeft s e shot) (s.snd.level.get e) s.nowMs) (s.setValve e (.recovery (s.clock + 300000))) := by
  rw [closeForFill, opened]

theorem closeForFill_of_not_pouring (shut : ∀ shot, s.snd.valve.get e ≠ .pouring shot) : closeForFill e s = s := by
  unfold closeForFill
  split
  · next shot opened => exact absurd opened (shut shot)
  · rfl
  · rfl

theorem closeForFill_onlySand (e : Side) (s : State) : OnlySand s (closeForFill e s) := by
  unfold closeForFill
  split
  · exact OnlySand.trans (t := s.setValve e (.recovery (s.clock + 300000))) rfl (sendReport_onlySand _ _)
  · rfl
  · rfl

theorem closeForFill_level (e : Side) (s : State) : (closeForFill e s).snd.level = s.snd.level := by
  unfold closeForFill
  split
  · rw [sendReport_snd]; rfl
  · rfl
  · rfl

end

/-! The level and its record (R151) -/

/-- R151: the state in which the arbiter judges after a fill. -/
def filled (e : Side) (level : Nat) (s : State) : State :=
  let t := (closeForFill e s).setLevel e level
  if 0 < level ∧ (t.fault (.sandEmpty e)).active then endFault (.sandEmpty e) t else t

theorem fillSand_eq (e : Side) (level : Nat) (s : State) : fillSand e level s = judgeEnd e (filled e level s) := rfl

section

variable (e : Side) (level : Nat) (s : State)

/-- R186: the end of a record that is not active leaves it as it is. -/
theorem ended_of_not_active {r : FaultRec} (idle : ¬ r.active = true) : { r with active := false } = r := by
  rw [← Bool.eq_false_of_not_eq_true idle]

/-- R151: the SAND_EMPTY record of the end after a fill. -/
abbrev filledRecord : FaultRec :=
  if 0 < level then { s.fault (.sandEmpty e) with active := false } else s.fault (.sandEmpty e)

theorem filled_eq : filled e level s
    = ((closeForFill e s).setLevel e level).setFault (.sandEmpty e) (filledRecord e level s) := by
  have record : ((closeForFill e s).setLevel e level).fault (.sandEmpty e) = s.fault (.sandEmpty e) := by
    rw [State.fault, State.setLevel_sfc, closeForFill_onlySand e s, State.fault]
  have same := State.setFault_fault_self ((closeForFill e s).setLevel e level) (.sandEmpty e)
  rw [record] at same
  unfold filled filledRecord endFault
  dsimp only
  rw [record]
  by_cases some : 0 < level
  · rw [if_pos some]
    split
    · rfl
    · next idle => rw [ended_of_not_active fun active => idle ⟨some, active⟩, same]
  · rw [if_neg some, if_neg fun c => some c.1, same]

theorem filled_snd : (filled e level s).snd = { (closeForFill e s).snd with level := s.snd.level.set e level } := by
  rw [filled_eq, State.setFault_snd, State.setLevel_snd, closeForFill_level]

theorem filled_rlq : (filled e level s).rlq = s.rlq := by
  rw [filled_eq, State.setFault_rlq, State.setLevel_rlq, closeForFill_onlySand e s]

theorem filled_sfc : (filled e level s).sfc
    = { s.sfc with faults := s.sfc.faults.set (.sandEmpty e) (filledRecord e level s) } := by
  rw [filled_eq, State.setFault_sfc, State.setLevel_sfc, closeForFill_onlySand e s]

end

/-! What a fill leaves (R151) -/

section

variable (e : Side) (level : Nat) (s : State)

theorem fillSand_level : (fillSand e level s).snd.level = s.snd.level.set e level := by
  rw [fillSand_eq, judgeEnd_level, filled_snd]

theorem fillSand_rlq : (fillSand e level s).rlq = s.rlq := by
  rw [fillSand_eq, judgeEnd_rlq, filled_rlq]

theorem fillSand_fault (id : FaultId) : (fillSand e level s).fault id
    = if id = .sandEmpty e then filledRecord e level s else s.fault id := by
  rw [State.fault, fillSand_eq, judgeEnd_sfc, filled_sfc]
  exact FaultTable.get_set _ _ _ _

/-- R151: outside ACTIVE, without an open shot, only the level changes. -/
theorem fillSand_snd_of_idle (idle : s.sfc.opState ≠ .active) (shut : ∀ shot, s.snd.valve.get e ≠ .pouring shot) :
    (fillSand e level s).snd = { s.snd with level := s.snd.level.set e level } := by
  rw [fillSand_eq, judgeEnd_of_idle (by rwa [filled_sfc]), filled_snd, closeForFill_of_not_pouring shut]

variable {e s} {shot : Shot} (opened : s.snd.valve.get e = .pouring shot)
include opened

/-- R151: the open shot is closed into RECOVERY, so that nothing is granted. -/
theorem fillSand_of_pouring : fillSand e level s = filled e level s := by
  rw [fillSand_eq, judgeEnd_of_busy]
  rw [filled_snd, closeForFill_of_pouring opened, sendReport_snd, State.setValve_snd, PerSide.get_set_self]
  exact nofun

theorem fillSand_snd_of_pouring : (fillSand e level s).snd = { s.snd with
    valve := s.snd.valve.set e (.recovery (s.clock + 300000)), level := s.snd.level.set e level } := by
  rw [fillSand_of_pouring level opened, filled_snd, closeForFill_of_pouring opened, sendReport_snd, State.setValve_snd]

theorem fillSand_reported : reported (.sand (.closed .fill (elapsed s.nowMs shot.since) 0) e shot.source shot.arrival
    (shotsLeft s e shot) (s.snd.level.get e) s.nowMs) (fillSand e level s) := by
  have sent : reported _ (closeForFill e s) := closeForFill_of_pouring opened ▸ sendReport_reported_self _ _
  rw [fillSand_of_pouring level opened, filled_eq]
  exact sent

end

/-! The request (R151) -/

section

variable {tag side : Byte} {level : BitVec 16} {s : State}

theorem exec_sandFill (h : accepts s) :
    exec (.sandFill tag side level) s = .next (takeSandFill tag side level s) :=
  congrArg Host.Outcome.next (asRequest_of_accepts (takeSandFill tag side level) h)

theorem sideOfCode?_of_out_of_range (out : side.toNat = 0 ∨ 3 ≤ side.toNat) : sideOfCode? side.toNat = none := by
  rcases out with zero | large
  · rw [zero]; rfl
  · exact sideOfCode?_of_three_le large

theorem sideOfCode?_of_names {e : Side} (names : (side = 1 ∧ e = .one) ∨ (side = 2 ∧ e = .two)) :
    sideOfCode? side.toNat = some e := by
  rcases names with ⟨rfl, rfl⟩ | ⟨rfl, rfl⟩ <;> rfl

/-- A fill that is not answered OK changes nothing else. -/
theorem sandFill_answersOnly (h : accepts s) {r : Result} (hr : sandFillResult side level = r)
    (refused : ∀ body, r ≠ .ok body) : answersOnly (.sandFill tag side level) .sandFill tag r s := by
  subst hr
  unfold answersOnly
  rw [exec_sandFill h]
  unfold takeSandFill
  dsimp only
  split
  · next ok => exact absurd ok (refused _)
  · rfl

theorem exec_sandFill_of_ok (h : accepts s) {e : Side} (hside : sideOfCode? side.toNat = some e)
    (low : level.toNat ≤ 60000) : exec (.sandFill tag side level) s
      = .next (fillSand e level.toNat (answer .sandFill tag (.ok []) s)) := by
  have result : sandFillResult side level = .ok [] := by
    rw [sandFillResult, hside]
    exact if_neg (Nat.not_lt.mpr low)
  rw [exec_sandFill h, takeSandFill, result, hside]

end

/-- Settles O54: the refusals in their order; a fill that is taken is `fillSand` on the answered state. -/
theorem sandFill : Obligations.SandFill := by
  unfold Obligations.SandFill
  intro tag side level s h
  refine ⟨fun out => ?_, fun e names => ?_⟩
  · exact sandFill_answersOnly h (by rw [sandFillResult, sideOfCode?_of_out_of_range out]) (by simp)
  have hside := sideOfCode?_of_names names
  refine ⟨fun high => ?_, fun low => ?_⟩
  · exact sandFill_answersOnly h (by rw [sandFillResult, hside]; exact if_pos high) (by simp)
  have run := exec_sandFill_of_ok (tag := tag) h hside low
  have reply := answer_replied .sandFill tag (.ok []) s
  have answered : (answer .sandFill tag (.ok []) s).core = s.core := answer_core _ _ _ s
  have snd : (answer .sandFill tag (.ok []) s).snd = s.snd := answer_snd _ _ _ _
  have rlq : (answer .sandFill tag (.ok []) s).rlq = s.rlq := answer_rlq _ _ _ _
  have fault : (answer .sandFill tag (.ok []) s).fault = s.fault := by
    unfold State.fault
    rw [answer_sfc]
  generalize answer .sandFill tag (.ok []) s = u at *
  have clock : u.clock = s.clock := clock_of_core answered
  have core := (fillSand_core e level.toNat u).trans answered
  refine ⟨_, run, fillSand_keeps (stable_replied _ _ _) _ _ reply, ?_, ?_, fun id other => ?_,
    fun shot opened => ?_, fun idle shut => ?_, wsc_of_core core, ref_of_core core, adh_of_core core, ?_,
    hhu_of_core core, opState_of_core core, cfg_of_core core⟩
  · rw [fillSand_level, snd]
  · rw [fillSand_fault, if_pos rfl, filledRecord, fault]
  · rw [fillSand_fault, if_neg other, fault]
  · rw [← snd] at opened
    have left := fillSand_snd_of_pouring level.toNat opened
    have sent := fillSand_reported level.toNat opened
    rw [snd, clock] at left
    rw [elapsed, shotsLeft, State.nowMs, clock, snd] at sent
    exact ⟨by rw [left], by rw [left], sent⟩
  · rw [fillSand_level, fillSand_snd_of_idle e level.toNat u (by rwa [(opState_of_core answered :)])
      (by rwa [snd]), snd]
  · rw [fillSand_rlq, rlq]

end Sys2Proof.Machine
end

section
/-! SUPPORT. The sand timers (R142, R143, R145 to R149): the expiries of the shot, recovery, age and emergency repeat
timers, and the settlement. -/

namespace Sys2Proof

@[simp] theorem PerSide.set_set {α : Type} (p : PerSide α) (x : Side) (v w : α) :
    (p.set x v).set x w = p.set x w := by
  cases x <;> rfl

end Sys2Proof

namespace Sys2Proof.Machine

/-! The frame of a close (R148, R149) -/

/-- The close of a shot changes SND, the fault table and the link alone. -/
abbrev CloseFrame (s t : State) : Prop := t = { s with
  snd := t.snd, lnk := t.lnk, sfc := { s.sfc with faults := t.sfc.faults } }

theorem CloseFrame.trans {s t u : State} (a : CloseFrame s t) (b : CloseFrame t u) : CloseFrame s u := by
  unfold CloseFrame at *
  rw [b, a]

theorem sendReport_closeFrame (r : Report) (s : State) : CloseFrame s (sendReport r s) := by
  unfold CloseFrame
  rw [sendReport_eq]

/-! The shot timer (R148, R149) -/

section

variable {e : Side} {shot : Shot} {s : State}

theorem exec_shotTimerExpiry (opened : s.snd.valve.get e = .pouring shot) (due : shot.due ≤ s.clock) :
    exec (.shotTimerExpiry e) s = .next (closeShot .ended e s) := by
  have runs : whenDue (.shotTimerExpiry e) (closeShot .ended e) s = closeShot .ended e s :=
    if_pos ((expiryDue_shotTimer_iff s e).mpr ⟨shot, opened, due⟩)
  exact congrArg Host.Outcome.next runs

/-- R148, R149: the state a close leaves before SAND_EMPTY is judged. -/
def charged (cause : ShotCause) (e : Side) (shot : Shot) (s : State) : State :=
  sendReport (.sand (.closed cause (elapsed s.nowMs shot.since) (chargeOf s shot)) e shot.source shot.arrival
      (shotsLeft s e shot) (s.snd.level.get e - chargeOf s shot) s.nowMs)
    ((s.setLevel e (s.snd.level.get e - chargeOf s shot)).setValve e (.recovery (s.clock + 300000)))

theorem closeShot_of_pouring (cause : ShotCause) (opened : s.snd.valve.get e = .pouring shot) :
    closeShot cause e s = raiseIfEmpty e (charged cause e shot s) := by
  rw [closeShot, opened]
  rfl

variable (e shot s) (cause : ShotCause)

theorem charged_snd : (charged cause e shot s).snd = { s.snd with
    level := s.snd.level.set e (s.snd.level.get e - chargeOf s shot)
    valve := s.snd.valve.set e (.recovery (s.clock + 300000)) } := by
  rw [charged, sendReport_snd]
  rfl

theorem charged_level : (charged cause e shot s).snd.level.get e = s.snd.level.get e - chargeOf s shot := by
  rw [charged_snd, PerSide.get_set_self]

theorem charged_sfc : (charged cause e shot s).sfc = s.sfc := by
  rw [charged, sendReport_sfc]
  rfl

theorem charged_frame : CloseFrame s (charged cause e shot s) :=
  CloseFrame.trans (t := (s.setLevel e (s.snd.level.get e - chargeOf s shot)).setValve e (.recovery (s.clock + 300000)))
    rfl (sendReport_closeFrame _ _)

end

/-! SAND_EMPTY (R149, R185) -/

section

variable (e : Side) (s : State)

theorem raiseIfEmpty_snd : (raiseIfEmpty e s).snd = s.snd := by
  unfold raiseIfEmpty
  split
  · exact raiseFault_snd _ _
  · rfl

theorem raiseIfEmpty_frame : CloseFrame s (raiseIfEmpty e s) := by
  unfold raiseIfEmpty
  split
  · obtain ⟨r, -, raised⟩ := raiseFault_eq (.sandEmpty e) s
    unfold CloseFrame
    rw [raised]
    rfl
  · rfl

theorem raiseIfEmpty_fault_ne {id : FaultId} (other : id ≠ .sandEmpty e) :
    (raiseIfEmpty e s).fault id = s.fault id := by
  unfold raiseIfEmpty
  split
  · obtain ⟨r, -, raised⟩ := raiseFault_eq (.sandEmpty e) s
    rw [raised]
    exact (s.setFault_fault _ _ _).trans (if_neg other)
  · rfl

variable {e s}

theorem raiseIfEmpty_active (empty : s.snd.level.get e = 0) :
    ((raiseIfEmpty e s).fault (.sandEmpty e)).active = true := by
  rw [raiseIfEmpty, if_pos empty, raiseFault_fault_self]
  split
  · assumption
  · rfl

theorem raiseIfEmpty_of_left (left : s.snd.level.get e ≠ 0) : raiseIfEmpty e s = s := if_neg left

end

/-! A grant (R146, R147) -/

section

variable {e : Side} {x : SandEntry} {s : State}

/-- R147: the open shot of a grant, at the end of the entry. -/
theorem shotOf_of_side (side : x.side = e) : shotOf s x =
    let allowed := min s.sfc.cfg.sand.shot (s.snd.level.get e * 1000 / s.sfc.cfg.sand.flow.get e)
    { source := x.source, arrival := x.arrival, length := s.sfc.cfg.sand.shot, flow := s.sfc.cfg.sand.flow.get e
      since := s.nowMs, allowed := allowed, due := s.clock + allowed * 1000 } := by
  subst side
  rfl

/-- R147: what the arbiter's grant leaves of SND, and its report. -/
theorem judgeEnd_granted (granted : grantee s e = some x) :
    (judgeEnd e s).snd = { s.snd with
        queue := takeShot x s.snd.queue, valve := s.snd.valve.set e (.pouring (shotOf s x))
        sanded := s.vehicle.sLen * 1000 }
      ∧ reported (.sand (.shot (min s.sfc.cfg.sand.shot (s.snd.level.get e * 1000 / s.sfc.cfg.sand.flow.get e))
          (s.sfc.cfg.sand.flow.get e)) e x.source x.arrival (x.shots - 1) (s.snd.level.get e) s.nowMs)
        (judgeEnd e s) := by
  have sent := grant_reported x s
  rw [judgeEnd_of_grantee granted, grant_snd]
  rw [grantee_side granted] at sent ⊢
  exact ⟨rfl, sent⟩

theorem judgeEnd_frame (e : Side) (s : State) : SandFrame s (judgeEnd e s) :=
  sandFrame_of_onlySand (judgeEnd_onlySand e s) (judgeEnd_core e s)

end

/-! The recovery and age timers (R143, R148) -/

theorem exec_recoveryTimerExpiry {e : Side} {due : Nat} {s : State} (closes : s.snd.valve.get e = .recovery due)
    (come : due ≤ s.clock) :
    exec (.recoveryTimerExpiry e) s = .next (judgeEnd e (s.setValve e .closed)) := by
  have runs : whenDue (.recoveryTimerExpiry e) (recoveryEnd e) s = recoveryEnd e s :=
    if_pos ((expiryDue_recoveryTimer_iff s e).mpr ⟨due, closes, come⟩)
  exact congrArg Host.Outcome.next runs

theorem exec_ageTimerExpiry {source : SandSource} {e : Side} {x : SandEntry} {s : State}
    (waits : s.snd.queue.find? (SandEntry.isFor source e) = some x) (due : s.expired x.age = true) :
    exec (.ageTimerExpiry source e) s = .next (dropEntries (SandEntry.isFor source e) s) := by
  have runs : whenDue (.ageTimerExpiry source e) (ageOut source e) s = ageOut source e s :=
    if_pos ((expiryDue_ageTimer_iff s e source).mpr ⟨x, waits, (expired_iff s _).mp due⟩)
  exact congrArg Host.Outcome.next runs

theorem dropEntries_isFor (source : SandSource) (e : Side) (s : State) : dropEntries (SandEntry.isFor source e) s
    = { s with snd := { s.snd with
      queue := s.snd.queue.filter fun y => decide (¬ (y.source = source ∧ y.side = e)) } } := by
  have same : (fun y => !SandEntry.isFor source e y) = fun y => decide (¬ (y.source = source ∧ y.side = e)) := by
    funext y
    simp [SandEntry.isFor]
  rw [dropEntries, same]
  rfl

/-! The emergency repeat timer (R142) -/

theorem exec_emergencyRepeat {s : State} (due : s.expired s.snd.repeatTimer = true) :
    exec .emergencyRepeatTimerExpiry s = .next (emergencySand s) := by
  have runs : whenDue .emergencyRepeatTimerExpiry emergencySand s = emergencySand s := if_pos due
  exact congrArg Host.Outcome.next runs

/-- R142: the state in which the request of the repeat is taken. -/
abbrev repeated (s : State) : State := { s with snd := { s.snd with repeatTimer := s.timer 10000 } }

theorem emergencySand_of_idle {s : State} (idle : s.sfc.opState ≠ .active) : emergencySand s = repeated s := by
  rw [emergencySand, requestLeading, requestLeadingAll]
  exact if_neg fun active => idle ((isActive_iff s).mp active)

theorem emergencySand_of_active {s : State} (active : s.sfc.opState = .active) :
    emergencySand s = joinSand .emergency s.travel.leading true 10 (repeated s) := by
  rw [emergencySand, requestLeading, requestLeadingAll]
  exact if_pos ((isActive_iff s).mpr active)

theorem emergencySand_frame (s : State) : SandFrame s (emergencySand s) :=
  sandFrame_of_onlySand (emergencySand_onlySand s) (emergencySand_core s)

section

variable {s : State} (active : s.sfc.opState = .active)
include active

/-- R139, R142: a repeat that finds an EMERGENCY entry holds it at 10 shots. -/
theorem emergencySand_queue_of_match
    (waits : s.snd.queue.any (SandEntry.isFor .emergency s.travel.leading) = true)
    (busy : s.snd.valve.get s.travel.leading ≠ .closed) :
    (emergencySand s).snd.queue = s.snd.queue.map fun y =>
      if y.source = .emergency ∧ y.side = s.travel.leading then { y with shots := 10, age := none } else y := by
  rw [emergencySand_of_active active,
    joinSand_snd_of_match (s := repeated s) (by exact busy) true 10 (by exact waits)]
  refine List.map_congr_left fun y _ => ?_
  split
  · rw [Bool.and_true, Nat.min_eq_left (Nat.le_add_left _ _)]
    rfl
  · rfl

variable (absent : s.snd.queue.any (SandEntry.isFor .emergency s.travel.leading) = false)
include absent

/-- R139, R142: without one an entry joins a queue with room. -/
theorem emergencySand_snd_of_room (room : s.snd.queue.length < 8)
    (busy : s.snd.valve.get s.travel.leading ≠ .closed) : (emergencySand s).snd = { s.snd with
      queue := s.snd.queue ++ [newEntry .emergency s.travel.leading true 10 s], arrivals := s.snd.arrivals + 1
      repeatTimer := s.timer 10000 } := by
  rw [emergencySand_of_active active]
  exact joinSand_snd_of_room (s := repeated s) (by exact busy) (by exact absent) true 10 (by exact room)

/-- R140, R142: with a full queue and no entry of lower priority the request is dropped. -/
theorem emergencySand_of_dropped (full : 8 ≤ s.snd.queue.length)
    (higher : ∀ y ∈ s.snd.queue, 3 ≤ sandPriority y.source) :
    emergencySand s = sendReport (.sand .dropped s.travel.leading .emergency 0 10
      (s.snd.level.get s.travel.leading) s.nowMs) (repeated s) := by
  have lowest : 3 ≤ lowestPriority s.snd.queue := le_lowestPriority (by rintro e; simp [e] at full) higher
  rw [emergencySand_of_active active]
  exact joinSand_of_dropped (s := repeated s) (by exact absent) true 10 (by exact full) (by exact lowest) (by simp)

/-- R140, R142: with a full queue the newest of its entries of lowest priority, if below EMERGENCY's, is evicted. -/
theorem emergencySand_evicts (full : 8 ≤ s.snd.queue.length) {before after : List SandEntry} {x : SandEntry}
    (newest : IsNewestLowest x before after) (queue : s.snd.queue = before ++ x :: after)
    (lower : sandPriority x.source < 3) :
    reported (.sand .evicted x.side x.source x.arrival x.shots (s.snd.level.get x.side) s.nowMs) (emergencySand s)
      ∧ (s.snd.valve.get s.travel.leading ≠ .closed → (emergencySand s).snd = { s.snd with
          queue := before ++ after ++ [newEntry .emergency s.travel.leading true 10 s]
          arrivals := s.snd.arrivals + 1, repeatTimer := s.timer 10000 }) := by
  rw [emergencySand_of_active active]
  exact joinSand_evicts (source := .emergency) (s := repeated s) true 10 (by exact absent) (by exact full) newest
    (by exact queue) lower

end

/-- Settles O55: what an arbiter grants, and each expiry by the equation of its command. -/
theorem sandTimers : Obligations.SandTimers := by
  unfold Obligations.SandTimers
  refine ⟨fun e x s granted => ?_, fun e s active closed none y hy side =>
      not_permitted_of_grantee_eq_none active closed none hy side,
    fun e shot charge s opened due hcharge => ?_, fun e due s u closes come hu => ?_,
    fun source e x s waits due => by rw [exec_ageTimerExpiry waits due, dropEntries_isFor],
    fun s due => ⟨fun idle => by rw [exec_emergencyRepeat due, emergencySand_of_idle idle]; rfl,
      fun active => ?_⟩⟩
  · obtain ⟨active, closed⟩ := judges_of_grantee_eq_some granted
    obtain ⟨allowed, side, place⟩ := grantee_eq_some granted
    exact ⟨active, closed, allowed, side, place⟩
  · obtain rfl : charge = chargeOf s shot := hcharge
    have level := charged_level e shot s .ended
    refine ⟨_, exec_shotTimerExpiry opened due, ?_⟩
    rw [closeShot_of_pouring .ended opened]
    refine ⟨by rw [raiseIfEmpty_snd, charged_snd], ?_, fun all => raiseIfEmpty_active (by rw [level]; omega),
      fun some => ?_, fun id other => ?_,
      (charged_frame e shot s .ended).trans (raiseIfEmpty_frame e _)⟩
    · exact raiseIfEmpty_keeps (stable_reported _) e (sendReport_reported_self _ _)
    · rw [raiseIfEmpty_of_left (by rw [level]; omega), charged_sfc]
    · rw [raiseIfEmpty_fault_ne _ _ other, State.fault, charged_sfc, State.fault]
  · obtain rfl : u = s.setValve e .closed := hu
    rw [exec_recoveryTimerExpiry closes come]
    refine ⟨fun none => by rw [judgeEnd, none], ?_⟩
    rintro x _ granted rfl
    obtain ⟨snd, sent⟩ := judgeEnd_granted granted
    refine ⟨_, rfl, ?_, sent, judgeEnd_frame e (s.setValve e .closed)⟩
    rw [snd, shotOf_of_side (grantee_side granted), State.setValve_snd]
    simp only [PerSide.set_set]
    rfl
  · refine ⟨_, exec_emergencyRepeat due, emergencySand_repeatTimer s, emergencySand_frame s,
      emergencySand_queue_of_match active, fun absent fresh hfresh => ?_⟩
    obtain rfl : fresh = newEntry .emergency s.travel.leading true 10 s := hfresh
    refine ⟨emergencySand_snd_of_room active absent, fun full higher => ?_,
      fun before after y full queue lower older newer =>
        emergencySand_evicts active absent full ⟨older, newer⟩ queue lower⟩
    rw [emergencySand_of_dropped active absent full higher]
    exact ⟨sendReport_snd _ _, sendReport_reported_self _ _⟩

end Sys2Proof.Machine
end

section
/-! SUPPORT. A dump valve opens and closes (R168, R171 to R173): what STU's work leaves alone, the record and the report
of an end, the output behind a closed valve, and the expiry of the dump limit. -/

namespace Sys2Proof.Machine

/-! The frame -/

/-- STU's work changes STU, the allocation, AFE's output conditions and the link alone. -/
abbrev TripFrame (s t : State) : Prop := t = { s with
  stu := t.stu, bld := t.bld, afe := { s.afe with sup := t.afe.sup }, lnk := t.lnk }

theorem TripFrame.trans {s t u : State} (a : TripFrame s t) (b : TripFrame t u) : TripFrame s u := by
  unfold TripFrame at *
  rw [b, a]

theorem TripFrame.nowMs {s t : State} (h : TripFrame s t) : t.nowMs = s.nowMs := by rw [h]; rfl

theorem TripFrame.ref {s t : State} (h : TripFrame s t) : t.ref = s.ref := by rw [h]

theorem sendReport_tripFrame (r : Report) (s : State) : TripFrame s (sendReport r s) := by
  unfold TripFrame
  rw [sendReport_eq]

theorem rerunWith_tripFrame (causes : PerBogie AimCause) (s : State) : TripFrame s (rerunWith causes s) := by
  have afe : (rerunWith causes s).afe = { s.afe with sup := (rerunWith causes s).afe.sup } := by
    show (rerunWith causes s).afe = ⟨s.afe.chan, (rerunWith causes s).afe.sup⟩
    rw [← chan_of_core (rerunWith_core causes s)]
  have only := rerunWith_onlyBlend causes s
  unfold OnlyBlend at only
  rw [only] at afe
  unfold TripFrame
  rw [only, afe]

theorem tripReport_tripFrame (x : Bogie) (axle : Axle) (action : TripAction) (slip accel : Int) (openTime : Time)
    (s : State) : TripFrame s (tripReport x axle action slip accel openTime s) := sendReport_tripFrame _ s

theorem tripReport_eq (x : Bogie) (axle : Axle) (action : TripAction) (slip accel : Int) (openTime : Time) (s : State) :
    tripReport x axle action slip accel openTime s
      = { s with lnk := (tripReport x axle action slip accel openTime s).lnk } := sendReport_eq _ s

/-! Reports (R173) -/

theorem tripReport_of_counts (x : Bogie) (axle : Axle) {action : TripAction} (slip accel : Int) (openTime : Time)
    (s : State) (counts : action ≠ .none ∧ action ≠ .suppressed) :
    tripReport x axle action slip accel openTime s = sendReport (.trip x axle action slip accel s.ref.speed
      (s.stu.bogie.get x).exhausted openTime s.nowMs) s := by
  cases action with
  | none => exact absurd rfl counts.1
  | suppressed => exact absurd rfl counts.2
  | dump => rfl
  | closed => rfl
  | disabled => rfl

/-! The end of an episode (R171, R172) -/

theorem closed_of_limit (r : BogieStu) : r.closed .limit = { r with
    episode := none, limitTimer := none, exhausted := min 3 (r.exhausted + 1)
    disabled := r.disabled || decide (3 ≤ min 3 (r.exhausted + 1)) } := by
  simp [BogieStu.closed]

theorem closed_of_ne_limit (r : BogieStu) {cause : CloseCause} (other : cause ≠ .limit) :
    r.closed cause = { r with episode := none, limitTimer := none } := by
  simp [BogieStu.closed, other]

section

variable {s : State} {x : Bogie} {ep : Episode} {cause : CloseCause}

theorem closeDump_tripFrame (cause : CloseCause) (slip accel : Int) (floors : PerBogie AimCause) (x : Bogie)
    (s : State) : TripFrame s (closeDump cause slip accel floors x s) := by
  cases e : (s.stu.bogie.get x).episode with
  | none => rw [closeDump_of_shut slip accel floors e]
  | some ep =>
    rw [closeDump_of_open slip accel floors e]
    have closed : TripFrame s (zeroCounters x (s.setStu x ((s.stu.bogie.get x).closed cause))) := rfl
    exact (closed.trans (rerunWith_tripFrame _ _)).trans (tripReport_tripFrame ..)

/-- R173: the report of an end, with the exhaustion count after it. -/
theorem closeDump_sent (slip accel : Int) (floors : PerBogie AimCause)
    (open_ : (s.stu.bogie.get x).episode = some ep) :
    reported (.trip x ep.axle (if cause = .limit ∧ 3 ≤ ((s.stu.bogie.get x).closed cause).exhausted then .disabled
        else .closed cause) slip accel s.ref.speed ((s.stu.bogie.get x).closed cause).exhausted (s.nowMs - ep.since)
      s.nowMs) (closeDump cause slip accel floors x s) := by
  have frame : TripFrame s (rerunWith (closingCause floors x)
      (zeroCounters x (s.setStu x ((s.stu.bogie.get x).closed cause)))) :=
    TripFrame.trans (t := zeroCounters x (s.setStu x ((s.stu.bogie.get x).closed cause))) rfl
      (rerunWith_tripFrame _ _)
  have count : ((rerunWith (closingCause floors x)
      (zeroCounters x (s.setStu x ((s.stu.bogie.get x).closed cause)))).stu.bogie.get x).exhausted
      = ((s.stu.bogie.get x).closed cause).exhausted := by
    rw [rerunWith_stu]
    exact congrArg BogieStu.exhausted (PerBogie.get_set_self _ x _)
  rw [closeDump_of_open slip accel floors open_,
    tripReport_of_counts _ _ _ _ _ _ (by split_ifs <;> exact ⟨nofun, nofun⟩), count, frame.ref, frame.nowMs]
  exact sendReport_reported_self _ _

/-- R172, R173: an end but by the limit keeps the exhaustion count, and its report carries it. -/
theorem closeDump_sent_of_ne_limit (other : cause ≠ .limit) (slip accel : Int) (floors : PerBogie AimCause)
    (open_ : (s.stu.bogie.get x).episode = some ep) :
    reported (.trip x ep.axle (.closed cause) slip accel s.ref.speed (s.stu.bogie.get x).exhausted
      (s.nowMs - ep.since) s.nowMs) (closeDump cause slip accel floors x s) := by
  have sent := closeDump_sent (cause := cause) slip accel floors open_
  rwa [if_neg fun c => other c.1, closed_of_ne_limit _ other] at sent

/-! The output behind a closed valve (R112 to R114, R172) -/

theorem rerunWith_out (causes : PerBogie AimCause) (active : s.sfc.opState = .active) (x : Bogie) :
    (rerunWith causes s).bld.out.get x
      = (aimOutput (causes.get x) x (target (rerunWith causes s) x) s).bld.out.get x := by
  obtain ⟨-, -, -, aims, -⟩ := pressureOutputs
  exact (aims causes s _ rfl active x).1

/-- R114, R172: an output that stood at 0 ramps up from it when the valve closes but by a catch floor. -/
theorem closeDump_ramps (slip accel : Int) (open_ : (s.stu.bogie.get x).episode = some ep)
    (active : s.sfc.opState = .active) (empty : s.bld.out.get x = .steady 0)
    (above : target (closeDump cause slip accel allPlain x s) x ≠ 0) :
    (closeDump cause slip accel allPlain x s).bld.out.get x
      = .ramp 0 s.nowMs (target (closeDump cause slip accel allPlain x s) x) := by
  rw [closeDump_of_open slip accel allPlain open_, tripReport_eq] at above ⊢
  have valve : (closingCause allPlain x).get x = .valveClosed := by cases x <;> rfl
  have stands : (zeroCounters x (s.setStu x ((s.stu.bogie.get x).closed cause))).pressure x = 0 := by
    show (s.bld.out.get x).value _ _ = 0
    rw [empty]
    rfl
  dsimp only
  rw [rerunWith_out _ (by exact active), valve, aimOutput_of_present _ (by simp [zeroCounters, empty]),
    if_neg (fun c => nomatch c.1), if_neg (by simpa [zeroCounters, empty, Output.aim] using fun c => above c.symm),
    if_neg (not_or.mpr ⟨fun c => c.2.1 rfl, by rw [stands]; exact fun c => above c.symm⟩), stands]
  exact rampedOutput_out _

end

/-! The dump limit (R171) -/

theorem exec_dumpLimitTimerExpiry {x : Bogie} {ep : Episode} {s : State}
    (open_ : (s.stu.bogie.get x).episode = some ep) (due : s.expired (s.stu.bogie.get x).limitTimer = true) :
    exec (.dumpLimitTimerExpiry x) s = .next (closeDump .limit 0 0 allPlain x s) := by
  have runs : whenDue (.dumpLimitTimerExpiry x) (closeDump .limit 0 0 allPlain x) s
      = closeDump .limit 0 0 allPlain x s :=
    if_pos ((expiryDue_dumpLimitTimer_iff s x).mpr ⟨by simp [open_], (expired_iff s _).mp due⟩)
  exact congrArg Host.Outcome.next runs

/-- Settles O59: the expiry closes the episode with cause LIMIT, whose record, report and output have a lemma each. -/
theorem dumpLimit : Obligations.DumpLimit := by
  unfold Obligations.DumpLimit
  rintro x _ ep n s rfl open_ due hn
  have third : 3 ≤ n ↔ n = 3 := by omega
  have record : (s.stu.bogie.get x).closed .limit = { s.stu.bogie.get x with
      episode := none, limitTimer := none, exhausted := n
      disabled := (s.stu.bogie.get x).disabled || decide (n = 3) } := by
    rw [closed_of_limit, ← hn, decide_eq_decide.mpr third]
  refine ⟨_, exec_dumpLimitTimerExpiry open_ due, ?_, ?_, closeDump_ramps 0 0 open_, closeDump_tripFrame ..⟩
  · rw [closeDump_stu 0 0 allPlain open_, record]
  · have sent := closeDump_sent (cause := .limit) 0 0 allPlain open_
    rw [record] at sent
    simpa [third] using sent

end Sys2Proof.Machine
end

section
/-! SUPPORT. An axle sample arrives at the slide trip (R166 to R170): which samples count, the filter and its firing,
and the sample that ends an episode. -/

namespace Sys2Proof

/-- A value of one of a bogie's axles is gone when both are set. -/
theorem PerAxle.set_axles {α : Type} (p : PerAxle α) (x : Axle) (u v : α) :
    ((p.set x u).set x.bogie.axles.1 v).set x.bogie.axles.2 v = (p.set x.bogie.axles.1 v).set x.bogie.axles.2 v := by
  cases x <;> rfl

end Sys2Proof

namespace Sys2Proof.Machine

/-! Which samples count (R166, R167) -/

section

variable {x : Axle} {p : Sample} {s : State}

theorem brakeSlip_eq (s : State) (v : Int) : s.brakeSlip v = Int.tdiv
    ((s.ref.speed * s.travel.sign - v * s.travel.sign) * 1000) (max |s.ref.speed * s.travel.sign| 1000) := by
  rw [State.brakeSlip, truncate, Int.abs_eq_natAbs]

theorem braking_iff (m : Mode) : m.braking = true ↔ m = .brake ∨ m = .emergency := by
  cases m <;> simp [Mode.braking]

theorem takenForFilter_iff : takenForFilter x p s = true ↔ s.sfc.opState = .active
    ∧ (s.mode = .brake ∨ s.mode = .emergency) ∧ 1000 ≤ s.ref.speed.natAbs
    ∧ (s.stu.bogie.get x.bogie).disabled = false ∧ s.adhState x ≠ .isolated ∧ s.adhState x ≠ .fault
    ∧ p.flags.isolated = false ∧ p.flags.implausible = false := by
  unfold takenForFilter
  simp only [Bool.and_eq_true, Bool.not_eq_true', decide_eq_true_iff, isActive_iff, braking_iff, and_assoc,
    ← Bool.not_eq_true (s.unwatched x), unwatched_iff, not_or]

theorem isCandidate_iff : isCandidate x p s = true ↔
    ((s.sfc.cfg.trip.get x.bogie).source ≠ .slip
      ∧ p.a * s.travel.sign ≤ -((s.sfc.cfg.trip.get x.bogie).decel : Int))
    ∨ ((s.sfc.cfg.trip.get x.bogie).source ≠ .decel
      ∧ ((s.sfc.cfg.trip.get x.bogie).slip : Int) ≤ s.brakeSlip p.v) := by
  unfold isCandidate
  cases source : (s.sfc.cfg.trip.get x.bogie).source <;> simp [source]

/-- R166, R167: the sample is taken for the filter and is a trip candidate. -/
def countsAtFilter (x : Axle) (p : Sample) (s : State) : Bool := takenForFilter x p s && isCandidate x p s

/-! The filter (R168) -/

theorem filterArrival_of_not_counts (misses : ¬ countsAtFilter x p s = true) :
    filterArrival x p s = s.setCounter x 0 := if_neg misses

theorem filterArrival_of_full (counts : countsAtFilter x p s = true)
    (full : (s.sfc.cfg.trip.get x.bogie).filter ≤ s.stu.counter.get x) : filterArrival x p s = s :=
  (if_pos counts).trans (if_pos full)

theorem filterArrival_of_below (counts : countsAtFilter x p s = true)
    (below : s.stu.counter.get x + 1 < (s.sfc.cfg.trip.get x.bogie).filter) :
    filterArrival x p s = s.setCounter x (s.stu.counter.get x + 1) :=
  (if_pos counts).trans ((if_neg (by omega)).trans (if_neg (by omega)))

theorem filterArrival_fires (counts : countsAtFilter x p s = true)
    (last : s.stu.counter.get x + 1 = (s.sfc.cfg.trip.get x.bogie).filter) :
    filterArrival x p s = fireTrip x p (s.setCounter x (s.sfc.cfg.trip.get x.bogie).filter) := by
  rw [← last]
  exact (if_pos counts).trans ((if_neg (by omega)).trans (if_pos last))

/-! The firing (R168, R169) -/

theorem fireTrip_of_suppressed (floor : 0 < s.floor x.bogie)
    (suppressed : (s.stu.bogie.get x.bogie).suppressed = true) : fireTrip x p s = s :=
  (if_pos floor).trans (if_pos suppressed)

theorem fireTrip_suppresses (floor : 0 < s.floor x.bogie)
    (first : (s.stu.bogie.get x.bogie).suppressed = false) : fireTrip x p s = sendReport
      (.trip x.bogie x .suppressed (s.brakeSlip p.v) p.a s.ref.speed 0 0 s.nowMs)
      (s.setStu x.bogie { s.stu.bogie.get x.bogie with suppressed := true }) :=
  (if_pos floor).trans (if_neg (by simp [first]))

theorem fireTrip_reports (clear : s.floor x.bogie = 0)
    (only : (s.sfc.cfg.trip.get x.bogie).mode = .reportOnly) : fireTrip x p s = sendReport
      (.trip x.bogie x .none (s.brakeSlip p.v) p.a s.ref.speed 0 0 s.nowMs) s := by
  rw [fireTrip, if_neg (by omega), only]
  rfl

theorem fireTrip_dumps (clear : s.floor x.bogie = 0)
    (auto : (s.sfc.cfg.trip.get x.bogie).mode = .autoDump) : fireTrip x p s = openDump x p s := by
  rw [fireTrip, if_neg (by omega), auto]

/-! The dump (R168) -/

/-- R168, R171: the bogie's record with the episode that `x` opens, and its limit timer. -/
def dumpOpened (x : Axle) (s : State) : BogieStu := { s.stu.bogie.get x.bogie with
  episode := some ⟨x, s.nowMs⟩, limitTimer := some (s.clock + (s.sfc.cfg.trip.get x.bogie).limit * 1000) }

/-- R168: the dump has opened, and its report is still to be sent. -/
def dumped (x : Axle) (s : State) : State :=
  zeroCounters x.bogie (rerun (jumpOutput x.bogie 0 (s.setStu x.bogie (dumpOpened x s))))

theorem openDump_eq (x : Axle) (p : Sample) (s : State) :
    openDump x p s = tripReport x.bogie x .dump (s.brakeSlip p.v) p.a 0 (dumped x s) := rfl

theorem dumped_stu (x : Axle) (s : State) : (dumped x s).stu = {
    counter := (s.stu.counter.set x.bogie.axles.1 0).set x.bogie.axles.2 0
    bogie := s.stu.bogie.set x.bogie (dumpOpened x s) } := by
  rw [dumped, zeroCounters, State.setCounter_stu, State.setCounter_stu, rerun_stu]
  rfl

theorem dumped_tripFrame (x : Axle) (s : State) : TripFrame s (dumped x s) := by
  have rerun_frame := rerunWith_tripFrame allPlain (jumpOutput x.bogie 0 (s.setStu x.bogie (dumpOpened x s)))
  have zeroed : ∀ t : State, TripFrame t (zeroCounters x.bogie t) := fun _ => rfl
  exact TripFrame.trans (t := jumpOutput x.bogie 0 (s.setStu x.bogie (dumpOpened x s))) rfl
    (rerun_frame.trans (zeroed _))

/-- R112, R168: with the valve open the target is 0, at which the output stands already. -/
theorem dumped_out (active : s.sfc.opState = .active) : (dumped x s).bld.out.get x.bogie = .steady 0 := by
  have stands : (jumpOutput x.bogie 0 (s.setStu x.bogie (dumpOpened x s))).bld.out.get x.bogie = .steady 0 :=
    jumpOutput_out
  have closed : target (rerun (jumpOutput x.bogie 0 (s.setStu x.bogie (dumpOpened x s)))) x.bogie = 0 := by
    refine if_pos ?_
    rw [State.dumpOpen, rerun_stu]
    exact congrArg (fun r => r.episode.isSome) (PerBogie.get_set_self s.stu.bogie x.bogie (dumpOpened x s))
  have aim : ∀ y : Bogie, allPlain.get y = .plain := fun y => by cases y <;> rfl
  show (rerun _).bld.out.get x.bogie = _
  unfold rerun at closed ⊢
  rw [rerunWith_out allPlain (by exact active), closed, aim, aimOutput_of_present _ (by simp [stands]),
    if_neg (fun c => nomatch c.1), if_pos (by rw [stands]; rfl), stands]

theorem openDump_reported (x : Axle) (p : Sample) (s : State) :
    reported (.trip x.bogie x .dump (s.brakeSlip p.v) p.a s.ref.speed (s.stu.bogie.get x.bogie).exhausted 0 s.nowMs)
      (openDump x p s) := by
  have count : ((dumped x s).stu.bogie.get x.bogie).exhausted = (s.stu.bogie.get x.bogie).exhausted := by
    rw [dumped_stu]
    exact (congrArg BogieStu.exhausted (PerBogie.get_set_self s.stu.bogie x.bogie (dumpOpened x s)) :)
  rw [openDump_eq, tripReport_of_counts (action := .dump) _ _ _ _ _ _ ⟨nofun, nofun⟩, count,
    (dumped_tripFrame x s).ref, (dumped_tripFrame x s).nowMs]
  exact sendReport_reported_self _ _

/-! The sample that ends an episode (R170) -/

theorem episodeArrival_of_lost (lost : s.adhState x = .isolated ∨ s.adhState x = .fault ∨ p.flags.isolated = true) :
    episodeArrival x p s = closeDump .axleLost (s.brakeSlip p.v) p.a allPlain x.bogie s :=
  if_pos (by rw [unwatched_iff, or_assoc]; exact lost)

section

variable (kept : ¬ (s.adhState x = .isolated ∨ s.adhState x = .fault ∨ p.flags.isolated = true))
include kept

theorem episodeArrival_of_kept : episodeArrival x p s = if p.flags.implausible then s
    else if s.brakeSlip p.v < s.adhesion.creep then
      closeDump .recovered (s.brakeSlip p.v) p.a allPlain x.bogie s
    else s :=
  if_neg (by rw [unwatched_iff, or_assoc]; exact kept)

theorem episodeArrival_of_sliding
    (slides : p.flags.implausible = true ∨ (s.adhesion.creep : Int) ≤ s.brakeSlip p.v) :
    episodeArrival x p s = s := by
  rw [episodeArrival_of_kept kept]
  rcases slides with implausible | slides
  · exact if_pos implausible
  · rw [if_neg (not_lt.mpr slides), ite_self]

theorem episodeArrival_of_recovered (plausible : p.flags.implausible = false)
    (grips : s.brakeSlip p.v < s.adhesion.creep) :
    episodeArrival x p s = closeDump .recovered (s.brakeSlip p.v) p.a allPlain x.bogie s := by
  rw [episodeArrival_of_kept kept, if_neg (by simp [plausible]), if_pos grips]

end

/-! The arrival (R166) -/

theorem tripArrival_of_shut (shut : (s.stu.bogie.get x.bogie).episode = none) :
    tripArrival x p s = filterArrival x p s := by
  rw [tripArrival, shut]

theorem tripArrival_of_open {ep : Episode} (open_ : (s.stu.bogie.get x.bogie).episode = some ep) :
    tripArrival x p s = if ep.axle = x then episodeArrival x p s else s := by
  rw [tripArrival, open_]

theorem fireTrip_tripFrame (x : Axle) (p : Sample) (s : State) : TripFrame s (fireTrip x p s) := by
  unfold fireTrip suppressTrip
  split
  · dsimp only
    split
    · rfl
    · exact TripFrame.trans (t := s.setStu x.bogie { s.stu.bogie.get x.bogie with suppressed := true }) rfl
        (tripReport_tripFrame ..)
  · split
    · exact (dumped_tripFrame x s).trans (tripReport_tripFrame ..)
    · exact tripReport_tripFrame ..

theorem filterArrival_tripFrame (x : Axle) (p : Sample) (s : State) : TripFrame s (filterArrival x p s) := by
  unfold filterArrival
  dsimp only
  split_ifs
  · rfl
  · exact TripFrame.trans (t := s.setCounter x (s.stu.counter.get x + 1)) rfl (fireTrip_tripFrame ..)
  · rfl
  · rfl

theorem episodeArrival_tripFrame (x : Axle) (p : Sample) (s : State) : TripFrame s (episodeArrival x p s) := by
  unfold episodeArrival
  dsimp only
  split_ifs
  · exact closeDump_tripFrame ..
  · rfl
  · exact closeDump_tripFrame ..
  · rfl

theorem tripArrival_tripFrame (x : Axle) (p : Sample) (s : State) : TripFrame s (tripArrival x p s) := by
  unfold tripArrival
  split
  · exact filterArrival_tripFrame x p s
  · split
    · exact episodeArrival_tripFrame x p s
    · rfl

end

end Sys2Proof.Machine
end

section
/-! SUPPORT. The episodes that a risen floor or the end of an application closes (R165, R169, R172), and the settlement
of the slide trip. -/

namespace Sys2Proof.Machine

/-! Several episodes end (R172) -/

/-- R172: the record without its episode. -/
def BogieStu.ended (r : BogieStu) : BogieStu :=
  { r with episode := none, limitTimer := if r.episode = none then r.limitTimer else none }

theorem ended_of_shut {r : BogieStu} (shut : r.episode = none) : r.ended = r := by
  rw [BogieStu.ended, if_pos shut, ← shut]

theorem ended_of_open {r : BogieStu} {ep : Episode} (open_ : r.episode = some ep) :
    r.ended = { r with episode := none, limitTimer := none } := by
  rw [BogieStu.ended, if_neg (by simp [open_])]

/-- R172, R173: the bogie's episode has ended, with its report. -/
abbrev EndsWith (cause : CloseCause) (y : Bogie) (s t : State) : Prop :=
  t.stu.bogie.get y = (s.stu.bogie.get y).ended
  ∧ ∀ ep, (s.stu.bogie.get y).episode = some ep → reported (endReport cause y ep s) t

section

variable {cause : CloseCause} {floors : PerBogie AimCause} {which : List Bogie} {y : Bogie} {s : State}

/-- R172: the close of one bogie's episode leaves the record that another bogie's has. -/
theorem closeDumps_get_of_not_mem (other : y ∉ which) :
    (closeDumps cause floors which s).stu.bogie.get y = s.stu.bogie.get y := by
  refine inSomeOrder_keeps (P := fun t => t.stu.bogie.get y = s.stu.bogie.get y) (fun {t} same => ?_)
    (fun f hf t same => ?_) rfl
  · obtain ⟨n, hn⟩ := drawFrom_changes_free Config.freeOrder t
    rw [hn]
    exact same
  · obtain ⟨x, hx, rfl⟩ := List.mem_map.mp hf
    have named := (List.mem_filter.mp hx).1
    rwa [closeDump_get_ne _ _ _ fun e => other (by rwa [e])]

theorem closeDump_keeps_endsWith (x : Bogie) {t : State} (h : EndsWith cause y s t) :
    EndsWith cause y s (closeDump cause 0 0 floors x t) := by
  refine ⟨?_, fun ep open_ => closeDump_keeps (stable_reported _) _ _ _ _ _ (h.2 ep open_)⟩
  by_cases same : y = x
  · subst same
    rw [closeDump_of_shut 0 0 floors (by rw [h.1]; rfl), h.1]
  · rw [closeDump_get_ne 0 0 floors same, h.1]

/-- The close of a bogie's episode, or of none, in a state where the bogie's record stands as in `s`. -/
theorem closeDump_endsWith (counts : cause ≠ .limit) {t : State} (core : t.core = s.core)
    (waits : t.stu.bogie.get y = s.stu.bogie.get y) : EndsWith cause y s (closeDump cause 0 0 floors y t) := by
  cases e : (s.stu.bogie.get y).episode with
  | none =>
    rw [closeDump_of_shut 0 0 floors (by rw [waits, e])]
    exact ⟨waits.trans (ended_of_shut e).symm, by simp [e]⟩
  | some ep =>
    have open_ : (t.stu.bogie.get y).episode = some ep := by rw [waits, e]
    refine ⟨?_, fun ep' same => ?_⟩
    · rw [closeDump_stu 0 0 floors open_, PerBogie.get_set_self, waits, closed_of_ne_limit _ counts, ended_of_open e]
    · obtain rfl : ep = ep' := Option.some.inj (e.symm.trans same)
      have sent := closeDump_reported counts floors open_
      rwa [endReport, waits, State.nowMs, (ref_of_core core :), (clock_of_core core :)] at sent

/-- R172, R173: the close of several bogies' episodes, in any order, ends each of them with its report. -/
theorem closeDumps_endsWith (counts : cause ≠ .limit) (named : y ∈ which) :
    EndsWith cause y s (closeDumps cause floors which s) := by
  have ends : ∀ t : State, t.core = s.core ∧ (t.stu.bogie.get y = s.stu.bogie.get y ∨ EndsWith cause y s t) →
      EndsWith cause y s (closeDump cause 0 0 floors y t) := by
    rintro t ⟨core, waits | ended⟩
    · exact closeDump_endsWith counts core waits
    · exact closeDump_keeps_endsWith y ended
  have ground : ∀ (x : Bogie) (t : State), t.core = s.core
        ∧ (t.stu.bogie.get y = s.stu.bogie.get y ∨ EndsWith cause y s t) →
      (closeDump cause 0 0 floors x t).core = s.core
        ∧ ((closeDump cause 0 0 floors x t).stu.bogie.get y = s.stu.bogie.get y
          ∨ EndsWith cause y s (closeDump cause 0 0 floors x t)) := by
    refine fun x t h => ⟨(closeDump_core _ _ _ _ _ t).trans h.1, ?_⟩
    by_cases same : y = x
    · subst same
      exact .inr (ends t h)
    · rw [closeDump_get_ne 0 0 floors same]
      exact h.2.imp_right (closeDump_keeps_endsWith x)
  cases e : (s.stu.bogie.get y).episode with
  | none =>
    refine inSomeOrder_keeps (P := EndsWith cause y s) (fun {t} h => ?_) (fun f hf t h => ?_)
      ⟨(ended_of_shut e).symm, by simp [e]⟩
    · obtain ⟨n, hn⟩ := drawFrom_changes_free Config.freeOrder t
      rwa [hn]
    · obtain ⟨x, -, rfl⟩ := List.mem_map.mp hf
      exact closeDump_keeps_endsWith x h
  | some ep =>
    refine inSomeOrder_reaches
      (P := fun t => t.core = s.core ∧ (t.stu.bogie.get y = s.stu.bogie.get y ∨ EndsWith cause y s t))
      (fun {t} h => ?_) (fun f hf t h => ?_) (fun f hf t _ h => ?_)
      (List.mem_map.mpr ⟨y, List.mem_filter.mpr ⟨named, ?_⟩, rfl⟩) ends ⟨rfl, .inl rfl⟩
    · obtain ⟨n, hn⟩ := drawFrom_changes_free Config.freeOrder t
      rw [hn]
      exact h
    · obtain ⟨x, -, rfl⟩ := List.mem_map.mp hf
      exact ground x t h
    · obtain ⟨x, -, rfl⟩ := List.mem_map.mp hf
      exact closeDump_keeps_endsWith x h
    · rw [State.dumpOpen, e]
      rfl

end

/-! The end of an application (R165, R172) -/

theorem tripModeChange_endsWith {old new : Mode} {s : State} (active : s.isActive = true)
    (was : old.braking = true) (ends : new.braking = false) (y : Bogie) :
    (tripModeChange old new s).stu.bogie.get y = { s.stu.bogie.get y with
      episode := none
      limitTimer := if (s.stu.bogie.get y).episode = none then (s.stu.bogie.get y).limitTimer else none
      exhausted := 0, disabled := false, suppressed := false } := by
  have begun : (freshApplication s).stu.bogie.get y = { s.stu.bogie.get y with
      exhausted := 0, disabled := false, suppressed := false } := PerBogie.get_of _ y
  rw [tripModeChange_ends active was ends]
  refine (closeDumps_endsWith (cause := .mode) nofun (Bogie.mem_all y)).1.trans ?_
  rw [begun]
  rfl

/-- The two ways an arrival ends an episode: the axle is lost, or it grips again. -/
theorem episodeArrival_closes {x : Axle} {p : Sample} {s : State} {cause : CloseCause}
    (ends : ((s.adhState x = .isolated ∨ s.adhState x = .fault ∨ p.flags.isolated = true) ∧ cause = .axleLost)
      ∨ (¬ (s.adhState x = .isolated ∨ s.adhState x = .fault ∨ p.flags.isolated = true)
        ∧ p.flags.implausible = false ∧ s.brakeSlip p.v < s.adhesion.creep ∧ cause = .recovered)) :
    episodeArrival x p s = closeDump cause (s.brakeSlip p.v) p.a allPlain x.bogie s ∧ cause ≠ .limit := by
  rcases ends with ⟨lost, rfl⟩ | ⟨kept, plausible, grips, rfl⟩
  · exact ⟨episodeArrival_of_lost lost, nofun⟩
  · exact ⟨episodeArrival_of_recovered kept plausible grips, nofun⟩

/-! The settlement. The obligation has the name of the model's own `tripArrival`. -/

namespace SlideTrip

/-- Settles O58: one equation for each branch of an arrival, and the close of several episodes in any order. -/
theorem tripArrival : Obligations.TripArrival := by
  unfold Obligations.TripArrival
  refine ⟨?_, fun rose causes s t ht => ?_, fun old new s t ht active was ends => ?_⟩
  · rintro x p s t _ _ cfg dir σ counts ht rfl rfl hcfg hdir hσ hcounts
    obtain rfl : dir = s.travel.sign := hdir.trans (sign_eq s.travel).symm
    obtain rfl : σ = s.brakeSlip p.v := hσ.trans (brakeSlip_eq s p.v).symm
    subst hcfg
    have counted : counts ↔ countsAtFilter x p s = true := by
      rw [hcounts, countsAtFilter, Bool.and_eq_true, takenForFilter_iff, isCandidate_iff]
      simp only [and_assoc]
    refine ⟨by rw [← ht]; exact tripArrival_tripFrame x p s, fun shut => ?_, fun ep open_ => ?_⟩
    · rw [tripArrival_of_shut shut] at ht
      subst ht
      refine ⟨fun misses => filterArrival_of_not_counts fun c => misses (counted.mpr c),
        fun c => filterArrival_of_full (counted.mp c), fun c => filterArrival_of_below (counted.mp c),
        fun c last => ?_⟩
      rw [filterArrival_fires (counted.mp c) last]
      refine ⟨fun floor suppressed => fireTrip_of_suppressed floor suppressed, fun floor first => ?_,
        fun clear only => ?_, fun clear auto => ?_⟩
      · rw [fireTrip_suppresses (s := s.setCounter x _) floor first]
        exact ⟨sendReport_eq _ _, sendReport_reported_self _ _⟩
      · rw [fireTrip_reports (s := s.setCounter x _) clear only]
        exact ⟨sendReport_eq _ _, sendReport_reported_self _ _⟩
      · rw [fireTrip_dumps (s := s.setCounter x _) clear auto]
        refine ⟨?_, ?_, openDump_reported x p _⟩
        · rw [openDump_eq, tripReport_stu, dumped_stu, State.setCounter_stu, PerAxle.set_axles]
          rfl
        · rw [openDump_eq, tripReport_eq]
          exact dumped_out (takenForFilter_iff.mp (Bool.and_eq_true_iff.mp (counted.mp c)).1).1
    · rw [tripArrival_of_open open_] at ht
      refine ⟨fun other => by rw [← ht, if_neg other], fun own lost hlost => ?_⟩
      rw [if_pos own] at ht
      refine ⟨fun kept slides => by rw [← ht]; exact episodeArrival_of_sliding (by rwa [← hlost]) slides,
        fun cause ends => ?_⟩
      obtain ⟨closes, counts⟩ := episodeArrival_closes (by rwa [← hlost])
      have sent := closeDump_sent_of_ne_limit counts (s.brakeSlip p.v) p.a allPlain open_
      rw [← ht, closes, closeDump_stu _ _ _ open_, closed_of_ne_limit _ counts]
      exact ⟨rfl, by rwa [own] at sent⟩
  · subst ht
    refine ⟨fun y rises => closeDumps_endsWith (cause := .floor) nofun
        (List.mem_filter.mpr ⟨Bogie.mem_all y, rises⟩),
      fun y stays => closeDumps_get_of_not_mem fun h => ?_⟩
    simp [stays] at h
  · subst ht
    have braked : old.braking = true := (braking_iff old).mpr was
    have released : new.braking = false := by rcases ends with rfl | rfl <;> rfl
    have running := (isActive_iff s).mpr active
    refine ⟨(tripModeChange_fresh running (by rw [braked, released]; nofun)).1, ?_⟩
    rintro y _ rfl
    refine ⟨tripModeChange_endsWith running braked released y, fun ep open_ => ?_⟩
    exact ((tripModeChange_closes_all running braked released y).2 ep open_).2

end SlideTrip

end Sys2Proof.Machine
end

section
/-! SUPPORT. The PRESSURE record (R160, R181): its raise, the entry to FAILSAFE that a second record brings, and a
disagreement that stands through it (R161, R162). -/

namespace Sys2Proof.Machine

/-! The raise of a record (R185) -/

theorem raiseFault_fault_ne {id j : FaultId} (other : j ≠ id) (s : State) :
    (raiseFault id s).fault j = s.fault j := by
  obtain ⟨r, -, raised⟩ := raiseFault_eq id s
  rw [raised]
  exact (State.setFault_fault s id j r).trans (if_neg other)

/-! The frame -/

/-- What no record of AFE's, no reader of a reading and no timer of the supervision changes: the speed channels, REF,
the route, the sections and the analog channels. -/
structure FeedbackFrame (s t : State) : Prop where
  wsc : t.wsc = s.wsc
  ref : t.ref = s.ref
  rlq : t.rlq = s.rlq
  cfg : t.sfc.cfg = s.sfc.cfg
  chan : t.afe.chan = s.afe.chan

theorem FeedbackFrame.refl (s : State) : FeedbackFrame s s := ⟨rfl, rfl, rfl, rfl, rfl⟩

theorem FeedbackFrame.trans {s t u : State} (a : FeedbackFrame s t) (b : FeedbackFrame t u) : FeedbackFrame s u :=
  ⟨b.wsc.trans a.wsc, b.ref.trans a.ref, b.rlq.trans a.rlq, b.cfg.trans a.cfg, b.chan.trans a.chan⟩

/-! PRESSURE at SFC (R181) -/

section

variable {s : State}

theorem two_pressuresActive_iff : 2 ≤ pressuresActive s
    ↔ ∃ x y, x ≠ y ∧ (s.fault (.pressure x)).active = true ∧ (s.fault (.pressure y)).active = true := by
  have nodup : (Bogie.all.filter fun x => (s.fault (.pressure x)).active).Nodup := List.Nodup.filter _ (by decide)
  rw [pressuresActive, ← List.toFinset_card_of_nodup nodup, Nat.succ_le_iff, Finset.one_lt_card]
  simp only [List.mem_toFinset, List.mem_filter, Bogie.mem_all, true_and]
  exact ⟨fun ⟨x, hx, y, hy, ne⟩ => ⟨x, y, ne, hx, hy⟩, fun ⟨x, y, ne, hx, hy⟩ => ⟨x, hx, y, hy, ne⟩⟩

theorem judgePressures_outside (s : State) : OutsideActive s (judgePressures s) := by
  unfold judgePressures
  split
  · exact enterFailsafe_outside _ s
  · exact OutsideActive.refl s

theorem judgePressures_of_stays (stays : s.sfc.opState ≠ .active ∨ ¬ 2 ≤ pressuresActive s) :
    judgePressures s = s := by
  unfold judgePressures
  split
  · next two =>
    exact if_neg fun active => stays.elim (fun idle => idle ((isActive_iff s).mp active)) fun few => few two
  · rfl

theorem judgePressures_opState_of_enters (active : s.sfc.opState = .active) (two : 2 ≤ pressuresActive s) :
    (judgePressures s).sfc.opState = .failsafe := by
  rw [judgePressures, if_pos two]
  exact enterFailsafe_opState _ ((isActive_iff s).mpr active)

end

/-! The raise of a PRESSURE record (R160) -/

section

variable {x : Bogie} {s : State}

/-- R160: the record is raised and BLD has taken it; SFC is still to count. -/
abbrev pressureRaised (x : Bogie) (s : State) : State := rerun (raiseFault (.pressure x) s)

theorem raisePressure_of_clear (clear : (s.fault (.pressure x)).active = false) :
    raisePressure x s = judgePressures (pressureRaised x s) := if_neg (by simp [clear])

theorem pressureRaised_fault (id : FaultId) : (pressureRaised x s).fault id = (raiseFault (.pressure x) s).fault id :=
  fault_of_view (rerun_view _) id

theorem pressureRaised_opState : (pressureRaised x s).sfc.opState = s.sfc.opState := by
  obtain ⟨r, -, raised⟩ := raiseFault_eq (.pressure x) s
  rw [pressureRaised, opState_of_view (rerun_view _), raised]
  rfl

/-- R160, R181: with the record raised, an entry to FAILSAFE is all that may follow. -/
theorem raisePressure_outside (x : Bogie) (s : State) :
    OutsideActive (raiseFault (.pressure x) s) (raisePressure x s) := by
  by_cases active : (s.fault (.pressure x)).active = true
  · rw [raiseFault, raisePressure, if_pos active, if_pos active]
    exact .refl s
  · rw [raisePressure_of_clear (by simpa using active)]
    exact (outsideActive_of_core (rerun_core _) (rerun_rlq _)).trans (judgePressures_outside _)

theorem raisePressure_frame (x : Bogie) (s : State) : FeedbackFrame s (raisePressure x s) := by
  have out := raisePressure_outside x s
  obtain ⟨r, -, raised⟩ := raiseFault_eq (.pressure x) s
  rw [raised] at out
  exact ⟨out.wsc, out.ref, out.rlq, out.cfg, out.chan⟩

theorem raisePressure_fault_self (x : Bogie) (s : State) : (raisePressure x s).fault (.pressure x)
    = if (s.fault (.pressure x)).active then s.fault (.pressure x) else (s.fault (.pressure x)).raised s.nowMs :=
  ((raisePressure_outside x s).fault _ (by simp)).trans (raiseFault_fault_self _ s)

theorem raisePressure_active (x : Bogie) (s : State) : ((raisePressure x s).fault (.pressure x)).active = true := by
  rw [raisePressure_fault_self]
  split
  · assumption
  · rfl

theorem raisePressure_fault_ne {id : FaultId} (other : id ≠ .pressure x) (lasting : ∀ e, id ≠ .sandEmpty e) :
    (raisePressure x s).fault id = s.fault id :=
  ((raisePressure_outside x s).fault id lasting).trans (raiseFault_fault_ne other s)

/-- R181: the second PRESSURE record that is active brings FAILSAFE. -/
theorem raisePressure_enters (clear : (s.fault (.pressure x)).active = false) (active : s.sfc.opState = .active)
    (second : ∃ y, y ≠ x ∧ (s.fault (.pressure y)).active = true) :
    (raisePressure x s).sfc.opState = .failsafe := by
  obtain ⟨y, other, stands⟩ := second
  rw [raisePressure_of_clear clear]
  refine judgePressures_opState_of_enters (pressureRaised_opState.trans active)
    (two_pressuresActive_iff.mpr ⟨x, y, other.symm, ?_, ?_⟩)
  · rw [pressureRaised_fault, raiseFault_fault_self, clear]
    rfl
  · rw [pressureRaised_fault, raiseFault_fault_ne (by simpa using other), stands]

/-- R181: the first record, and any outside ACTIVE, brings none. -/
theorem raisePressure_stays (clear : (s.fault (.pressure x)).active = false)
    (stays : s.sfc.opState ≠ .active ∨ ∀ y, y ≠ x → (s.fault (.pressure y)).active = false) :
    raisePressure x s = pressureRaised x s := by
  rw [raisePressure_of_clear clear]
  refine judgePressures_of_stays (stays.imp (by rw [pressureRaised_opState]; exact id) fun first two => ?_)
  obtain ⟨y, z, apart, hy, hz⟩ := two_pressuresActive_iff.mp two
  have only : ∀ w, ((pressureRaised x s).fault (.pressure w)).active = true → w = x := fun w hw => by
    by_contra other
    rw [pressureRaised_fault, raiseFault_fault_ne (by simpa using other), first w other] at hw
    exact Bool.false_ne_true hw
  exact apart ((only y hy).trans (only z hz).symm)

theorem pressureRaised_frame (x : Bogie) (s : State) : (pressureRaised x s).snd = s.snd
    ∧ (pressureRaised x s).stu = s.stu ∧ (pressureRaised x s).hhu = s.hhu ∧ (pressureRaised x s).adh = s.adh := by
  obtain ⟨r, -, raised⟩ := raiseFault_eq (.pressure x) s
  rw [pressureRaised, rerun_snd, rerun_stu, hhu_of_core (rerun_core _), adh_of_core (rerun_core _), raised]
  exact ⟨rfl, rfl, rfl, rfl⟩

end

/-! A disagreement that stands (R161, R162) -/

/-- R162: the cause is set and the disagreement timer has stopped. A movement of the output leaves both (R161). -/
abbrev DisagreementStands (x : Bogie) (s : State) : Prop :=
  (s.afe.sup.get x).cause = true ∧ (s.afe.sup.get x).disagree = none

section

variable {x : Bogie} {s : State}

theorem disagreementStands_of_sup {t : State} (same : t.afe.sup = s.afe.sup) (h : DisagreementStands x s) :
    DisagreementStands x t := by rwa [DisagreementStands, same]

variable (h : DisagreementStands x s)
include h

theorem setSup_stands (y : Bogie) {v : Supervision} (own : x = y → v.cause = true ∧ v.disagree = none) :
    DisagreementStands x (s.setSup y v) := by
  rw [DisagreementStands, State.setSup_afe]
  dsimp only
  by_cases same : x = y
  · rw [same, PerBogie.get_set_self]
    exact own same
  · rwa [PerBogie.get_set_ne _ _ same]

theorem outputMoving_stands (y : Bogie) : DisagreementStands x (outputMoving y s) :=
  setSup_stands h y fun same => ⟨same ▸ h.1, rfl⟩

theorem outputSteady_stands (y : Bogie) : DisagreementStands x (outputSteady y s) :=
  setSup_stands h y fun same => same ▸ h

theorem jumpOutput_stands (y : Bogie) (v : Nat) : DisagreementStands x (jumpOutput y v s) :=
  outputSteady_stands (outputMoving_stands (s := s.setOutput y (.steady v)) h y) y

theorem aimOutput_stands (cause : AimCause) (y : Bogie) (goal : Nat) :
    DisagreementStands x (aimOutput cause y goal s) := by
  unfold aimOutput
  split
  · exact h
  · dsimp only
    split_ifs
    · exact jumpOutput_stands h y goal
    · exact h
    · exact jumpOutput_stands h y goal
    · exact outputMoving_stands (s := s.setOutput y _) h y

theorem rerunWith_stands (causes : PerBogie AimCause) : DisagreementStands x (rerunWith causes s) := by
  by_cases active : s.sfc.opState = .active
  · rw [rerunWith_of_active causes active]
    refine foldl_keeps Bogie.all (fun y _ t ht => aimOutput_stands ht _ _ _) ?_
    rw [allocated_stagesTaken s]
    exact h
  · rw [rerunWith_of_not_active causes active]
    exact h

theorem jumpAll_stands (v : PerBogie Nat) : DisagreementStands x (jumpAll v s) :=
  foldl_keeps Bogie.all (fun y _ _ ht => jumpOutput_stands ht y _) h

theorem sendReport_stands (r : Report) : DisagreementStands x (sendReport r s) :=
  disagreementStands_of_sup (by rw [sendReport_afe]) h

theorem closeDump_stands (cause : CloseCause) (slip accel : Int) (floors : PerBogie AimCause) (y : Bogie) :
    DisagreementStands x (closeDump cause slip accel floors y s) := by
  cases e : (s.stu.bogie.get y).episode with
  | none => rwa [closeDump_of_shut slip accel floors e]
  | some ep =>
    rw [closeDump_of_open slip accel floors e]
    have closed : DisagreementStands x (zeroCounters y (s.setStu y ((s.stu.bogie.get y).closed cause))) := h
    exact sendReport_stands (rerunWith_stands closed _) _

theorem inSomeOrder_stands {l : List (State → State)}
    (each : ∀ f ∈ l, ∀ t, DisagreementStands x t → DisagreementStands x (f t)) :
    DisagreementStands x (inSomeOrder l s) :=
  inSomeOrder_keeps (P := DisagreementStands x) (fun {t} ht => by
      obtain ⟨n, hn⟩ := drawFrom_changes_free Config.freeOrder t
      rw [hn]
      exact ht) each h

/-! Each block's taking of FAILSAFE (R181) -/

theorem deliverLimits_stands (old : State) : DisagreementStands x (deliverLimits old s) := by
  unfold deliverLimits
  split
  · exact rerunWith_stands h allPlain
  · exact h

theorem leaveHill_stands : DisagreementStands x (leaveHill s) := by
  unfold leaveHill
  rw [hillPublish_eq, List.append_nil]
  refine inSomeOrder_stands ?_ fun f hf t ht => ?_
  · exact h
  rcases hillReaders_cases hf with ⟨_, rfl⟩ | ⟨_, _, rfl⟩ | rfl
  · exact rerunWith_stands ht _
  · refine inSomeOrder_stands ht fun g hg u hu => ?_
    obtain ⟨y, -, rfl⟩ := List.mem_map.mp hg
    exact closeDump_stands hu _ _ _ _ y
  · refine disagreementStands_of_sup ?_ ht
    unfold sandHoldChange
    split_ifs <;> rfl

theorem leaveSand_stands : DisagreementStands x (leaveSand s) := by
  refine disagreementStands_of_sup rfl (inSomeOrder_stands h fun f hf t ht => ?_)
  obtain ⟨e, -, rfl⟩ := List.mem_map.mp hf
  unfold abandonShot
  split
  · rw [raiseIfEmpty_frame]
    exact ht
  · exact ht
  · exact ht

theorem leaveTrip_stands : DisagreementStands x (leaveTrip s) := by
  unfold leaveTrip
  dsimp only
  split
  · exact rerunWith_stands (s := { s with stu := Stu.powerOn }) h allPlain
  · exact h

theorem leaveAdh_stands : DisagreementStands x (leaveAdh s) :=
  deliverLimits_stands (s := { s with adh := { axle := s.adh.allGrip, bogie := Adh.powerOn.bogie } }) h s

theorem failsafeBlend_stands : DisagreementStands x (failsafeBlend s) := by
  unfold failsafeBlend
  refine jumpAll_stands ?_ _
  exact h

theorem enterFailsafe_stands (cause : StateCause) : DisagreementStands x (enterFailsafe cause s) := by
  unfold enterFailsafe
  split
  · unfold changeState
    refine inSomeOrder_stands ?_ fun f hf t ht => ?_
    · exact h
    simp only [List.mem_cons, List.not_mem_nil, or_false] at hf
    rcases hf with rfl | rfl | rfl | rfl | rfl | rfl
    · exact sendReport_stands ht _
    · exact leaveAdh_stands ht
    · exact leaveHill_stands ht
    · exact leaveSand_stands ht
    · exact leaveTrip_stands ht
    · exact failsafeBlend_stands ht
  · exact h

theorem raisePressure_stands (y : Bogie) : DisagreementStands x (raisePressure y s) := by
  have raised : DisagreementStands x (raiseFault (.pressure y) s) := by
    obtain ⟨r, -, e⟩ := raiseFault_eq (.pressure y) s
    rw [e]
    exact h
  unfold raisePressure judgePressures
  split
  · exact h
  · split
    · exact enterFailsafe_stands (rerunWith_stands raised allPlain) _
    · exact rerunWith_stands raised allPlain

end

end Sys2Proof.Machine
end

section
/-! SUPPORT. The steady, disagreement and agreement timers (R160 to R163), and their settlement. -/

namespace Sys2Proof.Machine

section

variable {x : Bogie} {s : State}

theorem exec_steadyTimerExpiry (due : s.confirmExpired (s.afe.sup.get x).steady = true) :
    exec (.steadyTimerExpiry x) s = .next (steadyExpiry x s) :=
  congrArg Host.Outcome.next (show whenDue (.steadyTimerExpiry x) (steadyExpiry x) s = _ from if_pos due)

theorem exec_disagreementTimerExpiry (due : s.expired (s.afe.sup.get x).disagree = true) :
    exec (.disagreementTimerExpiry x) s = .next (disagreementExpiry x s) :=
  congrArg Host.Outcome.next (show whenDue (.disagreementTimerExpiry x) (disagreementExpiry x) s = _ from if_pos due)

theorem exec_agreementTimerExpiry (due : s.expired (s.afe.sup.get x).agree = true) :
    exec (.agreementTimerExpiry x) s = .next (agreementExpiry x s) :=
  congrArg Host.Outcome.next (show whenDue (.agreementTimerExpiry x) (agreementExpiry x) s = _ from if_pos due)

/-! The causes (R160, R162, R163) -/

/-- R162: the disagreement timer has stopped and the cause is set. -/
def disagreed (x : Bogie) (s : State) : State :=
  s.setSup x { s.afe.sup.get x with disagree := none, cause := true }

theorem disagreed_stands (x : Bogie) (s : State) : DisagreementStands x (disagreed x s) := by
  simp [DisagreementStands, disagreed, State.setSup]

theorem disagreementExpiry_eq (x : Bogie) (s : State) : disagreementExpiry x s = raisePressure x (disagreed x s) := rfl

/-- R163: the agreement timer has stopped and the cause is clear. -/
def agreed (x : Bogie) (s : State) : State := s.setSup x { s.afe.sup.get x with agree := none, cause := false }

theorem agreementExpiry_eq (x : Bogie) (s : State) : agreementExpiry x s = endPressure x (agreed x s) := rfl

theorem endPressure_of_held (held : (s.afe.chan.pressure.get x).cause = true) : endPressure x s = s :=
  if_pos (.inl held)

theorem endPressure_of_free (unsaturated : (s.afe.chan.pressure.get x).cause = false)
    (agrees : (s.afe.sup.get x).cause = false) : endPressure x s = endFault (.pressure x) s :=
  if_neg (by simp [unsaturated, agrees])

end

/-- Settles O57: each expiry by its equation; the disagreement stands through the FAILSAFE that its record may bring. -/
theorem supervisionTimers : Obligations.SupervisionTimers := by
  unfold Obligations.SupervisionTimers
  rintro x _ s rfl
  refine ⟨fun due => exec_steadyTimerExpiry due, fun due => ?_, fun due => ?_⟩
  · rw [exec_disagreementTimerExpiry due, disagreementExpiry_eq]
    refine ⟨fun active => congrArg Host.Outcome.next (if_pos active), fun clear => ⟨_, rfl, ?_⟩⟩
    obtain ⟨cause, stopped⟩ := raisePressure_stands (disagreed_stands x s) x
    have frame := raisePressure_frame x (disagreed x s)
    have clear' : ((disagreed x s).fault (.pressure x)).active = false := clear
    refine ⟨cause, stopped, raisePressure_active x _, ?_, fun id => raisePressure_fault_ne,
      raisePressure_enters clear', fun stays => ?_, frame.wsc, frame.ref, frame.rlq, frame.cfg⟩
    · rw [raisePressure_fault_self, clear']
      rfl
    · rw [raisePressure_stays clear' stays]
      exact ⟨pressureRaised_opState, pressureRaised_frame x _⟩
  · rw [exec_agreementTimerExpiry due, agreementExpiry_eq]
    refine ⟨fun held => congrArg Host.Outcome.next (endPressure_of_held held),
      fun free => congrArg Host.Outcome.next (endPressure_of_free free ?_)⟩
    exact congrArg Supervision.cause (PerBogie.get_set_self s.afe.sup x _)

end Sys2Proof.Machine
end

section
/-! SUPPORT. A conversion at its channel (R156 to R159): the gain step, the saturation cause, and the channel after
it. -/

namespace Sys2Proof.Machine

/-! The gain step (R158) -/

section

variable {cfg : AnalogCfg} {g code : Nat}

theorem saturatedCode_eq (code : Nat) : saturatedCode code = decide (code ≤ 16 ∨ 4079 ≤ code) :=
  (Bool.decide_or _ _).symm

theorem gainStep_of_fixed (fixed : cfg.mode = .fixed) : gainStep cfg g code = none := by
  rw [gainStep, fixed]

theorem gainStep_of_saturated (auto : cfg.mode = .auto) (saturated : saturatedCode code = true) :
    gainStep cfg g code = if 1 < g then some (g / 2) else none := by
  rw [gainStep, auto]
  exact if_pos saturated

theorem gainStep_of_clear (auto : cfg.mode = .auto) (clear : saturatedCode code = false) : gainStep cfg g code =
    if 1800 < ((code : Int) - 2048).natAbs ∧ 1 < g then some (g / 2)
    else if ((code : Int) - 2048).natAbs < 400 ∧ g < cfg.gain then some (g * 2)
    else none := by
  rw [gainStep, auto]
  exact if_neg (by simp [clear])

/-- R159: a saturated code at a fixed gain or at gain 1 takes no gain step. -/
theorem gainStep_of_counts (saturated : saturatedCode code = true)
    (counts : cfg.mode = .fixed ∨ g = 1) : gainStep cfg g code = none := by
  cases mode : cfg.mode with
  | fixed => exact gainStep_of_fixed mode
  | auto =>
    have one : g = 1 := counts.resolve_left (by simp [mode])
    rw [gainStep_of_saturated mode saturated, if_neg (by omega)]

/-! The channel after a conversion (R156 to R159) -/

variable {ch : AnalogChan}

theorem convert_of_counts (saturated : saturatedCode code = true)
    (counts : cfg.mode = .fixed ∨ g = 1) : convert cfg g code ch = {
      chan := {
        gain := some g, discard := false, code := some code, reading := some (readingOf code cfg.scale g)
        saturated := min 3 (ch.saturated + 1), clear := 0, cause := ch.cause || decide (2 ≤ ch.saturated) }
      publishes := true, causeSet := decide (2 ≤ ch.saturated) && !ch.cause, causeCleared := false } := by
  have counted : countsSaturated cfg g code = true := by simpa [countsSaturated, saturated] using counts
  simp only [convert, counted, saturated, gainStep_of_counts saturated counts]
  cases ch.cause <;> simp

theorem convert_of_steps (saturated : saturatedCode code = true) (auto : cfg.mode = .auto) (high : 1 < g) :
    convert cfg g code ch = {
      chan := { ch with gain := some (g / 2), discard := true, code := some code }
      publishes := false, causeSet := false, causeCleared := false } := by
  have uncounted : countsSaturated cfg g code = false := by
    simp [countsSaturated, auto, show g ≠ 1 by omega]
  simp [convert, uncounted, saturated, gainStep_of_saturated auto saturated, high]

theorem convert_of_clear (clear : saturatedCode code = false) : convert cfg g code ch = {
      chan := {
        gain := some ((gainStep cfg g code).getD g), discard := (gainStep cfg g code).isSome, code := some code
        reading := some (readingOf code cfg.scale g), saturated := 0, clear := min 3 (ch.clear + 1)
        cause := ch.cause && decide (ch.clear < 2) }
      publishes := true, causeSet := false, causeCleared := decide (2 ≤ ch.clear) && ch.cause } := by
  have uncounted : countsSaturated cfg g code = false := by simp [countsSaturated, clear]
  simp only [convert, uncounted, clear]
  cases ch.cause <;> simp [← decide_not]

/-! The change of the cause (R159) -/

/-- A cause that the conversion brings is set by it. -/
theorem convert_sets (was : ch.cause = false) (stands : (convert cfg g code ch).chan.cause = true) :
    (convert cfg g code ch).causeSet = true := by
  have cause : (convert cfg g code ch).chan.cause
      = ((ch.cause || (convert cfg g code ch).causeSet) && !(convert cfg g code ch).causeCleared) := rfl
  rw [cause, was, Bool.false_or, Bool.and_eq_true] at stands
  exact stands.1

/-- A cause that the conversion takes away is cleared by it. -/
theorem convert_clears (was : ch.cause = true) (gone : (convert cfg g code ch).chan.cause = false) :
    (convert cfg g code ch).causeSet = false ∧ (convert cfg g code ch).causeCleared = true := by
  have cause : (convert cfg g code ch).chan.cause
      = ((ch.cause || (convert cfg g code ch).causeSet) && !(convert cfg g code ch).causeCleared) := rfl
  rw [cause, was, Bool.true_or, Bool.true_and, Bool.not_eq_false'] at gone
  refine ⟨?_, gone⟩
  show (_ && !ch.cause) = false
  rw [was, Bool.not_true, Bool.and_false]

/-- R157, R159: a conversion that publishes and changes no cause. -/
theorem convert_quiet
    (held : saturatedCode code = true → (cfg.mode = .fixed ∨ g = 1) ∧ (ch.cause = true ∨ ch.saturated < 2))
    (cleared : saturatedCode code = false → ch.cause = false ∨ ch.clear < 2) :
    (convert cfg g code ch).publishes = true ∧ (convert cfg g code ch).causeSet = false
      ∧ (convert cfg g code ch).causeCleared = false
      ∧ (convert cfg g code ch).chan.reading = some (readingOf code cfg.scale g) := by
  cases saturated : saturatedCode code with
  | true =>
    obtain ⟨counts, few⟩ := held saturated
    rw [convert_of_counts saturated counts]
    exact ⟨rfl, by simpa using fun two => few.resolve_right (by omega), rfl, rfl⟩
  | false =>
    rw [convert_of_clear saturated]
    exact ⟨rfl, rfl, by simpa using fun two => (cleared saturated).resolve_right (by omega), rfl⟩

end

end Sys2Proof.Machine
end

section
/-! SUPPORT. What a conversion brings (R125, R156 to R163): the record its cause raises or ends, the readers of its
reading, the judgement of a pressure; and the settlement. -/

namespace Sys2Proof.Machine

/-! The judgement of a pressure reading (R162, R163) -/

section

variable {x : Bogie} {reading : Int} {s : State}

theorem disagrees_iff : disagrees s x reading = true
    ↔ 800 + s.pressure x / 10 < (reading - expectedPressure s x).natAbs := decide_eq_true_iff

theorem startIfStopped_eq (s : State) (ms : Nat) (t : Timer) :
    s.startIfStopped ms t = some (t.getD (s.clock + ms * 1000)) := by
  cases t <;> rfl

theorem superviseReading_of_unarmed (unarmed : (s.afe.sup.get x).steady ≠ .complete) :
    superviseReading x reading s = s := if_pos unarmed

variable (armed : (s.afe.sup.get x).steady = .complete)
include armed

theorem superviseReading_of_disagrees (apart : 800 + s.pressure x / 10 < (reading - expectedPressure s x).natAbs) :
    superviseReading x reading s = s.setSup x { s.afe.sup.get x with
      agree := none
      disagree := if (s.afe.sup.get x).cause then none
        else some ((s.afe.sup.get x).disagree.getD (s.clock + 600000)) } := by
  unfold superviseReading
  rw [if_neg (by simp [armed]), if_pos (disagrees_iff.mpr apart), startIfStopped_eq]

theorem superviseReading_of_agrees (near : (reading - expectedPressure s x).natAbs ≤ 800 + s.pressure x / 10) :
    superviseReading x reading s = s.setSup x { s.afe.sup.get x with
      disagree := none
      agree := if (s.afe.sup.get x).cause then some ((s.afe.sup.get x).agree.getD (s.clock + 600000))
        else none } := by
  unfold superviseReading
  rw [if_neg (by simp [armed]), if_neg (fun c => not_lt.mpr near (disagrees_iff.mp c)), startIfStopped_eq]

end

/-- R162: the judgement changes the supervision of its bogie alone. -/
theorem superviseReading_changes (x : Bogie) (reading : Int) (s : State) :
    ∃ v, superviseReading x reading s = s.setSup x v := by
  by_cases armed : (s.afe.sup.get x).steady = .complete
  · by_cases apart : 800 + s.pressure x / 10 < (reading - expectedPressure s x).natAbs
    · exact ⟨_, superviseReading_of_disagrees armed apart⟩
    · exact ⟨_, superviseReading_of_agrees armed (not_lt.mp apart)⟩
  · refine ⟨s.afe.sup.get x, ?_⟩
    rw [superviseReading_of_unarmed armed, State.setSup, PerBogie.set_get_self]

theorem superviseReading_eq (x : Bogie) (reading : Int) (s : State) :
    superviseReading x reading s = { s with afe := (superviseReading x reading s).afe } := by
  obtain ⟨v, judged⟩ := superviseReading_changes x reading s
  rw [judged]
  rfl

theorem superviseReading_get_ne {x y : Bogie} (other : y ≠ x) (reading : Int) (s : State) :
    (superviseReading x reading s).afe.sup.get y = s.afe.sup.get y := by
  obtain ⟨v, judged⟩ := superviseReading_changes x reading s
  rw [judged]
  exact PerBogie.get_set_ne _ _ other

/-! The records (R159, R160) -/

theorem endPressure_frame (x : Bogie) (s : State) : FeedbackFrame s (endPressure x s) := by
  unfold endPressure
  split
  · exact .refl s
  · exact ⟨rfl, rfl, rfl, rfl, rfl⟩

theorem rerun_frame (s : State) : FeedbackFrame s (rerun s) :=
  ⟨wsc_of_core (rerun_core s), ref_of_core (rerun_core s), rerun_rlq s, cfg_of_core (rerun_core s),
    chan_of_core (rerun_core s)⟩

theorem raiseFault_frame (id : FaultId) (s : State) : FeedbackFrame s (raiseFault id s) := by
  obtain ⟨r, -, raised⟩ := raiseFault_eq id s
  rw [raised]
  exact ⟨rfl, rfl, rfl, rfl, rfl⟩

theorem saturationSet_frame (c : Analog) (s : State) : FeedbackFrame s (saturationSet c s) := by
  cases c with
  | pressure x => exact raisePressure_frame x s
  | force m =>
    unfold saturationSet
    dsimp only
    split
    · exact .refl s
    · exact (raiseFault_frame _ s).trans (rerun_frame _)

theorem saturationCleared_frame (c : Analog) (s : State) : FeedbackFrame s (saturationCleared c s) := by
  cases c with
  | pressure x => exact endPressure_frame x s
  | force m => exact FeedbackFrame.trans (t := endFault (.edFeedback m) s) ⟨rfl, rfl, rfl, rfl, rfl⟩ (rerun_frame _)

theorem saturationSet_force_active (m : Motor) (s : State) :
    ((saturationSet (.force m) s).fault (.edFeedback m)).active = true := by
  unfold saturationSet
  dsimp only
  split
  · assumption
  · next clear =>
    rw [fault_of_view (rerun_view _), raiseFault_fault_self, if_neg clear]
    rfl

theorem saturationCleared_force_active (m : Motor) (s : State) :
    ((saturationCleared (.force m) s).fault (.edFeedback m)).active = false := by
  have ended : (saturationCleared (.force m) s).fault (.edFeedback m)
      = (endFault (.edFeedback m) s).fault (.edFeedback m) := fault_of_view (rerun_view _) _
  rw [ended, endFault, State.setFault_fault, if_pos rfl]

theorem saturationCleared_pressure_active {x : Bogie} {s : State}
    (unsaturated : (s.afe.chan.pressure.get x).cause = false) (agrees : (s.afe.sup.get x).cause = false) :
    ((saturationCleared (.pressure x) s).fault (.pressure x)).active = false := by
  rw [saturationCleared, endPressure_of_free unsaturated agrees, endFault, State.setFault_fault, if_pos rfl]

/-! What follows a conversion (R157) -/

theorem deliverCause_frame (c : Analog) (v : Conversion) (s : State) : FeedbackFrame s (deliverCause c v s) := by
  unfold deliverCause
  split_ifs
  · exact saturationSet_frame c s
  · exact saturationCleared_frame c s
  · exact .refl s

theorem hillReading_frame (s : State) : FeedbackFrame s (hillReading s) := by
  obtain ⟨n, all⟩ := hillReading_delivered s
  exact ⟨all.wsc, all.ref, all.rlq, all.cfg, all.chan⟩

theorem deliverReading_frame (c : Analog) (s : State) : FeedbackFrame s (deliverReading c s) := by
  cases c with
  | pressure x =>
    obtain ⟨v, judged⟩ := superviseReading_changes x (s.reading (.pressure x)) s
    rw [deliverReading, judged]
    exact ⟨rfl, rfl, rfl, rfl, rfl⟩
  | force m =>
    refine inSomeOrder_keeps (P := FeedbackFrame s) (fun {t} h => ?_) (fun f hf t h => h.trans ?_) (.refl s)
    · obtain ⟨n, hn⟩ := drawFrom_changes_free Config.freeOrder t
      rw [hn]
      exact h.trans ⟨rfl, rfl, rfl, rfl, rfl⟩
    · simp only [List.mem_cons, List.not_mem_nil, or_false] at hf
      rcases hf with rfl | rfl
      · exact rerun_frame t
      · exact hillReading_frame t

/-- R156: the reading at its readers, where one is published. -/
def publishReading (c : Analog) (v : Conversion) (s : State) : State := if v.publishes then deliverReading c s else s

theorem afterConversion_pressure (x : Bogie) (v : Conversion) (s : State) : afterConversion (.pressure x) v s
    = publishReading (.pressure x) v (deliverCause (.pressure x) v s) := rfl

theorem afterConversion_force (m : Motor) (v : Conversion) (s : State) : afterConversion (.force m) v s
    = deliverCause (.force m) v (publishReading (.force m) v s) := rfl

theorem publishReading_frame (c : Analog) (v : Conversion) (s : State) : FeedbackFrame s (publishReading c v s) := by
  unfold publishReading
  split
  · exact deliverReading_frame c s
  · exact .refl s

theorem afterConversion_frame (c : Analog) (v : Conversion) (s : State) : FeedbackFrame s (afterConversion c v s) := by
  cases c with
  | pressure x => exact (deliverCause_frame _ v s).trans (publishReading_frame _ v _)
  | force m => exact (publishReading_frame _ v s).trans (deliverCause_frame _ v _)

theorem afterConversion_quiet (c : Analog) {v : Conversion} (s : State) (publishes : v.publishes = true)
    (unset : v.causeSet = false) (uncleared : v.causeCleared = false) :
    afterConversion c v s = deliverReading c s := by
  have silent : ∀ u, deliverCause c v u = u := fun u => by simp [deliverCause, unset, uncleared]
  have delivered : ∀ u, publishReading c v u = deliverReading c u := fun u => if_pos publishes
  cases c with
  | pressure x => rw [afterConversion_pressure, silent, delivered]
  | force m => rw [afterConversion_force, silent, delivered]

/-- R162: the judgement of a pressure touches no fault record. -/
theorem publishReading_pressure_fault (x : Bogie) (v : Conversion) (s : State) (id : FaultId) :
    (publishReading (.pressure x) v s).fault id = s.fault id := by
  unfold publishReading
  split
  · rw [deliverReading, superviseReading_eq]
    rfl
  · rfl

section

variable {v : Conversion} {s : State}

theorem afterConversion_pressure_sets (x : Bogie) (sets : v.causeSet = true) :
    ((afterConversion (.pressure x) v s).fault (.pressure x)).active = true := by
  rw [afterConversion_pressure, publishReading_pressure_fault, deliverCause, if_pos sets]
  exact raisePressure_active x s

theorem afterConversion_pressure_clears {x : Bogie} (unset : v.causeSet = false) (clears : v.causeCleared = true)
    (unsaturated : (s.afe.chan.pressure.get x).cause = false) (agrees : (s.afe.sup.get x).cause = false) :
    ((afterConversion (.pressure x) v s).fault (.pressure x)).active = false := by
  rw [afterConversion_pressure, publishReading_pressure_fault, deliverCause, if_neg (by simp [unset]), if_pos clears]
  exact saturationCleared_pressure_active unsaturated agrees

theorem afterConversion_force_sets (m : Motor) (sets : v.causeSet = true) :
    ((afterConversion (.force m) v s).fault (.edFeedback m)).active = true := by
  rw [afterConversion_force, deliverCause, if_pos sets]
  exact saturationSet_force_active m _

theorem afterConversion_force_clears (m : Motor) (unset : v.causeSet = false) (clears : v.causeCleared = true) :
    ((afterConversion (.force m) v s).fault (.edFeedback m)).active = false := by
  rw [afterConversion_force, deliverCause, if_neg (by simp [unset]), if_pos clears]
  exact saturationCleared_force_active m _

end

/-! The command (R156, R157) -/

section

variable {c : Analog} {code : BitVec 12} {ch : AnalogChan} {s : State} (here : s.afe.chan.get c = ch)
include here

theorem takeConversion_of_unset (unset : ch.gain = none) : takeConversion c code s = s := by
  subst here
  rw [takeConversion, unset]

variable {g : Nat} {cfg : AnalogCfg} (gain : ch.gain = some g) (section_ : s.sfc.cfg.analog.get c = some cfg)
include gain section_

theorem takeConversion_of_discard (discards : ch.discard = true) :
    takeConversion c code s = s.setAnalog c { ch with discard := false } := by
  subst here
  rw [takeConversion, gain, section_]
  exact if_pos discards

theorem takeConversion_of_taken (taken : ch.discard = false) : takeConversion c code s
    = afterConversion c (convert cfg g code.toNat ch) (s.setAnalog c (convert cfg g code.toNat ch).chan) := by
  subst here
  rw [takeConversion, gain, section_]
  exact if_neg (by simp [taken])

end

/-- Settles O56: the channel by the three kinds of conversion, the records by the change of the cause, and the readers
where no cause changes. -/
theorem analogConversion : Obligations.AnalogConversion := by
  unfold Obligations.AnalogConversion
  intro c code ch s here
  refine ⟨fun unset => congrArg Host.Outcome.next (takeConversion_of_unset here unset), fun g cfg gain section_ =>
    ⟨fun discards => congrArg Host.Outcome.next (takeConversion_of_discard here gain section_ discards),
      fun taken _ n reading d saturated hn hd hsaturated hreading => ?_⟩⟩
  subst hd
  obtain rfl : saturated = saturatedCode code.toNat := hsaturated.trans (saturatedCode_eq _).symm
  obtain rfl : reading = readingOf code.toNat cfg.scale g := by rw [hreading, hn]; rfl
  refine ⟨_, congrArg Host.Outcome.next (takeConversion_of_taken here gain section_ taken), ?_⟩
  have frame := afterConversion_frame c (convert cfg g code.toNat ch)
    (s.setAnalog c (convert cfg g code.toNat ch).chan)
  have chan : ((s.setAnalog c (convert cfg g code.toNat ch).chan).afe.chan.get c)
      = (convert cfg g code.toNat ch).chan := PerAnalog.get_set_self _ c _
  rw [frame.chan, chan]
  refine ⟨fun a other => PerAnalog.get_set_ne _ _ other, fun saturated counts => ?_, fun saturated auto high => ?_,
    fun clear => ⟨_, _, by rw [convert_of_clear clear], fun fixed => ?_, fun auto far high => ?_,
      fun auto near low => ?_, fun auto notFar notNear => ?_⟩,
    ?_, ?_, ?_, ?_, fun held cleared => ?_, frame.wsc, frame.ref, frame.rlq, frame.cfg⟩
  · rw [convert_of_counts saturated counts]
  · rw [convert_of_steps saturated auto high]
  · rw [gainStep_of_fixed fixed]
    exact ⟨rfl, rfl⟩
  · rw [gainStep_of_clear auto clear, if_pos ⟨far, high⟩]
    exact ⟨rfl, rfl⟩
  · rw [gainStep_of_clear auto clear, if_neg (by omega), if_pos ⟨near, low⟩]
    exact ⟨rfl, rfl⟩
  · rw [gainStep_of_clear auto clear, if_neg notFar, if_neg notNear]
    exact ⟨rfl, rfl⟩
  · rintro x rfl was stands
    exact afterConversion_pressure_sets x (convert_sets was stands)
  · rintro x rfl was gone agrees
    obtain ⟨unset, clears⟩ := convert_clears was gone
    exact afterConversion_pressure_clears unset clears ((congrArg AnalogChan.cause chan).trans gone) agrees
  · rintro m rfl was stands
    exact afterConversion_force_sets m (convert_sets was stands)
  · rintro m rfl was gone
    obtain ⟨unset, clears⟩ := convert_clears was gone
    exact afterConversion_force_clears m unset clears
  · obtain ⟨publishes, unset, uncleared, published⟩ := convert_quiet held cleared
    rw [afterConversion_quiet c _ publishes unset uncleared]
    refine ⟨?_, ?_⟩
    · rintro m rfl
      obtain ⟨n, readers, order, taken⟩ := inSomeOrder_perm [rerun, hillReading]
        (s.setAnalog (.force m) (convert cfg g code.toNat ch).chan)
      exact ⟨_, readers, rfl, order, taken⟩
    · rintro x _ _ rfl rfl rfl
      have reads : (s.setAnalog (.pressure x) (convert cfg g code.toNat ch).chan).reading (.pressure x)
          = readingOf code.toNat cfg.scale g := by
        rw [State.reading, chan, published]
        rfl
      rw [deliverReading, reads]
      refine ⟨superviseReading_eq x _ (s.setAnalog _ _), fun y other => superviseReading_get_ne other _ _,
        fun unarmed => ?_, fun armed apart => ?_, fun armed near => ?_⟩
      · rw [superviseReading_of_unarmed (s := s.setAnalog _ _) unarmed]
        rfl
      · rw [superviseReading_of_disagrees (s := s.setAnalog _ _) armed apart]
        exact PerBogie.get_set_self _ x _
      · rw [superviseReading_of_agrees (s := s.setAnalog _ _) armed near]
        exact PerBogie.get_set_self _ x _

end Sys2Proof.Machine
end

section
/-! SUPPORT. The link's standing promises (R192, R195 to R197): the bounds of the two queues and of the discard
count, the busy arbiter, and the LINK record that follows the count. -/

namespace Sys2Proof.Machine

/-! What a report and a raise keep -/

/-- A report touches neither the discard count nor the LINK record. -/
theorem sendReport_linkWf (r : Report) {s : State} (w : linkWf s) : linkWf (sendReport r s) := by
  obtain ⟨bounded, busy, follows⟩ := w
  refine ⟨sendReport_linkBounded r bounded, sendReport_busy r busy, ?_⟩
  rwa [linkFaultFollows, sendReport_discards, State.fault, sendReport_sfc]

theorem sendReply_linkWf (r : Reply) {s : State} (room : s.lnk.replies.length < 4) (w : linkWf s) :
    linkWf (sendReply r s) := by
  obtain ⟨bounded, -, follows⟩ := w
  refine ⟨sendReply_linkBounded r bounded room, sendReply_busy r s, ?_⟩
  rwa [linkFaultFollows, sendReply_discards, State.fault, sendReply_sfc]

/-- A change of a record is no change of the link; the LINK record has to follow the count as before. -/
theorem setFault_linkWf {id : FaultId} {r : FaultRec} {s : State} (w : linkWf s)
    (link : id = .link → r.active = (s.fault .link).active) : linkWf (s.setFault id r) := by
  obtain ⟨bounded, busy, follows⟩ := w
  refine ⟨bounded, busy, ?_⟩
  rw [linkFaultFollows, State.setFault_fault]
  split
  · next same => rw [link same.symm]; exact follows
  · exact follows

theorem raiseFault_linkBounded (id : FaultId) {s : State} (bounded : linkBounded s.lnk) :
    linkBounded (raiseFault id s).lnk := by
  unfold raiseFault
  split
  · exact bounded
  · exact sendReport_linkBounded _ bounded

theorem raiseFault_busy (id : FaultId) {s : State} (busy : arbiterBusy s.lnk) :
    arbiterBusy (raiseFault id s).lnk := by
  unfold raiseFault
  split
  · exact busy
  · exact sendReport_busy _ busy

theorem raiseFault_discards (id : FaultId) (s : State) : (raiseFault id s).lnk.discards = s.lnk.discards := by
  unfold raiseFault
  split
  · rfl
  · exact sendReport_discards _ _

theorem raiseFault_active (id : FaultId) (s : State) : ((raiseFault id s).fault id).active = true := by
  rw [raiseFault_fault_self]
  split
  · assumption
  · rfl

/-! Discards and good frames (R192) -/

/-- R192: the state with one more discard counted, before the LINK record is judged. -/
def countDiscard (s : State) : State := { s with lnk.discards := min 4 (s.lnk.discards + 1) }

/-- R192: below 3 discards the count alone moves. -/
theorem discardFrame_of_few {s : State} (few : s.lnk.discards < 3) : discardFrame s = countDiscard s :=
  if_neg (show ¬ min 4 (s.lnk.discards + 1) = 4 by omega)

/-- R192: the fourth discard, and each after it, raises the LINK record. -/
theorem discardFrame_of_many {s : State} (many : 3 ≤ s.lnk.discards) :
    discardFrame s = raiseFault .link (countDiscard s) :=
  if_pos (show min 4 (s.lnk.discards + 1) = 4 by omega)

theorem discardFrame_linkWf {s : State} (w : linkWf s) : linkWf (discardFrame s) := by
  obtain ⟨⟨replies, reports, -⟩, busy, follows⟩ := w
  have bounded : linkBounded (countDiscard s).lnk := ⟨replies, reports, Nat.min_le_left _ _⟩
  rcases Nat.lt_or_ge s.lnk.discards 3 with few | many
  · rw [discardFrame_of_few few]
    refine ⟨bounded, busy, follows.trans ?_⟩
    show s.lnk.discards = 4 ↔ min 4 (s.lnk.discards + 1) = 4
    omega
  · rw [discardFrame_of_many many]
    refine ⟨raiseFault_linkBounded _ bounded, raiseFault_busy _ busy, iff_of_true (raiseFault_active _ _) ?_⟩
    rw [raiseFault_discards]
    show min 4 (s.lnk.discards + 1) = 4
    omega

/-- R192: after a good frame the LINK record is inactive and the count is 0. -/
theorem countGood_eq (s : State) : countGood s = { s.setFault .link { s.fault .link with active := false } with
    lnk := { s.lnk with discards := 0 } } := by
  unfold countGood
  dsimp only
  split
  · rfl
  · next idle =>
    have record : { s.fault .link with active := false } = s.fault .link := ended_of_not_active idle
    rw [record, State.setFault_fault_self]

theorem countGood_linkWf {s : State} (w : linkWf s) : linkWf (countGood s) := by
  obtain ⟨⟨replies, reports, -⟩, busy, -⟩ := w
  rw [countGood_eq]
  exact ⟨⟨replies, reports, Nat.zero_le _⟩, busy,
    iff_of_false Bool.false_ne_true (show (0 : Nat) ≠ 4 by decide)⟩

/-! The end of a transmitted frame (R182, R197) -/

theorem freed_linkWf {s : State} (w : linkWf s) : linkWf (arbitrate { s with lnk.inFlight := none }) := by
  obtain ⟨bounded, -, follows⟩ := w
  refine ⟨arbitrate_linkBounded bounded, arbitrate_busy _, ?_⟩
  rwa [linkFaultFollows, arbitrate_discards, State.fault, arbitrate_sfc]

/-- R200: the link as power-on leaves it, whatever report it has begun. -/
theorem linkWf_of_fresh {s : State} (faults : s.sfc.faults = FaultTable.clear) {r : Report}
    (link : s.lnk = { Lnk.powerOn with inFlight := some (.report r) }) : linkWf s := by
  unfold linkWf State.fault
  rw [faults, link, FaultTable.clear_get]
  exact ⟨⟨Nat.zero_le _, Nat.zero_le _, Nat.zero_le _⟩, fun _ => ⟨rfl, rfl⟩,
    iff_of_false Bool.false_ne_true (show (0 : Nat) ≠ 4 by decide)⟩

/-- R182, R200: a RESTART that takes effect clears the table and empties the link but for its report. -/
theorem restartEffect_linkWf (s : State) : linkWf (restartEffect s) := by
  obtain ⟨-, -, -, -, -, -, -, sfc, link⟩ := restartEffect_facts s
  exact linkWf_of_fresh (by rw [sfc]) link

theorem powerOn_linkWf (low high : Bool) (s : State) : linkWf (powerOn low high s) :=
  linkWf_of_fresh rfl rfl

/-! Every command -/

/-- Only the link's own operations touch the queues and the count; of the records, FAULT CLEAR alone may name LINK
beside them, and it clears a record that is not active. -/
theorem kept_linkWf : Kept linkWf where
  view e w := by unfold linkWf; rwa [lnk_of_view e, fault_of_view e]
  report r _ w := sendReport_linkWf r w
  fault _ _ _ other _ w := setFault_linkWf w fun same => absurd same other
  sand _ _ _ w := w
  route _ _ _ w := w
  failsafe _ w := w
  chans _ _ w := w
  ebl _ _ w := w
  valid _ _ w := w
  reply r _ room w := sendReply_linkWf r room w
  notices _ _ _ w := w
  framer _ _ _ w := w
  discard w := discardFrame_linkWf w
  good w := countGood_linkWf w
  freed _ w := freed_linkWf w
  clear _ _ idle w := setFault_linkWf w fun same => by rw [← same, idle]; rfl
  section_ _ _ _ _ _ _ w := w
  ready _ _ w := w
  active _ w := w
  stopped _ w := w
  restart _ s _ room w := sendReply_linkWf (s := { s with sfc.restartPending := true }) _ room w
  effect _ _ := restartEffect_linkWf _

/-- Settles O6: every command keeps it, power-on reset leaves the link idle but for its report, and time touches no
block. -/
theorem stepKeepsLink : Obligations.StepKeepsLink := by
  unfold Obligations.StepKeepsLink
  exact fun _ _ e w => step_keeps kept_linkWf (fun x y s _ => powerOn_linkWf x y s) (fun _ _ _ w => w) e w

end Sys2Proof.Machine
end

section
/-! SUPPORT. Every command answers a next state and leaves the queue of commands alone (logs 2 and 34); an expiry that
is not due changes nothing (log 5). -/

namespace Sys2Proof.Machine

/-- What belongs to no block's rules but to the run: the queue of commands, the clock and the baud rate. -/
structure RunView where
  pending : List Instr
  clock : Nat
  baud : Baud

def State.run (s : State) : RunView := ⟨s.pending, s.clock, s.baud⟩

theorem run_of_view {s t : State} (e : t.view = s.view) : t.run = s.run := by
  rw [State.run, pending_of_view e, clock_of_view e, baud_of_view e, State.run]

theorem arbitrate_run (s : State) : (arbitrate s).run = s.run := by
  rw [arbitrate_eq]
  rfl

theorem sendReport_run (r : Report) (s : State) : (sendReport r s).run = s.run := by
  rw [sendReport_eq]
  rfl

theorem sendReply_run (r : Reply) (s : State) : (sendReply r s).run = s.run := arbitrate_run _

theorem raiseFault_run (id : FaultId) (s : State) : (raiseFault id s).run = s.run := by
  obtain ⟨r, -, raised⟩ := raiseFault_eq id s
  rw [raised]
  rfl

/-- R192: a discard touches the link and its record alone. -/
theorem discardFrame_run (s : State) : (discardFrame s).run = s.run := by
  unfold discardFrame
  dsimp only
  split
  · exact raiseFault_run .link _
  · rfl

theorem countGood_run (s : State) : (countGood s).run = s.run := by
  rw [countGood_eq]
  rfl

/-- R182: a RESTART that takes effect is no power-on reset: time and the baud rate go on. -/
theorem restartEffect_run (s : State) : (restartEffect s).run = s.run := by
  obtain ⟨clock, baud, -, -, pending, -⟩ := restartEffect_facts s
  rw [State.run, pending, clock, baud, State.run]

/-- No change that a command makes moves time (log 2). -/
theorem kept_run (s : State) : Kept fun t => t.run = s.run where
  view e same := (run_of_view e).trans same
  report r u same := (sendReport_run r u).trans same
  fault _ _ _ _ _ same := same
  sand _ _ _ same := same
  route _ _ _ same := same
  failsafe _ same := same
  chans _ _ same := same
  ebl _ _ same := same
  valid _ _ same := same
  reply r u _ same := (sendReply_run r u).trans same
  notices _ _ _ same := same
  framer _ _ _ same := same
  discard same := (discardFrame_run _).trans same
  good same := (countGood_run _).trans same
  freed _ same := (arbitrate_run _).trans same
  clear _ _ _ same := same
  section_ _ _ _ _ _ _ same := same
  ready _ _ same := same
  active _ same := same
  stopped _ same := same
  restart _ _ _ _ same := (sendReply_run _ _).trans same
  effect _ same := (restartEffect_run _).trans same

theorem exec_run {c : Instr} {s t : State} (e : exec c s = .next t) (running : ∀ x y, c ≠ .powerOnReset x y) :
    t.run = s.run := exec_keeps (kept_run s) e (fun x y reset => absurd reset (running x y)) rfl

/-- Log 34: power-on reset leaves the queue of commands alone too. -/
theorem exec_pending {c : Instr} {s t : State} (e : exec c s = .next t) : t.pending = s.pending := by
  by_cases reset : ∃ x y, c = .powerOnReset x y
  · obtain ⟨x, y, rfl⟩ := reset
    obtain rfl := Host.Outcome.next.inj e
    rfl
  · exact congrArg RunView.pending (exec_run e fun x y is => reset ⟨x, y, is⟩)

/-- Log 5: a command that stands for an expiry acts only where that expiry is due. -/
theorem exec_of_expiry {c : Instr} {u : State} (due : expiryDue c u = true) :
    ∃ effect, ∀ s, exec c s = .next (whenDue c effect s) := by
  cases c
  case gapTimerExpiry | windowPeriodExpiry | heldTimerExpiry | standstillConfirmExpiry | lowAdhesionTimerExpiry
      | demandTimerExpiry | trackBrakeOnTimerExpiry | trackBrakeOffTimerExpiry | pressureRampCompletion
      | releaseConfirmExpiry | takeUpTimerExpiry | releaseRampCompletion | shotTimerExpiry | recoveryTimerExpiry
      | ageTimerExpiry | emergencyRepeatTimerExpiry | steadyTimerExpiry | disagreementTimerExpiry
      | agreementTimerExpiry | dumpLimitTimerExpiry | referenceLostTimerExpiry => exact ⟨_, fun _ => rfl⟩
  -- No other command is ever due.
  all_goals exact absurd due Bool.false_ne_true

theorem whenDue_of_not_due {c : Instr} {s : State} (effect : State → State) (early : expiryDue c s = false) :
    whenDue c effect s = s := if_neg (by rw [early]; exact Bool.false_ne_true)

/-- Settles O3: `exec_next` gives the state, and the changes of a command are those that `Kept` names. -/
theorem everyCommandCompletes : Obligations.EveryCommandCompletes := by
  unfold Obligations.EveryCommandCompletes
  intro c s
  obtain ⟨t, e⟩ := exec_next c s
  refine ⟨⟨t, e, exec_pending e, fun running => ?_⟩, fun ⟨u, due⟩ early => ?_⟩
  · have same := exec_run e running
    exact ⟨congrArg RunView.clock same, congrArg RunView.baud same⟩
  · obtain ⟨effect, acts⟩ := exec_of_expiry due
    rw [acts, whenDue_of_not_due effect early]

end Sys2Proof.Machine
end

section
/-! SUPPORT. Each request is read back from its body (R193, R194): the family `Bytes`, gathered. -/

namespace Sys2Proof.Laws

open Sys2Proof.Machine

/-- A command that is no request has no body to be read back. -/
theorem Bytes.statement_of_no_body {i : Instr} (none : requestBody i = none) : Bytes.Statement i := by
  intro _ _ k tag body carried
  rw [none] at carried
  exact absurd carried (by simp)

/-- Settles O12: one lemma of the family `Bytes` for each request. -/
theorem requestReadBackFromBody : Obligations.RequestReadBackFromBody := by
  unfold Obligations.RequestReadBackFromBody
  intro i
  cases i with
  | identify tag => exact Bytes.identify tag
  | configure tag sec fields => exact Bytes.configure tag sec fields
  | start tag => exact Bytes.start tag
  | stop tag => exact Bytes.stop tag
  | restart tag => exact Bytes.restart tag
  | demand tag mode dir effort permitted => exact Bytes.demand tag mode dir effort permitted
  | referenceSelect tag mode => exact Bytes.referenceSelect tag mode
  | axleIsolate tag axle => exact Bytes.axleIsolate tag axle
  | axleRestore tag axle => exact Bytes.axleRestore tag axle
  | wheelTrim tag axle diameter => exact Bytes.wheelTrim tag axle diameter
  | segmentAppend tag count records => exact Bytes.segmentAppend tag count records
  | routeFlush tag => exact Bytes.routeFlush tag
  | positionFix tag id offset => exact Bytes.positionFix tag id offset
  | sandRequest tag side shots => exact Bytes.sandRequest tag side shots
  | sandFill tag side level => exact Bytes.sandFill tag side level
  | statusQuery tag group => exact Bytes.statusQuery tag group
  | faultQuery tag => exact Bytes.faultQuery tag
  | faultClear tag kind number => exact Bytes.faultClear tag kind number
  | _ => exact Bytes.statement_of_no_body rfl

end Sys2Proof.Laws
end

section
/-! SUPPORT. The framer (R189 to R192): the bytes of a frame one after another, what discards a frame, and what a
discard does. -/

namespace Sys2Proof.Machine

/-! The bytes of a frame (R190, R191) -/

/-- R191: the framer in frame after `bytes`, the gap timer started at the last of them. -/
def inFrame (bytes : List Byte) (s : State) : State :=
  { s with lnk := { s.lnk with framer := .inFrame bytes, gapTimer := s.timer 2 } }

/-- R189, R191: in HUNTING a byte other than a good start byte does nothing. -/
theorem takeByte_of_hunting {x : Byte} {fe : Bool} {s : State} (hunting : s.lnk.framer = .hunting)
    (noStart : fe = true ∨ x ≠ 0xD1) : takeByte x fe s = s := by
  rw [takeByte, hunting]
  refine if_neg fun start => ?_
  rcases noStart with bad | other
  · simp [bad] at start
  · exact other start.2

theorem takeByte_of_start {s : State} (hunting : s.lnk.framer = .hunting) :
    takeByte 0xD1 false s = inFrame [] s := by
  rw [takeByte, hunting]
  exact if_pos ⟨rfl, rfl⟩

theorem takeByte_of_framingError {x : Byte} {bytes : List Byte} {s : State} (h : s.lnk.framer = .inFrame bytes) :
    takeByte x true s = discardFrame (hunt s) := by
  rw [takeByte, h]
  rfl

theorem takeByte_of_inFrame {x : Byte} {bytes : List Byte} {s : State} (h : s.lnk.framer = .inFrame bytes) :
    takeByte x false s = byteInFrame bytes x s := by
  rw [takeByte, h]
  rfl

/-- R191: a length byte above 96 discards the frame. -/
theorem takeByte_of_tooLong {x : Byte} {s : State} (h : s.lnk.framer = .inFrame []) (long : 96 < x.toNat) :
    takeByte x false s = discardFrame (hunt s) := by
  rw [takeByte_of_inFrame h]
  exact if_pos ⟨rfl, long⟩

/-- The length byte names the bytes still to come: kind, tag, body and two CRC bytes. -/
theorem wholeFrame_of_short {n : Byte} {rest : List Byte} (short : rest.length < n.toNat + 4) :
    wholeFrame (n :: rest) = none := by
  match rest with
  | [] | [_] => rfl
  | kind :: tag :: rest =>
    rw [wholeFrame]
    split
    · next hi lo tail =>
      have left := congrArg List.length tail
      simp only [List.length_drop, List.length_cons, List.length_nil] at left short
      omega
    · rfl

theorem wholeFrame_of_frame {n kind tag : Byte} {body : List Byte} (crc : BitVec 16) (length : n.toNat = body.length) :
    wholeFrame (n :: kind :: tag :: (body ++ bytesOf 2 crc.toNat)) = some (kind, tag, body, crc) := by
  rw [wholeFrame, length, List.drop_left, List.take_left, Laws.bytesOf_two]
  dsimp only
  rw [Laws.word16_bytes]

/-- A byte that does not make the frame whole is gathered. -/
theorem takeByte_grows {n x : Byte} {bytes : List Byte} {s : State} (short : bytes.length + 1 < n.toNat + 4) :
    takeByte x false (inFrame (n :: bytes) s) = inFrame (n :: (bytes ++ [x])) s := by
  rw [takeByte_of_inFrame rfl, byteInFrame, if_neg (by simp)]
  rw [show n :: bytes ++ [x] = n :: (bytes ++ [x]) from rfl, wholeFrame_of_short (by simpa using short)]
  rfl

/-- R191: a length byte that fits keeps the framer in frame. -/
theorem takeByte_length {n : Byte} {s : State} (fits : n.toNat ≤ 96) :
    takeByte n false (inFrame [] s) = inFrame [n] s := by
  rw [takeByte_of_inFrame rfl, byteInFrame, if_neg (by omega)]
  rw [show [] ++ [n] = [n] from rfl, wholeFrame_of_short (by simp)]
  rfl

theorem takeBytes_grow {n : Byte} {s : State} : ∀ (xs bytes : List Byte),
    bytes.length + xs.length < n.toNat + 4 →
    xs.foldl (fun t x => takeByte x false t) (inFrame (n :: bytes) s) = inFrame (n :: (bytes ++ xs)) s
  | [], bytes, _ => by rw [List.append_nil]; rfl
  | x :: xs, bytes, short => by
    rw [List.length_cons] at short
    rw [List.foldl_cons, takeByte_grows (by omega), takeBytes_grow xs (bytes ++ [x]) (by simp; omega)]
    simp

/-- The last CRC byte makes the frame whole. -/
theorem takeByte_completes {n kind tag lo : Byte} {bytes body : List Byte} {crc : BitVec 16} {s : State}
    (whole : wholeFrame (n :: (bytes ++ [lo])) = some (kind, tag, body, crc)) :
    takeByte lo false (inFrame (n :: bytes) s) = completeFrame kind tag body crc (hunt s) := by
  rw [takeByte_of_inFrame rfl, byteInFrame, if_neg (by simp)]
  rw [show n :: bytes ++ [lo] = n :: (bytes ++ [lo]) from rfl, whole]
  rfl

/-- R190, R191: the bytes of a frame with a body that fits make that frame. -/
theorem takeBytes_of_frame {n kind tag : Byte} {body : List Byte} (crc : BitVec 16) {s : State}
    (hunting : s.lnk.framer = .hunting) (length : n.toNat = body.length) (fits : body.length ≤ 96) :
    ([0xD1, n, kind, tag] ++ body ++ bytesOf 2 crc.toNat).foldl (fun t x => takeByte x false t) s
      = completeFrame kind tag body crc (hunt s) := by
  have whole := wholeFrame_of_frame (kind := kind) (tag := tag) crc length
  rw [Laws.bytesOf_two] at whole ⊢
  have last (hi lo : Byte) : [0xD1, n, kind, tag] ++ body ++ [hi, lo]
      = 0xD1 :: n :: (kind :: tag :: (body ++ [hi]) ++ [lo]) := by simp
  rw [last, List.foldl_cons, takeByte_of_start hunting, List.foldl_cons, takeByte_length (by omega), List.foldl_append,
    takeBytes_grow _ [] (by simp; omega)]
  exact takeByte_completes (by simpa using whole)

theorem takeFrame_of_good {f : RxFrame} {s : State} (fits : f.body.length ≤ 96) (clean : f.framingError = false) :
    takeFrame f s = completeFrame f.kind f.tag f.body f.crc (hunt s) :=
  if_neg (by rw [clean]; simp; omega)

theorem takeFrame_of_bad {f : RxFrame} {s : State} (bad : 96 < f.body.length ∨ f.framingError = true) :
    takeFrame f s = discardFrame (hunt s) := if_pos bad

/-- Settles O13: the check value by evaluation, and the bytes by `takeBytes_of_frame`. -/
theorem bytesMakeTheFrame : Obligations.BytesMakeTheFrame := by
  unfold Obligations.BytesMakeTheFrame
  refine ⟨by decide +kernel, fun f s hunting clean fits => ⟨congrArg Host.Outcome.next ?_, fun _ _ => rfl⟩⟩
  have length : (BitVec.ofNat 8 f.body.length).toNat = f.body.length := by
    rw [BitVec.toNat_ofNat]
    omega
  rw [takeFrame_of_good fits clean, takeBytes_of_frame f.crc hunting length fits]

/-! What discards a frame (R191), and what a discard does (R192) -/

/-- What no report changes of the link: the framer with its gap timer and the discard count; a reply can only leave
its queue. -/
structure ReceiveFrame (l m : Lnk) : Prop where
  framer : m.framer = l.framer
  gapTimer : m.gapTimer = l.gapTimer
  discards : m.discards = l.discards
  replies : m.replies.length ≤ l.replies.length

theorem arbitrate_receiveFrame (s : State) : ReceiveFrame s.lnk (arbitrate s).lnk := by
  unfold arbitrate
  split
  · exact ⟨rfl, rfl, rfl, Nat.le_refl _⟩
  · split
    · next waiting =>
      refine ⟨rfl, rfl, rfl, ?_⟩
      rw [waiting]
      exact Nat.le_succ _
    · split
      · exact ⟨rfl, rfl, rfl, Nat.le_refl _⟩
      · exact ⟨rfl, rfl, rfl, Nat.le_refl _⟩

theorem sendReport_receiveFrame (r : Report) (s : State) : ReceiveFrame s.lnk (sendReport r s).lnk := by
  unfold sendReport
  split
  · exact ⟨rfl, rfl, rfl, Nat.le_refl _⟩
  · have kept := arbitrate_receiveFrame { s with lnk.reports := s.lnk.reports ++ [r] }
    exact ⟨kept.framer, kept.gapTimer, kept.discards, kept.replies⟩

theorem raiseFault_receiveFrame (id : FaultId) (s : State) : ReceiveFrame s.lnk (raiseFault id s).lnk := by
  unfold raiseFault
  split
  · exact ⟨rfl, rfl, rfl, Nat.le_refl _⟩
  · exact sendReport_receiveFrame _ (s.setFault id ((s.fault id).raised s.nowMs))

/-- R192: the count is one higher, held at 4; the report of a raise leaves the rest of the receiving side. -/
theorem discardFrame_receiveFrame (s : State) : ReceiveFrame (countDiscard s).lnk (discardFrame s).lnk := by
  rcases Nat.lt_or_ge s.lnk.discards 3 with few | many
  · rw [discardFrame_of_few few]
    exact ⟨rfl, rfl, rfl, Nat.le_refl _⟩
  · rw [discardFrame_of_many many]
    exact raiseFault_receiveFrame .link (countDiscard s)

/-- R192: the LINK record is active where it was, or where the count comes to 4. -/
theorem discardFrame_link_active (s : State) :
    ((discardFrame s).fault .link).active = ((s.fault .link).active || decide (3 ≤ s.lnk.discards)) := by
  rcases Nat.lt_or_ge s.lnk.discards 3 with few | many
  · rw [discardFrame_of_few few, decide_eq_false (Nat.not_le.mpr few), Bool.or_false]
    rfl
  · rw [discardFrame_of_many many, raiseFault_active, decide_eq_true many, Bool.or_true]

theorem discardFrame_fault_ne {id : FaultId} (other : id ≠ .link) (s : State) :
    (discardFrame s).fault id = s.fault id := by
  rcases Nat.lt_or_ge s.lnk.discards 3 with few | many
  · rw [discardFrame_of_few few]
    rfl
  · rw [discardFrame_of_many many, raiseFault_fault_ne other]
    rfl

/-- R191, R192: how a frame comes to be discarded. -/
abbrev Discards (c : Instr) (s : State) : Prop :=
  (c = .gapTimerExpiry ∧ s.expired s.lnk.gapTimer = true)
    ∨ (∃ x bytes, c = .receivedByte x true ∧ s.lnk.framer = .inFrame bytes)
    ∨ (∃ x, c = .receivedByte x false ∧ s.lnk.framer = .inFrame [] ∧ 96 < x.toNat)
    ∨ (∃ f, c = .frameReceived f ∧ (96 < f.body.length ∨ f.framingError = true))
    ∨ (∃ f, c = .frameReceived f ∧ s.sfc.restartPending = false
        ∧ crc16 ([BitVec.ofNat 8 f.body.length, f.kind, f.tag] ++ f.body) ≠ f.crc)

/-- The bytes that the CRC covers (R190). -/
theorem covered_eq (kind tag : Byte) (body : List Byte) :
    one body.length ++ [kind, tag] ++ body = [BitVec.ofNat 8 body.length, kind, tag] ++ body := by
  rw [one, Laws.bytesOf_one]
  rfl

theorem completeFrame_of_pending {kind tag : Byte} {body : List Byte} {crc : BitVec 16} {s : State}
    (pending : s.sfc.restartPending = true) : completeFrame kind tag body crc s = s := if_pos pending

theorem completeFrame_of_wrong {kind tag : Byte} {body : List Byte} {crc : BitVec 16} {s : State}
    (running : s.sfc.restartPending = false)
    (wrong : crc16 ([BitVec.ofNat 8 body.length, kind, tag] ++ body) ≠ crc) :
    completeFrame kind tag body crc s = discardFrame s := by
  rw [completeFrame, running, if_neg Bool.false_ne_true, covered_eq, if_neg wrong]

/-- Each of them ends in HUNTING with a discard. -/
theorem exec_of_discards {c : Instr} {s : State} (h : Discards c s) :
    exec c s = .next (discardFrame (hunt s)) := by
  rcases h with ⟨rfl, due⟩ | ⟨x, bytes, rfl, inside⟩ | ⟨x, rfl, inside, long⟩ | ⟨f, rfl, bad⟩
    | ⟨f, rfl, running, wrong⟩
  · exact congrArg Host.Outcome.next (if_pos due)
  · exact congrArg Host.Outcome.next (takeByte_of_framingError inside)
  · exact congrArg Host.Outcome.next (takeByte_of_tooLong inside long)
  · exact congrArg Host.Outcome.next (takeFrame_of_bad bad)
  · refine congrArg Host.Outcome.next ?_
    by_cases bad : 96 < f.body.length ∨ f.framingError = true
    · exact takeFrame_of_bad bad
    · rw [not_or, Bool.not_eq_true, Nat.not_lt] at bad
      obtain ⟨fits, clean⟩ := bad
      rw [takeFrame_of_good fits clean]
      exact completeFrame_of_wrong running wrong

/-- Settles O14: the first bytes by the framer's two equations; each way to a discard leads to `discardFrame`. -/
theorem framerAndDiscards : Obligations.FramerAndDiscards := by
  unfold Obligations.FramerAndDiscards
  refine ⟨fun x fe s hunting noStart => congrArg Host.Outcome.next (takeByte_of_hunting hunting noStart),
    fun s hunting => congrArg Host.Outcome.next (takeByte_of_start hunting), fun c s discards => ?_⟩
  have kept := discardFrame_receiveFrame (hunt s)
  exact ⟨_, exec_of_discards discards, kept.framer, kept.gapTimer, kept.discards, kept.replies,
    discardFrame_link_active (hunt s), fun _ other => discardFrame_fault_ne other (hunt s)⟩

end Sys2Proof.Machine
end

section
/-! SUPPORT. The disposal of requests and good frames (R193), and what the arbiter begins at the end of a frame
(R197). -/

namespace Sys2Proof.Machine

/-! Cases 1 and 2 (R193) -/

/-- R193: a request is its owner's, behind cases 1 and 2 (log 6). -/
theorem exec_of_request {i : Instr} (request : (Laws.requestBody i).isSome = true) (s : State) :
    exec i s = .next (asRequest (passToOwner i) s) := by
  fun_cases Laws.requestBody i
  -- The last case holds the commands that are no request.
  case case19 => simp_all [Laws.requestBody]
  all_goals rfl

theorem asRequest_of_pending (owner : State → State) {s : State} (pending : s.sfc.restartPending = true) :
    asRequest owner s = s := if_pos pending

theorem asRequest_of_full (owner : State → State) {s : State} (running : s.sfc.restartPending = false)
    (full : 4 ≤ s.lnk.replies.length) : asRequest owner s = { s with lnk.requestsDiscarded := true } := by
  rw [asRequest, running, if_neg Bool.false_ne_true, if_pos full]

/-! What a body spells is a request (R193, case 4) -/

theorem request_of_configureOf {tag : Byte} {body : List Byte} {i : Instr}
    (spells : configureOf tag body = some i) : (Laws.requestBody i).isSome = true := by
  unfold configureOf at spells
  split at spells
  · exact absurd spells (by simp)
  · split at spells
    · obtain ⟨fields, -, rfl⟩ := Option.map_eq_some_iff.mp spells
      rfl
    · cases spells
      rfl

theorem request_of_segmentAppendOf {tag : Byte} {body : List Byte} {i : Instr}
    (spells : segmentAppendOf tag body = some i) : (Laws.requestBody i).isSome = true := by
  unfold segmentAppendOf at spells
  split at spells
  · exact absurd spells (by simp)
  · split at spells
    · cases spells
      rfl
    · exact absurd spells (by simp)

theorem request_of_requestOf {k : ReqKind} {tag : Byte} {body : List Byte} {i : Instr}
    (spells : requestOf k tag body = some i) : (Laws.requestBody i).isSome = true := by
  cases k
  case configure => exact request_of_configureOf spells
  case segmentAppend => exact request_of_segmentAppendOf spells
  case identify | start | stop | restart | routeFlush | faultQuery =>
    rcases body with _ | _ <;> cases spells
    rfl
  case referenceSelect | axleIsolate | axleRestore | statusQuery =>
    rcases body with _ | ⟨_, _ | _⟩ <;> cases spells
    rfl
  case sandRequest | faultClear =>
    rcases body with _ | ⟨_, _ | ⟨_, _ | _⟩⟩ <;> cases spells
    rfl
  case wheelTrim | sandFill =>
    rcases body with _ | ⟨_, _ | ⟨_, _ | ⟨_, _ | _⟩⟩⟩ <;> cases spells
    rfl
  case demand =>
    rcases body with _ | ⟨_, _ | ⟨_, _ | ⟨_, _ | ⟨_, _ | ⟨_, _ | _⟩⟩⟩⟩⟩ <;> cases spells
    rfl
  case positionFix =>
    rcases body with _ | ⟨_, _ | ⟨_, _ | ⟨_, _ | ⟨_, _ | ⟨_, _ | ⟨_, _ | _⟩⟩⟩⟩⟩⟩ <;> cases spells
    rfl

/-! A good frame (R192, R193) -/

theorem completeFrame_of_good {kind tag : Byte} {body : List Byte} {crc : BitVec 16} {s : State}
    (running : s.sfc.restartPending = false) (good : crc16 ([BitVec.ofNat 8 body.length, kind, tag] ++ body) = crc) :
    completeFrame kind tag body crc s = asRequest (dispose kind tag body) (countGood s) := by
  rw [completeFrame, running, if_neg Bool.false_ne_true, covered_eq, if_pos good]

/-- R192: the count of a good frame opens and closes no request's way to its owner. -/
theorem countGood_accepts {s : State} (h : accepts s) : accepts (countGood s) := by
  rw [countGood_eq]
  exact h

theorem dispose_of_spells {kind tag : Byte} {body : List Byte} {k : ReqKind} {i : Instr}
    (known : ReqKind.ofByte? kind = some k) (spells : requestOf k tag body = some i) :
    dispose kind tag body = passToOwner i := by
  funext s
  rw [dispose, known]
  dsimp only
  rw [spells]

theorem dispose_of_badLength {kind tag : Byte} {body : List Byte} {k : ReqKind} (s : State)
    (known : ReqKind.ofByte? kind = some k) (spells : requestOf k tag body = none) :
    dispose kind tag body s = sendReply ⟨kind, tag, .badLength⟩ s := by
  rw [dispose, known]
  dsimp only
  rw [spells]

theorem dispose_of_unknown {kind tag : Byte} {body : List Byte} (s : State)
    (unknown : ReqKind.ofByte? kind = none) :
    dispose kind tag body s = sendReply ⟨kind, tag, .unknownKind⟩ s := by
  rw [dispose, unknown]

/-- Settles O15: the requests by `exec_of_request`, a good frame by the count and then the case of R193. -/
theorem goodFrameDisposal : Obligations.GoodFrameDisposal := by
  unfold Obligations.GoodFrameDisposal
  refine ⟨fun i s request => ?_, fun f s fits clean good => ?_⟩
  · rw [exec_of_request request]
    exact ⟨fun pending => congrArg Host.Outcome.next (asRequest_of_pending _ pending),
      fun running full => congrArg Host.Outcome.next (asRequest_of_full _ running full)⟩
  · have whole : exec (.frameReceived f) s = .next (completeFrame f.kind f.tag f.body f.crc (hunt s)) :=
      congrArg Host.Outcome.next (takeFrame_of_good fits clean)
    rw [whole]
    refine ⟨fun pending => congrArg Host.Outcome.next (completeFrame_of_pending pending), fun running => ?_⟩
    rw [completeFrame_of_good (s := hunt s) running good]
    refine ⟨fun k i known spells => ?_, fun room => ?_⟩
    · rw [dispose_of_spells known spells, exec_of_request (request_of_requestOf spells)]
    · rw [asRequest_of_accepts _ (countGood_accepts (s := hunt s) ⟨running, room⟩)]
      exact ⟨fun k known spells => congrArg Host.Outcome.next (dispose_of_badLength _ known spells),
        fun unknown => congrArg Host.Outcome.next (dispose_of_unknown _ unknown)⟩

/-! The arbiter at the end of a frame (R197) -/

theorem arbitrate_of_reply {s : State} {r : Reply} {rest : List Reply} (free : s.lnk.inFlight = none)
    (waits : s.lnk.replies = r :: rest) :
    arbitrate s = { s with lnk := { s.lnk with replies := rest, inFlight := some (.reply r) } } := by
  rw [arbitrate, free]
  dsimp only
  rw [waits]

theorem arbitrate_of_report {s : State} {r : Report} {rest : List Report} (free : s.lnk.inFlight = none)
    (noReply : s.lnk.replies = []) (waits : s.lnk.reports = r :: rest) :
    arbitrate s = { s with lnk := { s.lnk with reports := rest, inFlight := some (.report r) } } := by
  rw [arbitrate, free]
  dsimp only
  rw [noReply, waits]

theorem arbitrate_of_none {s : State} (noReply : s.lnk.replies = []) (noReport : s.lnk.reports = []) :
    arbitrate s = s := by
  rw [arbitrate, noReply, noReport]
  dsimp only
  split <;> rfl

theorem frameSent_of_idle {s : State} (idle : s.lnk.inFlight = none) : frameSent s = s := by
  rw [frameSent, idle]

theorem frameSent_of_plain {s : State} {f : TxFrame} (busy : s.lnk.inFlight = some f)
    (plain : restartReplyInFlight s = false) : frameSent s = arbitrate { s with lnk.inFlight := none } := by
  rw [frameSent, busy, plain]
  exact if_neg Bool.false_ne_true

/-- Settles O16: the line is freed and the arbiter acts. -/
theorem transmitOrder : Obligations.TransmitOrder := by
  unfold Obligations.TransmitOrder
  refine ⟨fun s idle => congrArg Host.Outcome.next (frameSent_of_idle idle), fun s f busy plain => ?_⟩
  have freed : exec .frameTransmitted s = .next (arbitrate { s with lnk.inFlight := none }) :=
    congrArg Host.Outcome.next (frameSent_of_plain busy plain)
  rw [freed]
  exact ⟨fun r rest waits => congrArg Host.Outcome.next (arbitrate_of_reply rfl waits),
    fun r rest noReply waits => congrArg Host.Outcome.next (arbitrate_of_report rfl noReply waits),
    fun noReply noReport => congrArg Host.Outcome.next (arbitrate_of_none noReply noReport)⟩

end Sys2Proof.Machine
end

section
/-! SUPPORT. The answers of IDENTIFY and STATUS QUERY (R194, R198, R199). -/

namespace Sys2Proof.Machine

/-! IDENTIFY (R199) -/

theorem identityBody_eq (s : State) : identityBody s
    = [0x48, 0x47, 0x36, 0x00, 0x00, 0x00, 0x01, BitVec.ofNat 8 s.sfc.opState.code]
      ++ bytesOf 3 s.sfc.sent.toNat := by
  rw [identityBody, one, Laws.bytesOf_one, sentBytes]
  rfl

theorem exec_identify {s : State} (tag : Byte) (h : accepts s) :
    exec (.identify tag) s = .next (withReply .identify tag (.ok (identityBody s)) s) :=
  congrArg Host.Outcome.next (asRequest_of_accepts (takeIdentify tag) h)

/-- Settles O17: the reply's bytes by `identityBody_eq`; a reply changes the link alone. -/
theorem identifyAnswers : Obligations.IdentifyAnswers := by
  unfold Obligations.IdentifyAnswers
  intro tag s h
  refine ⟨(exec_identify tag h).trans ?_, answer_eq _ _ _ s⟩
  exact congrArg (fun body => Host.Outcome.next (withReply .identify tag (.ok body) s)) (identityBody_eq s)

/-! STATUS QUERY (R198) -/

/-- Table 10-10: there are ten groups. -/
theorem statusGroup_of_gt (s : State) {n : Nat} (h : 9 < n) : statusGroup s n = none := by
  obtain ⟨m, rfl⟩ := Nat.exists_eq_add_of_le' h
  rfl

theorem statusGroup_of_le (s : State) {n : Nat} (h : n ≤ 9) : ∃ contents, statusGroup s n = some contents := by
  interval_cases n <;> exact ⟨_, rfl⟩

theorem flagsByte_eq (l : Lnk) : l.flagsByte
    = BitVec.ofNat 8 ((if l.reportsLost then 1 else 0) + (if l.requestsDiscarded then 2 else 0)) := by
  rw [Lnk.flagsByte]
  cases l.reportsLost <;> cases l.requestsDiscarded <;> rfl

theorem statusBody_eq (s : State) (group : Byte) (contents : List Byte) : statusBody s group.toNat contents
    = [BitVec.ofNat 8 ((if s.lnk.reportsLost then 1 else 0) + (if s.lnk.requestsDiscarded then 2 else 0)), group]
      ++ bytesOf 4 s.nowMs.toNat ++ contents := by
  rw [statusBody, flagsByte_eq, one, Laws.bytesOf_one, BitVec.ofNat_toNat, BitVec.setWidth_eq, timeBytes]
  rfl

section

variable {tag group : Byte} {s : State}

theorem exec_statusQuery_of_gt (h : accepts s) (above : 9 < group.toNat) : exec (.statusQuery tag group) s
    = .next (withReply .statusQuery tag (.refusedRange 1) s) := by
  refine congrArg Host.Outcome.next ((asRequest_of_accepts (takeStatusQuery tag group) h).trans ?_)
  rw [takeStatusQuery, statusGroup_of_gt s above]

theorem exec_statusQuery_of_group {contents : List Byte} (h : accepts s)
    (carries : statusGroup s group.toNat = some contents) : exec (.statusQuery tag group) s
      = .next (withReply .statusQuery tag (.ok (statusBody s group.toNat contents))
        { s with lnk := { s.lnk with reportsLost := false, requestsDiscarded := false } }) := by
  refine congrArg Host.Outcome.next ((asRequest_of_accepts (takeStatusQuery tag group) h).trans ?_)
  rw [takeStatusQuery, carries]

end

/-! The contents of the groups (Table 10-10) -/

theorem one_yesNo (p : Prop) [Decidable p] : one (if p then 1 else 0) = flagByte (decide p) := by
  by_cases h : p
  · rw [if_pos h, decide_eq_true h]
    rfl
  · rw [if_neg h, decide_eq_false h]
    rfl

theorem one_timerCode (t : Timer) : one (timerCode t) = flagByte t.isSome :=
  (one_yesNo _).trans (congrArg flagByte Bool.decide_eq_true)

theorem one_movingCode (moving : Bool) : one (movingCode moving) = flagByte (!moving) := by
  cases moving <;> rfl

theorem one_gainModeCode (m : GainMode) : one (gainModeCode m) = flagByte (decide (m = .auto)) := by
  cases m <;> rfl

theorem one_tripModeCode (m : TripMode) : one (tripModeCode m) = flagByte (decide (m = .reportOnly)) := by
  cases m <;> rfl

/-- R118: the design force and the cap of each bogie, after `front`. -/
theorem append_capBytes (front : List Byte) (fmax cap : PerBogie Nat) :
    front ++ (Bogie.all.flatMap fun x => two (fmax.get x) ++ two (cap.get x))
      = front ++ two fmax.a ++ two cap.a ++ two fmax.t ++ two cap.t ++ two fmax.b ++ two cap.b := by
  simp [Bogie.all, PerBogie.get]

/-- Table 10-8. -/
theorem sampleBytes_eq (c : Chan) (latest : Option Sample) : sampleBytes c latest = bytesOf 1 c.number
      ++ match latest with
        | none => List.replicate 16 0
        | some p => bytesOf 2 p.seq.toNat ++ signedBytes 4 p.net ++ bytesOf 4 p.duration
          ++ bytesOf 1 p.windows ++ signedBytes 2 p.v ++ signedBytes 2 p.a
          ++ [bitsByte [p.flags.standstill, p.flags.reversal, p.flags.stretched, p.flags.overrange,
            p.flags.implausible, p.flags.isolated, p.flags.invalid, true]] := by
  cases latest with
  | none => rfl
  | some p => simp only [sampleBytes, one, two, four, SampleFlags.byte, List.append_assoc]

/-- R116: the target, the output value and the duty of a pressure line. -/
theorem outputBytes_eq (s : State) (x : Bogie) :
    two (s.bld.out.get x).aim ++ optBytes 2 ((s.pressure? x).map two) ++ two (pressureDuty s x)
      = bytesOf 2 (s.bld.out.get x).aim
        ++ (if s.bld.out.get x = .absent then optBytes 2 none ++ bytesOf 2 1000
          else optBytes 2 (some (bytesOf 2 (s.pressure x)))
            ++ bytesOf 2 ((2 * (s.pressure x * 1000) + s.blend.pMax.get x) / (2 * s.blend.pMax.get x))) := by
  rw [State.pressure?, pressureDuty, List.append_assoc]
  cases s.bld.out.get x with
  | absent => rfl
  | steady v => rw [if_neg (by simp)]; rfl
  | ramp start since aim => rw [if_neg (by simp)]; rfl

/-- Table 7-1: a valve with what its shot or its recovery carries. -/
theorem valveBytes_eq (s : State) (v : Valve) :
    one v.code ++ optBytes 14 (v.shot?.map (shotBytes s)) ++ two (s.timeLeft v.recoveryTimer) = match v with
      | .closed => bytesOf 1 0 ++ optBytes 14 none ++ bytesOf 2 0
      | .pouring shot => bytesOf 1 1 ++ optBytes 14 (some (bytesOf 1 (sandSourceCode shot.source)
          ++ bytesOf 2 shot.arrival.toNat ++ bytesOf 2 shot.length ++ bytesOf 1 shot.flow
          ++ bytesOf 4 shot.since.toNat ++ bytesOf 2 shot.allowed
          ++ bytesOf 2 (s.timeLeft (some shot.due)))) ++ bytesOf 2 0
      | .recovery due => bytesOf 1 2 ++ optBytes 14 none ++ bytesOf 2 (s.timeLeft (some due)) := by
  cases v <;> rfl

/-- Settles O18: a group above 9 has no contents; the ten groups' contents are those of Table 10-10, code by code. -/
theorem statusQueryAnswers : Obligations.StatusQueryAnswers := by
  unfold Obligations.StatusQueryAnswers
  refine ⟨fun tag group s h => ⟨exec_statusQuery_of_gt h, fun le => ?_⟩, fun s =>
    ⟨rfl, congrArg some ?_, rfl, congrArg some ?_, congrArg some ?_, congrArg some ?_, congrArg some ?_,
      congrArg some ?_, congrArg some ?_, congrArg some ?_⟩⟩
  · obtain ⟨contents, carries⟩ := statusGroup_of_le s le
    refine ⟨contents, carries, ?_⟩
    rw [exec_statusQuery_of_group h carries, statusBody_eq]
  -- Group 1.
  · exact List.flatMap_congr fun c _ => sampleBytes_eq c _
  -- Group 3.
  · rfl
  -- Group 4, on the route and in BEYOND-ROUTE.
  · rw [group4, State.grade, State.condition, State.override, State.sandInhibited, State.headSegment]
    cases s.rlq.queue
    all_goals
      simp only [one_yesNo, List.append_assoc]
      rfl
  -- Group 5.
  · unfold group5
    simp only [append_capBytes, outputBytes_eq, one_timerCode]
    rfl
  -- Group 6.
  · simp only [group6, threeTwo, one_timerCode, List.append_assoc]
    rfl
  -- Group 7.
  · simp only [group7, valveBytes_eq, one_timerCode]
    rfl
  -- Group 8.
  · simp only [group8, one_timerCode, one_movingCode, one_gainModeCode]
    rfl
  -- Group 9.
  · simp only [group9, one_tripModeCode]
    rfl

end Sys2Proof.Machine
end

section
/-! SUPPORT. A step on a queue that holds a command (log 2); `step_of_pending_nil` is its counterpart on an
empty queue. -/

namespace Sys2Proof.Machine

theorem step_of_pending_cons {c : Instr} {rest : List Instr} {s : State} (h : s.pending = c :: rest) :
    step s = exec c { s with pending := rest } := by
  rw [step, h]

/-- Settles O1: the front of that queue is `c`, and with the rest put back the state is `s` itself. -/
theorem stepRunsFront : Obligations.StepRunsFront := by
  unfold Obligations.StepRunsFront
  intro c s
  have restored : { s with pending := s.pending } = s := rfl
  rw [step_of_pending_cons (c := c) (rest := s.pending) rfl, restored]

end Sys2Proof.Machine
end
